-- ==== Sys2Proof/Word.lean ====
section
/-! DEFINITION. The word types of the Rammor and their plainest arithmetic (R51, R69, R70). -/

namespace Sys2Proof

/-- A byte of memory. -/
abbrev Byte := BitVec 8

/-- A 64-bit register value (R69). -/
abbrev Word := BitVec 64

/-- A 512-bit vector register (R70). -/
abbrev VWord := BitVec 512

/-- A tile register: 16 rows of 64 bytes as one 1-KiB image (R72). -/
abbrev TWord := BitVec 8192

end Sys2Proof
end

