-- ==== Sys2Proof/Config.lean ====
section
/-! DEFINITION. What the spec leaves open: constants without a body, so that nothing in Lean can prove a value of one. Each is
named in the assumption log. A claim about the model holds whatever they are. -/

namespace Sys2Proof.Config

/-- The free values of the machine, numbered by the counter `State.free`: what the spec calls undefined or does not state
(log 1). -/
opaque freeNat : Nat → Nat

/-- Within how many ticks of becoming ready a launch without a deadline is placed, once it can be (R44 promises that it is, and
gives no time; log 77). -/
opaque placeBound : Nat

/-- Which of several enabled happenings comes next, where no rule orders them; numbered by `State.free` (log 6). -/
opaque pick : Nat → Nat

/-- How many bytes past the next instruction a core has fetched (R91 leaves it open; log 7). -/
opaque fetchAhead : Nat

/-- How many increments a core may have waiting for injection before a timed POST lacks a credit (R174; log 14). -/
opaque injectionCredits : Nat

/-- How many requests the memory engine of a cluster, or a sluice, holds beside one; and how many bytes it serves in a window of
1,024 ticks (R32, R354 leave both open; log 71). -/
opaque clusterQueue : Nat
opaque sluiceQueue : Nat
opaque engineBytes : Nat

/-- The digest SHAKE256 of a message with a number of output bytes (FIPS 202, an outside standard; log 8). -/
opaque shake256 : Nat → List Byte → List Byte

/-- Verification of an SLH-DSA-SHAKE-256s signature: public key, message, signature (FIPS 205; log 8). -/
opaque slhDsaVerify : List Byte → List Byte → List Byte → Bool

/-- The signature that the device makes with its own key (FIPS 205; log 8). -/
opaque slhDsaSign : List Byte → List Byte

/-- The public key fixed at manufacture (R429; log 8). -/
opaque manufacturerKey : List Byte

/-- The bytes of the key table that stage 4 measures (R430 gives the table no layout; log 22). -/
opaque keyTableBytes : List (Nat × List Byte) → List Byte

/-- What entry 0 signs for a key install and a key removal: the entry number and the key or KEYID (R429 gives the messages no
layout; log 22). -/
opaque installMessage : Nat → List Byte → List Byte
opaque removalMessage : Nat → List Byte → List Byte

/-- What the device signs in answer to an attestation request: the entries, the running value and the nonce (R431; log 22). -/
opaque attestationMessage : List Byte → List Byte → List Byte → List Byte

/-- Values of the root region that R432 does not give, by the number of the field; log 23. -/
opaque rootValue : Nat → Nat

/-- The root stage tables of a root image (R432): the address of the top table, and the bytes of the tables by physical address;
log 23. -/
opaque rootStage : List Byte → Nat
opaque rootTables : List Byte → List (Nat × List Byte)

/-- t(X) of R258 and R268: how many ticks a plain CP takes under a reservation RES, by its bytes (the spec gives no figure; log
89). -/
opaque copyTime : Nat → Nat → Nat

/-- Number of DRAM layers of a stack (R410). -/
opaque layers : Nat

end Sys2Proof.Config
end

