-- ==== Sys2Proof/Syntax.lean ====
section
/-! DEFINITION. The instruction set as a syntax: one constructor of `Instr` for each row of the spec's opcode table
(R62-R68). A row with an encoding carries its register and immediate fields; a row without one (an event of the device)
carries what distinguishes one such event from another. -/

namespace Sys2Proof

/-- Identifier of a region (R16). -/
abbrev RegionId := BitVec 16

/-- What a remote operation carries beside its operands: the key of its window, the port that it arrives at, the ordered flow that
it belongs to (none under RUD), and whether it uses only what the ports support (R360, R366). -/
structure Packet where
  key : BitVec 32
  port : BitVec 5
  flow : Option Nat
  supported : Bool
  deriving DecidableEq, Repr

/-- What one patrol-scrub read of a granule found (R413). -/
inductive ScrubFinding where
  /-- no error -/
  | clean
  /-- an error within the code's reach, written back corrected -/
  | corrected
  /-- an error beyond it: the granule is marked poisoned -/
  | uncorrectable
  /-- an ordinary read of the granule, and not the scrub, meets an error within the code's reach, or one beyond it (R407, R414) -/
  | readCorrected
  | readUncorrectable
  deriving DecidableEq, Repr

/-- One constructor per row of the opcode table: the events first, then the encoded rows, the plain arithmetic last (the
order carries no meaning). Register fields are as wide as their class allows (R53), so a field
outside its class cannot be written down. -/
inductive Instr where
  /-- A fetched word that is an illegal encoding raises a precise ILLEGAL trap. (R60) -/
  | illegalWord (long : Bool) (w : BitVec 32)
  /-- An issued instruction's result lands in its registers at its latency, with its sticky flags. (R87) -/
  | registerLanding
  /-- A pending interrupt is taken at an instruction boundary once INH, TIMED and drain allow it. (R382) -/
  | takeInterrupt
  /-- The last named member arrives, CSUIT is set on every member and the suit forms. (R180) -/
  | suitBarrierComplete (grp : Nat) (mask : BitVec 16)
  /-- At CTIME = T the segment starts, with CSEG 0 and TIMED 1. (R358) -/
  | timedSegmentStart
  /-- The counter reaches its target, and the wait completes as an acquire. (R175) -/
  | waitcSatisfied
  /-- The barrier's phase flips, and the wait completes as an acquire. (R176) -/
  | waitbSatisfied
  /-- Enough batches have finished; the wait completes or raises ENGINE. (R308) -/
  | waitnSatisfied
  /-- Every earlier access is performed for the scope, and FENCE completes. (R177) -/
  | fenceComplete
  /-- The core's earlier governor commands have completed, and TFENCE completes. (R236) -/
  | tfenceComplete
  /-- The keyed commands have completed, and their group is published or discarded. (R322) -/
  | pubComplete
  /-- GBAR completes on every participant, and the superstep number rises. (R36) -/
  | superstepBoundary (reg : RegionId)
  /-- WATCHDOG cycles pass without a boundary, and TIMER is raised at the supervising core. (R38) -/
  | superstepWatchdog (reg : RegionId)
  /-- At Ts every participating core stops, spills in-flight messages to kitties and writes back its workspace. (R392) -/
  | gangStop (reg : RegionId)
  /-- At Tr kitties re-inject their messages and every core issues its next instruction. (R41) -/
  | gangResume (reg : RegionId)
  /-- Every broken core has returned, and Tr is fixed 256 cycles later. (R391) -/
  | debugStopEnd (reg : RegionId)
  /-- The halting core's landings, streams, commands and send queue complete, and the core stops. (R384) -/
  | coreHalt
  /-- Every 200,000 ticks, tokens are refilled, lent, expired and repaid, parents before children. (R349) -/
  | deal
  /-- A waiting launch's dependence counters all hold, and it becomes ready. (R352) -/
  | launchReady (reg : RegionId) (seq : Nat)
  /-- The dealer chooses a ready launch and starts loading its image into the participating cores. (R355) -/
  | launchPlace (reg : RegionId)
  /-- At the agreed timestamp T every participating core issues the entry instruction in the entry state. (R21) -/
  | launchStart (reg : RegionId)
  /-- The dealer answers an RCREATE, RLAUNCH or RREVOKE with a result or a refusal code. (R345) -/
  | dealerAnswer
  /-- Once the subtree's launches have stopped, its regions are dismantled, and REVOKE completion is raised. (R395) -/
  | revokeDismantle (reg : RegionId)
  /-- An increment arrives at a counter or its arrival log, raising MAILBOX on counter 63. (R316) -/
  | mailboxIncrement (n : Nat)
  /-- The governor starts the next queued command. (R211) -/
  | governorCommandStart (grp : Nat)
  /-- The cube processes one 16-k slice for all 256 outputs. (R209) -/
  | cubeStep (grp : Nat)
  /-- A governor command writes its result, releases its locks and completes. (R211) -/
  | governorCommandComplete (grp : Nat)
  /-- The copy engine starts a command, making its start-time checks and snapshots. (R290) -/
  | engineCommandStart (id : Nat)
  /-- Destination bytes land, decrementing the linked barrier. (R311) -/
  | engineLanding (id : Nat)
  /-- A command publishes, queues its follow-on, writes its status, posts its signal and completes. (R292) -/
  | engineCommandComplete (id : Nat)
  /-- The engine fetches the next stream element for a bound read stream. (R323) -/
  | streamFetch (v : Bool) (i : BitVec 3)
  /-- The engine writes an appended stream element to memory. (R323) -/
  | streamWrite (v : Bool) (i : BitVec 3)
  /-- The last participant issues, and a network instance starts, taking reduction contexts or falling back to the endpoints. (R370) -/
  | collectiveInstanceStart (id : Nat)
  /-- The housekeeper frees, folds or defers a ghost whose child count changed. (R273) -/
  | housekeeperFold (reg : RegionId) (idx : Nat)
  /-- A FREEING record whose reads have finished becomes FREE with GEN raised. (R257) -/
  | nodeFree (reg : RegionId) (idx : Nat)
  /-- The background scrub zeroes a scrub-pending line. (R396) -/
  | scrubLine
  /-- A failing page is copied to a spare, its mapping is swapped and VERSION rises. (R404) -/
  | pageRetire (page : Nat)
  /-- At least every 10 µs, the management core sets each layer's refresh interval from its sensor. (R410) -/
  | refreshUpdate (temps : List Nat)
  /-- The management core sends a heartbeat to the refresh sequencer. (R412) -/
  | heartbeat (stack : Nat)
  /-- With no heartbeat for 100 µs, the hard-wired sequencer takes over refresh. (R412) -/
  | refreshTakeover (stack : Nat)
  /-- The management class restarts the management core, ending a takeover. (R412) -/
  | mgmtCoreRestart (stack : Nat)
  /-- The patrol scrubber reads a granule, correcting it or poisoning it. (R413) -/
  | patrolScrub (granule : Nat) (outcome : ScrubFinding)
  /-- A chunk expansion exceeds its byte or cycle limit and is treated as poisoned. (R418) -/
  | decoderWatchdog (page : Nat) (code : Nat)
  /-- The promotion of a compressed page completes, and the waiting accesses proceed. (R420) -/
  | implicitPromotion (page : Nat)
  /-- An unanswered link request times out after 1 ms, and the expander is isolated. (R422) -/
  | expanderTimeout (link : Nat)
  /-- The management class reinstates a reset expander, poisoning the pages that had writes pending. (R423) -/
  | expanderReinstate (link : Nat)
  /-- A capacity extent is added at the fabric manager's request. (R415) -/
  | extentAdd (link : Nat) (first : Nat) (count : Nat)
  /-- An extent release is granted after its pages have moved, or refused. (R415) -/
  | extentRelease (link : Nat) (first : Nat)
  /-- A remote write through a memory window is performed and acknowledged. (R363) -/
  | remoteWrite (p : Packet) (off : Nat) (data : List Byte)
  /-- A remote read through a memory window returns its data. (R363) -/
  | remoteRead (p : Packet) (off : Nat) (len : Nat)
  /-- A remote 8-byte fetch-add on a memory window. (R363) -/
  | remoteFetchAdd (p : Packet) (off : Nat) (v : Word)
  /-- A remote 8-byte swap on a memory window. (R363) -/
  | remoteSwap (p : Packet) (off : Nat) (v : Word)
  /-- A remote 8-byte compare-swap on a memory window. (R363) -/
  | remoteCompareSwap (p : Packet) (off : Nat) (cmp : Word) (v : Word)
  /-- A 4-byte add to a counter window acts as a signal and releases over the region. (R364) -/
  | remoteCounterAdd (p : Packet) (off : Nat) (v : BitVec 32)
  /-- The management class writes a host window entry. (R362) -/
  | installHostWindow (slot : Nat) (entry : BitVec 256)
  /-- The management class installs a peer group. (R369) -/
  | installPeerGroup (grp : Nat) (rank : Nat) (regs : List RegionId)
  /-- The management class reads telemetry. (R361) -/
  | readTelemetry
  /-- The management class delivers a 64-bit message to the root's supervising core. (R380) -/
  | hostmsg (msg : Word)
  /-- A root-signed message installs an image key. (R429) -/
  | keyInstall (slot : Nat) (pub : List Byte) (sig : List Byte)
  /-- A root-signed message removes an image key and discards the verifications made under it. (R429) -/
  | keyRemoval (slot : Nat) (keyid : List Byte) (sig : List Byte)
  /-- The management class returns the signed attestation log with a nonce. (R431) -/
  | attestationRequest (nonce : List Byte)
  /-- In safe mode the management class replaces firmware stages. (R428) -/
  | firmwareReplace (stage : Nat) (image : List Byte)
  /-- A warm start runs stages 3–5 if the calibration record is valid, else becomes a cold start. (R426) -/
  | warmStartRequest
  /-- Power-on or an ordered cold start runs start stages 1–5. (R424) -/
  | coldStart
  /-- The management core changes a die's clock between supersteps. (R433) -/
  | clockChange (die : Nat) (period : Nat)
  /-- A die reaching 115 °C stops its clock, a hardware fault that voids promises. (R434) -/
  | thermalClockStop (die : Nat)
  /-- The die falls below 105 °C and resumes its clock. (R434) -/
  | thermalClockResume (die : Nat)
  /-- Loss of a die-to-die link strands a core of a running launch, a hardware fault. (R435) -/
  | dieLinkLoss (pos : Nat)
  /-- A running deadline launch passes its declared WORST time and turns void with CODE 0x21 while it keeps running. (R342) -/
  | worstExceeded (reg : RegionId)
  /-- A running launch's per-cycle token draw leaves BALANCE − EARMARK at zero, so the region borrows from its parent's pool or, with nothing to borrow, loses placement and its reserved bandwidth. (R350) -/
  | balanceExhausted (reg : RegionId)
  /-- UET abandons retransmission to a package of a peer group, and every unfinished collective instance that involves it fails with code 0x22 and 0x23 on the others. (R374) -/
  | peerUnreachable (grp : Nat) (rank : Nat)
  /-- The management class installs transport-security keys for a traffic class on the Ultra Ethernet ports. (R360) -/
  | transportKeyInstall (cls : Nat) (key : List Byte)
  /-- The device moves a capacity-tier page for wear levelling within the background reservation, keeping the page raw or compressed as it was. (R436) -/
  | wearLevelling (src : Nat) (dst : Nat)
  /-- Branches by OFF15 halfwords if a = b. (R144) -/
  | beq (a : BitVec 5) (b : BitVec 5) (o : BitVec 15)
  /-- Branches if a ≠ b. (R144) -/
  | bne (a : BitVec 5) (b : BitVec 5) (o : BitVec 15)
  /-- Branches if a < b as signed values. (R144) -/
  | blt (a : BitVec 5) (b : BitVec 5) (o : BitVec 15)
  /-- Branches if a ≥ b as signed values. (R144) -/
  | bge (a : BitVec 5) (b : BitVec 5) (o : BitVec 15)
  /-- Branches if a < b as unsigned values. (R144) -/
  | bltu (a : BitVec 5) (b : BitVec 5) (o : BitVec 15)
  /-- Branches if a ≥ b as unsigned values. (R144) -/
  | bgeu (a : BitVec 5) (b : BitVec 5) (o : BitVec 15)
  /-- Jumps PC-relative by OFF20 halfwords and writes PC + 4 to gD. (R145) -/
  | jal (d : BitVec 5) (o : BitVec 20)
  /-- Jumps to a plus the offset and writes PC + 4 to gD, trapping ALIGN on an odd target or WINDOW on a target outside local memory. (R145) -/
  | jalr (d : BitVec 5) (a : BitVec 5) (o : BitVec 13)
  /-- Decrements gA and branches while the result is non-zero. (R146) -/
  | loop (a : BitVec 5) (o : BitVec 13)
  /-- Issues the next instruction n cycles after this one. (R148) -/
  | idle (n : BitVec 13)
  /-- Raises a precise BREAK trap with XVAL = code. (R149) -/
  | brk (c : BitVec 12)
  /-- Raises a precise ECALL trap with XVAL = code. (R149) -/
  | ecall (c : BitVec 12)
  /-- Loads a byte and sign-extends it into gD. (R153) -/
  | ldB (d : BitVec 5) (a : BitVec 5) (o : BitVec 13)
  /-- Loads a halfword and sign-extends it into gD. (R153) -/
  | ldH (d : BitVec 5) (a : BitVec 5) (o : BitVec 13)
  /-- Loads a word and sign-extends it into gD. (R153) -/
  | ldW (d : BitVec 5) (a : BitVec 5) (o : BitVec 13)
  /-- Loads a doubleword into gD, stalling in free code on translated memory. (R153) -/
  | ldD (d : BitVec 5) (a : BitVec 5) (o : BitVec 13)
  /-- Loads a byte and zero-extends it into gD. (R153) -/
  | ldBu (d : BitVec 5) (a : BitVec 5) (o : BitVec 13)
  /-- Loads a halfword and zero-extends it into gD. (R153) -/
  | ldHu (d : BitVec 5) (a : BitVec 5) (o : BitVec 13)
  /-- Loads a word and zero-extends it into gD. (R153) -/
  | ldWu (d : BitVec 5) (a : BitVec 5) (o : BitVec 13)
  /-- Stores the low byte of gD. (R153) -/
  | stB (d : BitVec 5) (a : BitVec 5) (o : BitVec 13)
  /-- Stores the low halfword of gD. (R153) -/
  | stH (d : BitVec 5) (a : BitVec 5) (o : BitVec 13)
  /-- Stores the low word of gD. (R153) -/
  | stW (d : BitVec 5) (a : BitVec 5) (o : BitVec 13)
  /-- Stores gD as a doubleword, or writes a register when the address lies in the active workspace's register areas. (R153) -/
  | stD (d : BitVec 5) (a : BitVec 5) (o : BitVec 13)
  /-- Loads a group of 2^W vector registers from memory and tags each BITS. (R154) -/
  | ldv (d : BitVec 5) (a : BitVec 5) (o : BitVec 13) (w : BitVec 2)
  /-- Stores a group of 2^W vector registers to memory, whatever their tags. (R154) -/
  | stv (d : BitVec 5) (a : BitVec 5) (o : BitVec 13) (w : BitVec 2)
  /-- Loads consecutive g registers from ascending 8-byte words, stopping partially on a page or poison fault. (R157) -/
  | ldm (d : BitVec 5) (a : BitVec 5) (b : BitVec 5)
  /-- Stores consecutive g registers to ascending 8-byte words. (R157) -/
  | stm (d : BitVec 5) (a : BitVec 5) (b : BitVec 5)
  /-- Loads 16 rows of 64 bytes into a tile, using the pitch and tag held in gB. (R160) -/
  | ldt (d : BitVec 3) (a : BitVec 5) (b : BitVec 5)
  /-- Stores the 16 rows of a tile at the pitch held in gB. (R160) -/
  | stt (d : BitVec 3) (a : BitVec 5) (b : BitVec 5)
  /-- Looks key a up in the group tag table and returns the hitting slot, or a miss value, in gD. (R162) -/
  | look (d : BitVec 5) (a : BitVec 5)
  /-- Writes key a into tag-table slot b[11:0], or invalidates that slot. (R162) -/
  | lset (a : BitVec 5) (b : BitVec 5)
  /-- Discards every fetched instruction copy; ILLEGAL in timed code. (R162) -/
  | ifence
  /-- Binds stream register gD to the descriptor at a with mode b, and starts the engine filling or accepting. (R166) -/
  | sbindG (d : BitVec 3) (a : BitVec 5) (b : BitVec 5)
  /-- Binds vector stream register vD to a descriptor. (R166) -/
  | sbindV (d : BitVec 2) (a : BitVec 5) (b : BitVec 5)
  /-- Releases a g stream register, draining or discarding its elements. (R168) -/
  | sfreeG (d : BitVec 3)
  /-- Releases a v stream register. (R168) -/
  | sfreeV (d : BitVec 2)
  /-- Atomically adds b to memory and returns the old value, without ordering. (R172) -/
  | amoAdd (k : BitVec 5) (a : BitVec 5) (b : BitVec 5) (s : BitVec 1)
  /-- Atomically ANDs b into memory, without ordering. (R172) -/
  | amoAnd (k : BitVec 5) (a : BitVec 5) (b : BitVec 5) (s : BitVec 1)
  /-- Atomically ORs b into memory, without ordering. (R172) -/
  | amoOr (k : BitVec 5) (a : BitVec 5) (b : BitVec 5) (s : BitVec 1)
  /-- Atomically XORs b into memory, without ordering. (R172) -/
  | amoXor (k : BitVec 5) (a : BitVec 5) (b : BitVec 5) (s : BitVec 1)
  /-- Atomic signed minimum, without ordering. (R172) -/
  | amoMin (k : BitVec 5) (a : BitVec 5) (b : BitVec 5) (s : BitVec 1)
  /-- Atomic signed maximum, without ordering. (R172) -/
  | amoMax (k : BitVec 5) (a : BitVec 5) (b : BitVec 5) (s : BitVec 1)
  /-- Atomic unsigned minimum, without ordering. (R172) -/
  | amoMinu (k : BitVec 5) (a : BitVec 5) (b : BitVec 5) (s : BitVec 1)
  /-- Atomic unsigned maximum, without ordering. (R172) -/
  | amoMaxu (k : BitVec 5) (a : BitVec 5) (b : BitVec 5) (s : BitVec 1)
  /-- Atomically swaps b with memory, without ordering. (R172) -/
  | amoSwap (k : BitVec 5) (a : BitVec 5) (b : BitVec 5) (s : BitVec 1)
  /-- Atomic add with acquire over scope C. (R172) -/
  | amoAddAcq (k : BitVec 5) (a : BitVec 5) (b : BitVec 5) (c : BitVec 5) (s : BitVec 1)
  /-- Atomic AND with acquire over scope C. (R172) -/
  | amoAndAcq (k : BitVec 5) (a : BitVec 5) (b : BitVec 5) (c : BitVec 5) (s : BitVec 1)
  /-- Atomic OR with acquire over scope C. (R172) -/
  | amoOrAcq (k : BitVec 5) (a : BitVec 5) (b : BitVec 5) (c : BitVec 5) (s : BitVec 1)
  /-- Atomic XOR with acquire over scope C. (R172) -/
  | amoXorAcq (k : BitVec 5) (a : BitVec 5) (b : BitVec 5) (c : BitVec 5) (s : BitVec 1)
  /-- Atomic signed minimum with acquire over scope C. (R172) -/
  | amoMinAcq (k : BitVec 5) (a : BitVec 5) (b : BitVec 5) (c : BitVec 5) (s : BitVec 1)
  /-- Atomic signed maximum with acquire over scope C. (R172) -/
  | amoMaxAcq (k : BitVec 5) (a : BitVec 5) (b : BitVec 5) (c : BitVec 5) (s : BitVec 1)
  /-- Atomic unsigned minimum with acquire over scope C. (R172) -/
  | amoMinuAcq (k : BitVec 5) (a : BitVec 5) (b : BitVec 5) (c : BitVec 5) (s : BitVec 1)
  /-- Atomic unsigned maximum with acquire over scope C. (R172) -/
  | amoMaxuAcq (k : BitVec 5) (a : BitVec 5) (b : BitVec 5) (c : BitVec 5) (s : BitVec 1)
  /-- Atomic swap with acquire over scope C. (R172) -/
  | amoSwapAcq (k : BitVec 5) (a : BitVec 5) (b : BitVec 5) (c : BitVec 5) (s : BitVec 1)
  /-- Atomic add with release over scope C. (R172) -/
  | amoAddRel (k : BitVec 5) (a : BitVec 5) (b : BitVec 5) (c : BitVec 5) (s : BitVec 1)
  /-- Atomic AND with release over scope C. (R172) -/
  | amoAndRel (k : BitVec 5) (a : BitVec 5) (b : BitVec 5) (c : BitVec 5) (s : BitVec 1)
  /-- Atomic OR with release over scope C. (R172) -/
  | amoOrRel (k : BitVec 5) (a : BitVec 5) (b : BitVec 5) (c : BitVec 5) (s : BitVec 1)
  /-- Atomic XOR with release over scope C. (R172) -/
  | amoXorRel (k : BitVec 5) (a : BitVec 5) (b : BitVec 5) (c : BitVec 5) (s : BitVec 1)
  /-- Atomic signed minimum with release over scope C. (R172) -/
  | amoMinRel (k : BitVec 5) (a : BitVec 5) (b : BitVec 5) (c : BitVec 5) (s : BitVec 1)
  /-- Atomic signed maximum with release over scope C. (R172) -/
  | amoMaxRel (k : BitVec 5) (a : BitVec 5) (b : BitVec 5) (c : BitVec 5) (s : BitVec 1)
  /-- Atomic unsigned minimum with release over scope C. (R172) -/
  | amoMinuRel (k : BitVec 5) (a : BitVec 5) (b : BitVec 5) (c : BitVec 5) (s : BitVec 1)
  /-- Atomic unsigned maximum with release over scope C. (R172) -/
  | amoMaxuRel (k : BitVec 5) (a : BitVec 5) (b : BitVec 5) (c : BitVec 5) (s : BitVec 1)
  /-- Atomic swap with release over scope C. (R172) -/
  | amoSwapRel (k : BitVec 5) (a : BitVec 5) (b : BitVec 5) (c : BitVec 5) (s : BitVec 1)
  /-- Compares the 4-byte word with b, writes c on a match, returns the old value, and synchronises over the region. (R173) -/
  | casW (k : BitVec 5) (a : BitVec 5) (b : BitVec 5) (c : BitVec 5)
  /-- Compare-and-swap on an 8-byte word. (R173) -/
  | casD (k : BitVec 5) (a : BitVec 5) (b : BitVec 5) (c : BitVec 5)
  /-- Sends an add of b[31:0] to a mailbox counter as a release over scope C. (R174) -/
  | post (a : BitVec 5) (b : BitVec 5) (c : BitVec 5)
  /-- Waits until an own mailbox counter reaches target b under modular comparison; an anchor. (R175) -/
  | waitc (a : BitVec 5) (b : BitVec 5) (c : BitVec 5)
  /-- Waits until the byte barrier at d shows phase a[0]; an anchor; ENGINE if the barrier's error bit is set. (R176) -/
  | waitb (k : BitVec 5) (a : BitVec 5) (c : BitVec 5)
  /-- Waits until every earlier access of the core is performed for the scope; free code only. (R177) -/
  | fence (c : BitVec 5)
  /-- Arrives at a suit barrier with member mask a[15:0]; an anchor. (R180) -/
  | suitBar (a : BitVec 5)
  /-- Dissolves the suit; each member leaves on issuing its own copy. (R181) -/
  | suitDis
  /-- Converts the lanes of vA to the destination type across a widened group. (R195) -/
  | vcvt (d : BitVec 4) (a : BitVec 4) (w : BitVec 2) (r : BitVec 4) (t : BitVec 4)
  /-- Queues a cube product of the selected mode into accumulator tD. (R222) -/
  | tmul (d : BitVec 3) (a : BitVec 5) (b : BitVec 5) (c : BitVec 5) (m : BitVec 3)
  /-- Queues a cube product with an N:64-sparse A whose metadata come from stream g31. (R224) -/
  | tmuls (d : BitVec 3) (a : BitVec 5) (b : BitVec 5) (c : BitVec 5) (m : BitVec 3)
  /-- Queues a cube product in which rows at or above CRB use the second B operand. (R222) -/
  | tmulx (d : BitVec 3) (a : BitVec 5) (b : BitVec 5) (c : BitVec 5) (m : BitVec 3)
  /-- Issued by a suit of 16; the leader's copy queues a scaled partial-sum command, and each member binds its tD as a ring. (R227) -/
  | tpart (d : BitVec 3) (a : BitVec 5) (b : BitVec 5) (c : BitVec 5) (m : BitVec 3)
  /-- Queues the zeroing of tile tD and tags it EMPTY at issue. (R233) -/
  | tzero (d : BitVec 3)
  /-- Queues a load of 16 scratchpad rows into tile tD. (R234) -/
  | tld (d : BitVec 3) (a : BitVec 4)
  /-- Queues a store of tile tD to 16 scratchpad rows. (R234) -/
  | tst (d : BitVec 3) (a : BitVec 4)
  /-- Queues the loading of 16 BF16 values into codebook slot s. (R235) -/
  | tcode (a : BitVec 5) (s : BitVec 2)
  /-- Anchor that waits until every earlier governor command of the core has completed. (R236) -/
  | tfence
  /-- Reads row b[3:0] of a tile into vD, waiting for and emptying a FULL ring row. (R231) -/
  | trow (d : BitVec 4) (a : BitVec 3) (b : BitVec 5)
  /-- Creates an OPEN node as a root from a shape word or as an empty ELEM child, and returns its handle. (R260) -/
  | lfork (d : BitVec 5) (a : BitVec 5) (b : BitVec 5)
  /-- Creates a RANK child from a low-rank image in virtual memory. (R261) -/
  | lforkr (d : BitVec 5) (a : BitVec 5) (b : BitVec 5)
  /-- Atomically writes a list of index–value pairs into an OPEN leaf and rebuilds its delta image. (R262) -/
  | lput (d : BitVec 5) (a : BitVec 5) (b : BitVec 5)
  /-- Seals an OPEN node. (R263) -/
  | lseal (a : BitVec 5)
  /-- Drops a node, making it FREEING or GHOST. (R263) -/
  | ldrop (a : BitVec 5)
  /-- Reads a node record into eight g registers at one point of the table order. (R263) -/
  | linfo (d : BitVec 2) (a : BitVec 5)
  /-- Engine command that materialises a node as DENSE at depth 0. (R270) -/
  | lflat (k : BitVec 5) (a : BitVec 5)
  /-- Engine command that re-parents node a onto node b. (R271) -/
  | lrebase (k : BitVec 5) (a : BitVec 5) (b : BitVec 5)
  /-- Governor command that multiplies x with a family of lineage nodes into member tiles. (R274) -/
  | lprod (k : BitVec 5) (a : BitVec 5)
  /-- Copy command that copies and converts a 3-D block of elements. (R297) -/
  | cp (k : BitVec 5) (a : BitVec 5) (b : BitVec 5) (c : BitVec 5)
  /-- Copy command that resolves and copies a block of a lineage node. (R298) -/
  | cpL (k : BitVec 5) (a : BitVec 5) (b : BitVec 5) (c : BitVec 5)
  /-- Copy command that applies a restrict or prolong stencil. (R299) -/
  | cpS (k : BitVec 5) (a : BitVec 5) (b : BitVec 5) (c : BitVec 5)
  /-- Copy command that gathers table rows by an index list. (R305) -/
  | cpG (k : BitVec 5) (a : BitVec 5) (b : BitVec 5) (c : BitVec 5)
  /-- Copy command that gathers and reduces bags of table rows. (R305) -/
  | cpR (k : BitVec 5) (a : BitVec 5) (b : BitVec 5) (c : BitVec 5)
  /-- Copy command that scatters source rows to indexed table rows. (R305) -/
  | cpX (k : BitVec 5) (a : BitVec 5) (b : BitVec 5) (c : BitVec 5)
  /-- Copy command that copies, promotes or demotes whole 64 KiB pages. (R306) -/
  | cpM (k : BitVec 5) (a : BitVec 5) (b : BitVec 5) (c : BitVec 5)
  /-- Seals the open batch, returns its number and opens the next. (R307) -/
  | seal (d : BitVec 5)
  /-- Anchor that waits until at most n sealed batches are unfinished, raising ENGINE for an unreported failed batch. (R308) -/
  | waitn (a : BitVec 5)
  /-- Waits for the PUBM 4 commands of a key, then publishes or discards their group. (R322) -/
  | pub (a : BitVec 5)
  /-- Arms a byte barrier with an expected byte count. (R312) -/
  | armb (a : BitVec 5) (b : BitVec 5)
  /-- Network command that reduces elements across the participants by a fixed tree. (R371) -/
  | nred (k : BitVec 5) (a : BitVec 5) (b : BitVec 5) (c : BitVec 5)
  /-- Network command that merges ranked top-K lists. (R372) -/
  | ntopk (k : BitVec 5) (a : BitVec 5) (b : BitVec 5) (c : BitVec 5)
  /-- Network command that exchanges per-rank counts. (R373) -/
  | ncount (k : BitVec 5) (a : BitVec 5) (b : BitVec 5) (c : BitVec 5)
  /-- Network command that broadcasts bytes from the root rank. (R373) -/
  | nbcast (k : BitVec 5) (a : BitVec 5) (b : BitVec 5) (c : BitVec 5)
  /-- Asks the dealer to create a child region from a control block. (R346) -/
  | rcreate (d : BitVec 5) (a : BitVec 5)
  /-- Submits a launch of a region to the dealer. (R347) -/
  | rlaunch (d : BitVec 5) (a : BitVec 5)
  /-- Revokes a descendant region after a grace period. (R394) -/
  | rrevoke (d : BitVec 5) (a : BitVec 5) (b : BitVec 5)
  /-- Requests that the launch yield at the next quiet superstep boundary. (R356) -/
  | ryield
  /-- Drops the cached translations of a region subtree at every sluice. (R403) -/
  | rinval (a : BitVec 5)
  /-- Arrives at the launch-wide hardware barrier; an anchor. (R36) -/
  | gbar
  /-- Begins a timed segment whose next instruction issues at timestamp T. (R358) -/
  | tbegin (a : BitVec 5)
  /-- Returns the core to free code and releases the clock hold. (R35) -/
  | tend
  /-- Returns from a handler to XPC and clears INH. (R383) -/
  | eret
  /-- Resumes a parked core from its trap record. (R389) -/
  | eretResume (a : BitVec 5)
  /-- Waits for the core's outstanding work to complete, then stops the core as a release. (R384) -/
  | halt
  /-- Reads a control register into gD. (R75) -/
  | crd (d : BitVec 5) (i : BitVec 15)
  /-- Writes gD into a writable control register. (R75) -/
  | cwr (d : BitVec 5) (i : BitVec 15)
  /-- Drains, writes the workspace back and switches to the workspace at gD. (R80) -/
  | wswp (d : BitVec 5)
  /-- Writes the 64-bit wrapped sum a + b to gD. (R139) -/
  | add (d : BitVec 5) (a : BitVec 5) (b : BitVec 5)
  /-- Writes the 64-bit wrapped difference a − b to gD. (R139) -/
  | sub (d : BitVec 5) (a : BitVec 5) (b : BitVec 5)
  /-- Writes the bitwise AND of a and b to gD. (R139) -/
  | and (d : BitVec 5) (a : BitVec 5) (b : BitVec 5)
  /-- Writes the bitwise OR of a and b to gD; the MOV alias is OR with g0. (R139) -/
  | or (d : BitVec 5) (a : BitVec 5) (b : BitVec 5)
  /-- Writes the bitwise XOR of a and b to gD. (R139) -/
  | xor (d : BitVec 5) (a : BitVec 5) (b : BitVec 5)
  /-- Writes a AND NOT b to gD. (R139) -/
  | andn (d : BitVec 5) (a : BitVec 5) (b : BitVec 5)
  /-- Writes a shifted left by b mod 64 to gD. (R139) -/
  | sll (d : BitVec 5) (a : BitVec 5) (b : BitVec 5)
  /-- Writes a shifted right logically by b mod 64 to gD. (R139) -/
  | srl (d : BitVec 5) (a : BitVec 5) (b : BitVec 5)
  /-- Writes a shifted right arithmetically by b mod 64 to gD. (R139) -/
  | sra (d : BitVec 5) (a : BitVec 5) (b : BitVec 5)
  /-- Writes a rotated left by b mod 64 to gD. (R139) -/
  | rol (d : BitVec 5) (a : BitVec 5) (b : BitVec 5)
  /-- Writes a rotated right by b mod 64 to gD. (R139) -/
  | ror (d : BitVec 5) (a : BitVec 5) (b : BitVec 5)
  /-- Writes 1 to gD if a is less than b as signed values, else 0. (R139) -/
  | slt (d : BitVec 5) (a : BitVec 5) (b : BitVec 5)
  /-- Writes 1 to gD if a is less than b as unsigned values, else 0. (R139) -/
  | sltu (d : BitVec 5) (a : BitVec 5) (b : BitVec 5)
  /-- Writes the signed minimum of a and b to gD. (R139) -/
  | min (d : BitVec 5) (a : BitVec 5) (b : BitVec 5)
  /-- Writes the signed maximum of a and b to gD. (R139) -/
  | max (d : BitVec 5) (a : BitVec 5) (b : BitVec 5)
  /-- Writes the unsigned minimum of a and b to gD. (R139) -/
  | minu (d : BitVec 5) (a : BitVec 5) (b : BitVec 5)
  /-- Writes the unsigned maximum of a and b to gD. (R139) -/
  | maxu (d : BitVec 5) (a : BitVec 5) (b : BitVec 5)
  /-- Writes (a AND d) OR (b AND NOT d) to gD, using the old gD as the selector. (R139) -/
  | sel (d : BitVec 5) (a : BitVec 5) (b : BitVec 5)
  /-- Writes the low 64 bits of the signed product to gD, landing after 3 cycles. (R139) -/
  | mul (d : BitVec 5) (a : BitVec 5) (b : BitVec 5)
  /-- Writes the high 64 bits of the signed 128-bit product to gD. (R139) -/
  | mulh (d : BitVec 5) (a : BitVec 5) (b : BitVec 5)
  /-- Writes the high 64 bits of the unsigned 128-bit product to gD. (R139) -/
  | mulhu (d : BitVec 5) (a : BitVec 5) (b : BitVec 5)
  /-- Writes the signed quotient truncated toward zero to gD, with fixed results for division by zero and overflow, landing after 20 cycles. (R139) -/
  | div (d : BitVec 5) (a : BitVec 5) (b : BitVec 5)
  /-- Writes the unsigned quotient to gD, all ones for division by zero. (R139) -/
  | divu (d : BitVec 5) (a : BitVec 5) (b : BitVec 5)
  /-- Writes the signed remainder to gD, a for division by zero. (R139) -/
  | rem (d : BitVec 5) (a : BitVec 5) (b : BitVec 5)
  /-- Writes the unsigned remainder to gD, a for division by zero. (R139) -/
  | remu (d : BitVec 5) (a : BitVec 5) (b : BitVec 5)
  /-- Writes bits 63:0 of the carry-less product to gD. (R139) -/
  | clmul (d : BitVec 5) (a : BitVec 5) (b : BitVec 5)
  /-- Writes bits 127:64 of the carry-less product to gD. (R139) -/
  | clmulh (d : BitVec 5) (a : BitVec 5) (b : BitVec 5)
  /-- Writes the number of leading zero bits of a to gD, 64 for zero. (R139) -/
  | clz (d : BitVec 5) (a : BitVec 5)
  /-- Writes the number of trailing zero bits of a to gD, 64 for zero. (R139) -/
  | ctz (d : BitVec 5) (a : BitVec 5)
  /-- Writes the number of one bits of a to gD. (R139) -/
  | popc (d : BitVec 5) (a : BitVec 5)
  /-- Writes a with its byte order reversed to gD. (R139) -/
  | bswap (d : BitVec 5) (a : BitVec 5)
  /-- Writes the n-bit field of a at position p, both taken from b, to gD. (R139) -/
  | bext (d : BitVec 5) (a : BitVec 5) (b : BitVec 5)
  /-- Inserts the low n bits of a at position p into the old gD. (R139) -/
  | bins (d : BitVec 5) (a : BitVec 5) (b : BitVec 5)
  /-- Writes the funnel shift left of the pair d:a by b mod 64 to gD. (R139) -/
  | fshl (d : BitVec 5) (a : BitVec 5) (b : BitVec 5)
  /-- Writes the funnel shift right of the pair a:d by b mod 64 to gD. (R139) -/
  | fshr (d : BitVec 5) (a : BitVec 5) (b : BitVec 5)
  /-- Writes a plus the sign-extended 15-bit immediate to gD. (R140) -/
  | addi (d : BitVec 5) (a : BitVec 5) (i : BitVec 15)
  /-- Writes a AND the zero-extended immediate to gD. (R140) -/
  | andi (d : BitVec 5) (a : BitVec 5) (i : BitVec 15)
  /-- Writes a OR the zero-extended immediate to gD. (R140) -/
  | ori (d : BitVec 5) (a : BitVec 5) (i : BitVec 15)
  /-- Writes a XOR the zero-extended immediate to gD. (R140) -/
  | xori (d : BitVec 5) (a : BitVec 5) (i : BitVec 15)
  /-- Writes a shifted left by the 6-bit immediate to gD. (R140) -/
  | slli (d : BitVec 5) (a : BitVec 5) (i : BitVec 6)
  /-- Writes a shifted right logically by the 6-bit immediate to gD. (R140) -/
  | srli (d : BitVec 5) (a : BitVec 5) (i : BitVec 6)
  /-- Writes a shifted right arithmetically by the 6-bit immediate to gD. (R140) -/
  | srai (d : BitVec 5) (a : BitVec 5) (i : BitVec 6)
  /-- Writes 1 to gD if a is less than the sign-extended immediate, else 0. (R140) -/
  | slti (d : BitVec 5) (a : BitVec 5) (i : BitVec 15)
  /-- Writes a shifted left by 15 with the 15-bit immediate inserted to gD. (R140) -/
  | lih (d : BitVec 5) (a : BitVec 5) (i : BitVec 15)
  /-- Writes the FP64 sum of a and b, rounded to nearest-even, to gD. (R141) -/
  | faddD (d : BitVec 5) (a : BitVec 5) (b : BitVec 5)
  /-- Writes the FP64 difference of a and b to gD. (R141) -/
  | fsubD (d : BitVec 5) (a : BitVec 5) (b : BitVec 5)
  /-- Writes the FP64 product of a and b to gD. (R141) -/
  | fmulD (d : BitVec 5) (a : BitVec 5) (b : BitVec 5)
  /-- Writes the FP64 value a·b + d with one rounding to gD. (R141) -/
  | ffmaD (d : BitVec 5) (a : BitVec 5) (b : BitVec 5)
  /-- Writes the FP64 quotient a / b to gD, setting DZ on division of a finite non-zero value by zero. (R141) -/
  | fdivD (d : BitVec 5) (a : BitVec 5) (b : BitVec 5)
  /-- Writes the FP64 square root of a to gD. (R141) -/
  | fsqrtD (d : BitVec 5) (a : BitVec 5)
  /-- Writes fmin of a and b in FP64 to gD. (R141) -/
  | fminD (d : BitVec 5) (a : BitVec 5) (b : BitVec 5)
  /-- Writes fmax of a and b in FP64 to gD. (R141) -/
  | fmaxD (d : BitVec 5) (a : BitVec 5) (b : BitVec 5)
  /-- Writes 1 to gD if the FP64 values a and b are equal, else 0. (R141) -/
  | fcmpEqD (d : BitVec 5) (a : BitVec 5) (b : BitVec 5)
  /-- Writes 1 to gD if a < b in FP64, setting NV on any NaN. (R141) -/
  | fcmpLtD (d : BitVec 5) (a : BitVec 5) (b : BitVec 5)
  /-- Writes 1 to gD if a ≤ b in FP64, setting NV on any NaN. (R141) -/
  | fcmpLeD (d : BitVec 5) (a : BitVec 5) (b : BitVec 5)
  /-- Writes 1 to gD if either FP64 operand is a NaN. (R141) -/
  | fcmpUnD (d : BitVec 5) (a : BitVec 5) (b : BitVec 5)
  /-- Writes a with its sign bit inverted to gD. (R141) -/
  | fmvNegD (d : BitVec 5) (a : BitVec 5)
  /-- Writes a with its sign bit cleared to gD. (R141) -/
  | fmvAbsD (d : BitVec 5) (a : BitVec 5)
  /-- Writes a with the sign bit of b to gD. (R141) -/
  | fmvCpsD (d : BitVec 5) (a : BitVec 5) (b : BitVec 5)
  /-- Writes the FP32 sum of the low words of a and b, zero-extended, to gD. (R141) -/
  | faddS (d : BitVec 5) (a : BitVec 5) (b : BitVec 5)
  /-- Writes the FP32 difference to gD. (R141) -/
  | fsubS (d : BitVec 5) (a : BitVec 5) (b : BitVec 5)
  /-- Writes the FP32 product to gD. (R141) -/
  | fmulS (d : BitVec 5) (a : BitVec 5) (b : BitVec 5)
  /-- Writes the FP32 value a·b + d with one rounding to gD. (R141) -/
  | ffmaS (d : BitVec 5) (a : BitVec 5) (b : BitVec 5)
  /-- Writes the FP32 quotient to gD. (R141) -/
  | fdivS (d : BitVec 5) (a : BitVec 5) (b : BitVec 5)
  /-- Writes the FP32 square root to gD. (R141) -/
  | fsqrtS (d : BitVec 5) (a : BitVec 5)
  /-- Writes fmin of the FP32 operands to gD. (R141) -/
  | fminS (d : BitVec 5) (a : BitVec 5) (b : BitVec 5)
  /-- Writes fmax of the FP32 operands to gD. (R141) -/
  | fmaxS (d : BitVec 5) (a : BitVec 5) (b : BitVec 5)
  /-- Writes 1 to gD if the FP32 operands are equal. (R141) -/
  | fcmpEqS (d : BitVec 5) (a : BitVec 5) (b : BitVec 5)
  /-- Writes 1 to gD if a < b in FP32. (R141) -/
  | fcmpLtS (d : BitVec 5) (a : BitVec 5) (b : BitVec 5)
  /-- Writes 1 to gD if a ≤ b in FP32. (R141) -/
  | fcmpLeS (d : BitVec 5) (a : BitVec 5) (b : BitVec 5)
  /-- Writes 1 to gD if either FP32 operand is a NaN. (R141) -/
  | fcmpUnS (d : BitVec 5) (a : BitVec 5) (b : BitVec 5)
  /-- Inverts the FP32 sign bit of a into gD. (R141) -/
  | fmvNegS (d : BitVec 5) (a : BitVec 5)
  /-- Clears the FP32 sign bit of a into gD. (R141) -/
  | fmvAbsS (d : BitVec 5) (a : BitVec 5)
  /-- Writes the FP32 value a with the sign of b to gD. (R141) -/
  | fmvCpsS (d : BitVec 5) (a : BitVec 5) (b : BitVec 5)
  /-- Converts the FP32 value of a exactly to FP64 in gD. (R142) -/
  | fcvtDS (d : BitVec 5) (a : BitVec 5) (r : BitVec 4)
  /-- Converts FP64 to FP32 in the selected rounding mode. (R142) -/
  | fcvtSD (d : BitVec 5) (a : BitVec 5) (r : BitVec 4)
  /-- Converts a signed 64-bit integer to FP64. (R142) -/
  | fcvtDL (d : BitVec 5) (a : BitVec 5) (r : BitVec 4)
  /-- Converts an unsigned 64-bit integer to FP64. (R142) -/
  | fcvtDLu (d : BitVec 5) (a : BitVec 5) (r : BitVec 4)
  /-- Converts a signed 64-bit integer to FP32. (R142) -/
  | fcvtSL (d : BitVec 5) (a : BitVec 5) (r : BitVec 4)
  /-- Converts an unsigned 64-bit integer to FP32. (R142) -/
  | fcvtSLu (d : BitVec 5) (a : BitVec 5) (r : BitVec 4)
  /-- Converts FP64 to a saturated signed 64-bit integer. (R142) -/
  | fcvtLD (d : BitVec 5) (a : BitVec 5) (r : BitVec 4)
  /-- Converts FP64 to a saturated unsigned 64-bit integer. (R142) -/
  | fcvtLuD (d : BitVec 5) (a : BitVec 5) (r : BitVec 4)
  /-- Converts FP32 to a saturated signed 64-bit integer. (R142) -/
  | fcvtLS (d : BitVec 5) (a : BitVec 5) (r : BitVec 4)
  /-- Converts FP32 to a saturated unsigned 64-bit integer. (R142) -/
  | fcvtLuS (d : BitVec 5) (a : BitVec 5) (r : BitVec 4)
  /-- Adds vector lanes. (R188) -/
  | vadd (d : BitVec 4) (a : BitVec 4) (b : BitVec 4) (t : BitVec 4)
  /-- Subtracts vector lanes. (R188) -/
  | vsub (d : BitVec 4) (a : BitVec 4) (b : BitVec 4) (t : BitVec 4)
  /-- Multiplies vector lanes. (R188) -/
  | vmul (d : BitVec 4) (a : BitVec 4) (b : BitVec 4) (t : BitVec 4)
  /-- Computes a·b + d per lane with one rounding. (R188) -/
  | vfma (d : BitVec 4) (a : BitVec 4) (b : BitVec 4) (t : BitVec 4)
  /-- Computes d − a·b per lane with one rounding. (R188) -/
  | vfms (d : BitVec 4) (a : BitVec 4) (b : BitVec 4) (t : BitVec 4)
  /-- Takes the lane minimum. (R188) -/
  | vmin (d : BitVec 4) (a : BitVec 4) (b : BitVec 4) (t : BitVec 4)
  /-- Takes the lane maximum. (R188) -/
  | vmax (d : BitVec 4) (a : BitVec 4) (b : BitVec 4) (t : BitVec 4)
  /-- Takes the lane absolute value. (R188) -/
  | vabs (d : BitVec 4) (a : BitVec 4) (t : BitVec 4)
  /-- Negates vector lanes. (R188) -/
  | vneg (d : BitVec 4) (a : BitVec 4) (t : BitVec 4)
  /-- Computes max(a, 0) per lane. (R188) -/
  | vrelu (d : BitVec 4) (a : BitVec 4) (t : BitVec 4)
  /-- Computes the rounded-up integer average per lane. (R188) -/
  | vavg (d : BitVec 4) (a : BitVec 4) (b : BitVec 4) (t : BitVec 4)
  /-- Multiplies lanes and accumulates them into a widened D group. (R189) -/
  | vmacc (d : BitVec 4) (a : BitVec 4) (b : BitVec 4) (w : BitVec 2) (t : BitVec 4)
  /-- Takes the bitwise AND of lanes. (R190) -/
  | vand (d : BitVec 4) (a : BitVec 4) (b : BitVec 4) (t : BitVec 4)
  /-- Takes the bitwise OR of lanes. (R190) -/
  | vor (d : BitVec 4) (a : BitVec 4) (b : BitVec 4) (t : BitVec 4)
  /-- Takes the bitwise XOR of lanes. (R190) -/
  | vxor (d : BitVec 4) (a : BitVec 4) (b : BitVec 4) (t : BitVec 4)
  /-- Takes a AND NOT b per lane. (R190) -/
  | vandn (d : BitVec 4) (a : BitVec 4) (b : BitVec 4) (t : BitVec 4)
  /-- Shifts lanes left. (R190) -/
  | vshl (d : BitVec 4) (a : BitVec 4) (b : BitVec 4) (t : BitVec 4)
  /-- Shifts lanes right logically. (R190) -/
  | vshr (d : BitVec 4) (a : BitVec 4) (b : BitVec 4) (t : BitVec 4)
  /-- Shifts lanes right arithmetically. (R190) -/
  | vsra (d : BitVec 4) (a : BitVec 4) (b : BitVec 4) (t : BitVec 4)
  /-- Counts the one bits of each lane. (R190) -/
  | vpopc (d : BitVec 4) (a : BitVec 4) (t : BitVec 4)
  /-- Counts the leading zero bits of each lane. (R190) -/
  | vclz (d : BitVec 4) (a : BitVec 4) (t : BitVec 4)
  /-- Forms the carry-less product per lane, low half or both halves. (R191) -/
  | vclmul (d : BitVec 4) (a : BitVec 4) (b : BitVec 4) (w : BitVec 1) (t : BitVec 4)
  /-- Gathers the bits of each lane under a mask lane. (R190) -/
  | vbext (d : BitVec 4) (a : BitVec 4) (b : BitVec 4) (t : BitVec 4)
  /-- Funnel-shifts d:a left per lane. (R190) -/
  | vfshl (d : BitVec 4) (a : BitVec 4) (b : BitVec 4) (t : BitVec 4)
  /-- Sets mask bits where the lanes are equal. (R192) -/
  | vcmpEq (d : BitVec 3) (a : BitVec 4) (b : BitVec 4) (t : BitVec 4)
  /-- Sets mask bits where the lanes differ. (R192) -/
  | vcmpNe (d : BitVec 3) (a : BitVec 4) (b : BitVec 4) (t : BitVec 4)
  /-- Sets mask bits where a < b. (R192) -/
  | vcmpLt (d : BitVec 3) (a : BitVec 4) (b : BitVec 4) (t : BitVec 4)
  /-- Sets mask bits where a ≤ b. (R192) -/
  | vcmpLe (d : BitVec 3) (a : BitVec 4) (b : BitVec 4) (t : BitVec 4)
  /-- Sets mask bits where a > b. (R192) -/
  | vcmpGt (d : BitVec 3) (a : BitVec 4) (b : BitVec 4) (t : BitVec 4)
  /-- Sets mask bits where a ≥ b. (R192) -/
  | vcmpGe (d : BitVec 3) (a : BitVec 4) (b : BitVec 4) (t : BitVec 4)
  /-- Sets mask bits where either lane is a NaN. (R192) -/
  | vcmpUn (d : BitVec 3) (a : BitVec 4) (b : BitVec 4) (t : BitVec 4)
  /-- Takes lanes of vA where the mask bit is 1 and keeps vD elsewhere. (R193) -/
  | vsel (d : BitVec 4) (a : BitVec 4) (b : BitVec 3) (t : BitVec 4)
  /-- Copies a vector register, copying its tag or retagging it. (R193) -/
  | vmov (d : BitVec 4) (a : BitVec 4) (t : BitVec 4)
  /-- Broadcasts the low w bits of gA to every lane. (R193) -/
  | vbcast (d : BitVec 4) (a : BitVec 5) (t : BitVec 4)
  /-- Inserts a scalar into lane b mod L. (R193) -/
  | vins (d : BitVec 4) (a : BitVec 5) (b : BitVec 5) (t : BitVec 4)
  /-- Extracts lane b mod L into gD. (R193) -/
  | vext (d : BitVec 5) (a : BitVec 4) (b : BitVec 5) (t : BitVec 4)
  /-- Sums all lanes into gD; floats are summed by a fixed tree. (R196) -/
  | vredsum (d : BitVec 5) (a : BitVec 4) (t : BitVec 4)
  /-- Writes the maximum lane to gD. (R197) -/
  | vredmax (d : BitVec 5) (a : BitVec 4) (t : BitVec 4)
  /-- Writes the minimum lane to gD. (R197) -/
  | vredmin (d : BitVec 5) (a : BitVec 4) (t : BitVec 4)
  /-- Forms the inclusive prefix sum of the lanes. (R198) -/
  | vscan (d : BitVec 4) (a : BitVec 4) (t : BitVec 4)
  /-- Permutes the lanes of vA by the indices in vB. (R199) -/
  | vperm (d : BitVec 4) (a : BitVec 4) (b : BitVec 4) (t : BitVec 4)
  /-- Packs the masked lanes to the bottom and zero-fills the rest. (R200) -/
  | vcompress (d : BitVec 4) (a : BitVec 4) (b : BitVec 3) (t : BitVec 4)
  /-- Spreads low lanes into the masked positions. (R200) -/
  | vexpand (d : BitVec 4) (a : BitVec 4) (b : BitVec 3) (t : BitVec 4)
  /-- Loads each lane from local memory at b plus a scaled index. (R201) -/
  | vgather (d : BitVec 4) (a : BitVec 4) (b : BitVec 5) (t : BitVec 4)
  /-- Stores each lane of vD to local memory at b plus a scaled index. (R201) -/
  | vscatter (d : BitVec 4) (a : BitVec 4) (b : BitVec 5) (t : BitVec 4)
  /-- Looks each lane up in a 16-entry table. (R203) -/
  | vlut16 (d : BitVec 4) (a : BitVec 4) (b : BitVec 4) (t : BitVec 4)
  /-- Looks each lane up in a 256-entry table held in a register group. (R203) -/
  | vlut256 (d : BitVec 4) (a : BitVec 4) (b : BitVec 4) (w : BitVec 2) (t : BitVec 4)
  /-- Computes 2^a per lane, correctly rounded. (R204) -/
  | vexp2 (d : BitVec 4) (a : BitVec 4) (t : BitVec 4)
  /-- Computes log2 a per lane. (R204) -/
  | vlog2 (d : BitVec 4) (a : BitVec 4) (t : BitVec 4)
  /-- Computes 1/a per lane. (R204) -/
  | vrcp (d : BitVec 4) (a : BitVec 4) (t : BitVec 4)
  /-- Computes 1/√a per lane. (R204) -/
  | vrsqrt (d : BitVec 4) (a : BitVec 4) (t : BitVec 4)
  /-- Sorts key–value lane pairs stably, ascending or descending. (R205) -/
  | vsortkv (d : BitVec 4) (a : BitVec 4) (b : BitVec 1) (t : BitVec 4)
  /-- ANDs two masks. (R206) -/
  | mand (d : BitVec 3) (a : BitVec 3) (b : BitVec 3)
  /-- ORs two masks. (R206) -/
  | mor (d : BitVec 3) (a : BitVec 3) (b : BitVec 3)
  /-- XORs two masks. (R206) -/
  | mxor (d : BitVec 3) (a : BitVec 3) (b : BitVec 3)
  /-- Complements a mask. (R206) -/
  | mnot (d : BitVec 3) (a : BitVec 3)
  /-- Counts the set lanes of a mask at a lane width. (R206) -/
  | mpop (d : BitVec 5) (a : BitVec 3) (b : BitVec 2)
  /-- Writes the lowest set lane of a mask, or the lane count if none is set. (R206) -/
  | mfirst (d : BitVec 5) (a : BitVec 3) (b : BitVec 2)
  /-- Compact copy of vA into vD, tag included. (R57) -/
  | vmovC (d : BitVec 4) (a : BitVec 4)
  /-- Compact vD ← vD + vA. (R57) -/
  | vaddC (d : BitVec 4) (a : BitVec 4)
  /-- Compact vD ← vD − vA. (R57) -/
  | vsubC (d : BitVec 4) (a : BitVec 4)
  /-- Compact vD ← vD × vA. (R57) -/
  | vmulC (d : BitVec 4) (a : BitVec 4)
  /-- Compact lane minimum. (R57) -/
  | vminC (d : BitVec 4) (a : BitVec 4)
  /-- Compact lane maximum. (R57) -/
  | vmaxC (d : BitVec 4) (a : BitVec 4)
  /-- Compact lane AND. (R57) -/
  | vandC (d : BitVec 4) (a : BitVec 4)
  /-- Compact lane OR. (R57) -/
  | vorC (d : BitVec 4) (a : BitVec 4)
  /-- Compact lane XOR. (R57) -/
  | vxorC (d : BitVec 4) (a : BitVec 4)
  /-- Compact lane shift left. (R57) -/
  | vshlC (d : BitVec 4) (a : BitVec 4)
  /-- Compact lane shift right. (R57) -/
  | vshrC (d : BitVec 4) (a : BitVec 4)
  /-- Compact vD ← −vA. (R57) -/
  | vnegC (d : BitVec 4) (a : BitVec 4)
  /-- Compact vD ← abs(vA). (R57) -/
  | vabsC (d : BitVec 4) (a : BitVec 4)
  /-- Compact vD ← max(vA, 0). (R57) -/
  | vreluC (d : BitVec 4) (a : BitVec 4)
  /-- Compact lane average. (R57) -/
  | vavgC (d : BitVec 4) (a : BitVec 4)
  /-- Compact vD ← vD + vA × v15. (R57) -/
  | vmaccC (d : BitVec 4) (a : BitVec 4)
  /-- Compact g(D) ← g(A). (R58) -/
  | movC (d : BitVec 4) (a : BitVec 4)
  /-- Compact g(D) ← g(D) + g(A). (R58) -/
  | addC (d : BitVec 4) (a : BitVec 4)
  /-- Compact g(D) ← g(D) − g(A). (R58) -/
  | subC (d : BitVec 4) (a : BitVec 4)
  /-- Compact AND. (R58) -/
  | andC (d : BitVec 4) (a : BitVec 4)
  /-- Compact OR. (R58) -/
  | orC (d : BitVec 4) (a : BitVec 4)
  /-- Compact XOR. (R58) -/
  | xorC (d : BitVec 4) (a : BitVec 4)
  /-- Compact AND NOT. (R58) -/
  | andnC (d : BitVec 4) (a : BitVec 4)
  /-- Compact shift left. (R58) -/
  | sllC (d : BitVec 4) (a : BitVec 4)
  /-- Compact logical shift right. (R58) -/
  | srlC (d : BitVec 4) (a : BitVec 4)
  /-- Compact arithmetic shift right. (R58) -/
  | sraC (d : BitVec 4) (a : BitVec 4)
  /-- Compact signed minimum. (R58) -/
  | minC (d : BitVec 4) (a : BitVec 4)
  /-- Compact signed maximum. (R58) -/
  | maxC (d : BitVec 4) (a : BitVec 4)
  /-- Compact add of a 4-bit signed immediate. (R58) -/
  | addiC (d : BitVec 4) (i : BitVec 4)
  /-- Compact shift left by a 4-bit immediate. (R58) -/
  | slliC (d : BitVec 4) (i : BitVec 4)
  /-- Compact logical shift right by a 4-bit immediate. (R58) -/
  | srliC (d : BitVec 4) (i : BitVec 4)
  /-- Compact arithmetic shift right by a 4-bit immediate. (R58) -/
  | sraiC (d : BitVec 4) (i : BitVec 4)
  /-- Compact IDLE of n8 = D·16 + A cycles. (R59) -/
  | idleC (d : BitVec 4) (a : BitVec 4)
  /-- Compact BRK with an 8-bit code. (R59) -/
  | brkC (d : BitVec 4) (a : BitVec 4)
  /-- Compact branch by s6 halfwords if g(A) = 0. (R59) -/
  | bzC (d : BitVec 4) (a : BitVec 4) (o : BitVec 2)
  /-- Compact branch by s6 halfwords if g(A) ≠ 0. (R59) -/
  | bnzC (d : BitVec 4) (a : BitVec 4) (o : BitVec 2)
  deriving DecidableEq, Repr

end Sys2Proof
end

