-- ==== Sys2Proof/WellFormed.lean ====
section
/-! DEFINITION. Which instructions have an encoding (R53-R60): the checks of an instruction's fields that its word must
pass beside the fixed bits of its row. -/

namespace Sys2Proof

/-- Size of a width group (R55). -/
def groupSize (w : BitVec n) : Nat := 2 ^ w.toNat

/-- A width group starts at a multiple of its size (R55). -/
def groupOk (w : BitVec n) (first : BitVec k) : Bool := first.toNat % groupSize w == 0

/-- A type code of SINT (R67, R183). -/
def isSigned (t : BitVec 4) : Bool := t.toNat == 1 || t.toNat == 3 || t.toNat == 5

/-- UI8, UI16, UI32 (R67). -/
def isUnsigned (t : BitVec 4) : Bool := t.toNat == 2 || t.toNat == 4 || t.toNat == 6

/-- INT (R183). -/
def isInt (t : BitVec 4) : Bool := isSigned t || isUnsigned t

/-- FLT (R183). -/
def isFloat (t : BitVec 4) : Bool := t.toNat == 8 || t.toNat == 9 || t.toNat == 10

/-- NUM (R183). -/
def isNum (t : BitVec 4) : Bool := isInt t || isFloat t

/-- SINT and FLT. -/
def isSignedNum (t : BitVec 4) : Bool := isSigned t || isFloat t

/-- INT and BITS. -/
def isIntBits (t : BitVec 4) : Bool := isInt t || t.toNat == 11

/-- DATA (R183); a type code names no C4 tag, so it is ANY as well. -/
def isData (t : BitVec 4) : Bool := isNum t || t.toNat == 7 || t.toNat == 11

/-- DATA without BITS (R203). -/
def isTable (t : BitVec 4) : Bool := isNum t || t.toNat == 7

/-- Type code 0, the polymorphic form, or a code of the class (R67, R184). -/
def typeIn (t : BitVec 4) (cls : BitVec 4 → Bool) : Bool := t.toNat == 0 || cls t

/-- Lane width of a type code (R67, R82, R183). -/
def codeWidth (t : BitVec 4) : Nat :=
  match t.toNat with
  | 1 | 2 | 7 | 11 => 8
  | 3 | 4 | 8 | 9 => 16
  | _ => 32

/-- VMACC pairs a type with a width (R189). -/
def vmaccWf (t : BitVec 4) (w : BitVec 2) : Bool :=
  t.toNat == 0 ||
  match w.toNat with
  | 0 => isNum t
  | 1 => t.toNat == 1 || t.toNat == 2 || t.toNat == 3 || t.toNat == 4 || t.toNat == 8 || t.toNat == 9
  | 2 => t.toNat == 1 || t.toNat == 2
  | _ => false

/-- VCVT: a destination type, a rounding code, and no width or rounding for BITS (R63, R68, R195). -/
def vcvtWf (t r : BitVec 4) (w : BitVec 2) : Bool :=
  isData t && decide (r.toNat ≤ 4) && (t.toNat != 11 || (w.toNat == 0 && r.toNat == 0))

/-- VLUT.256 widths (R203). -/
def vlut256Wf (t : BitVec 4) (w : BitVec 2) : Bool :=
  t.toNat == 0 || (isTable t && ((codeWidth t == 8 && w.toNat == 2) || (codeWidth t == 16 && w.toNat == 3)))

/-- The group of LDV and STV (R55, R154): aligned, hence inside v0-v15. -/
def vgroup? (w : BitVec 2) (d : BitVec 5) : Bool := decide (d.toNat < 16) && groupOk w d

/-- The register range of LDM and STM (R156). -/
def rangeOk (d a b : BitVec 5) : Bool :=
  decide (d.toNat + b.toNat ≤ 31) && !(decide (d.toNat ≤ a.toNat) && decide (a.toNat ≤ d.toNat + b.toNat))

/-- A tile selector (R54). -/
def tileSel (x : BitVec 5) : Bool := decide (x.toNat < 8)

/-- A scratchpad-pair selector (R54). -/
def pairSel (x : BitVec 5) : Bool := decide (17 ≤ x.toNat)

/-- The constant-one plane (R54). -/
def oneSel (x : BitVec 5) : Bool := x.toNat == 16

/-- B of TMULX leaves room for B2 (R221). -/
def b2Ok (x : BitVec 5) : Bool := decide (x.toNat < 7) || (decide (17 ≤ x.toNat) && decide (x.toNat ≤ 30))

/-- Mode and selectors of a product command (R54, R62, R221). -/
def cubeWf (m : BitVec 3) (a b c : BitVec 5) : Bool :=
  decide (m.toNat ≤ 4) && (tileSel a || pairSel a) && (tileSel b || pairSel b) &&
  (if m.toNat = 0 then oneSel c else tileSel c || pairSel c || oneSel c)

/-- The numbers that R73 assigns to control registers. -/
def controlNumber (i : BitVec 15) : Bool :=
  match i.toNat with
  | 0x000 | 0x001 | 0x010 | 0x011 | 0x012 | 0x013 | 0x020 | 0x021 | 0x022 | 0x023
  | 0x030 | 0x031 | 0x040 | 0x041 | 0x042 | 0x050 | 0x060 => true
  | _ => false

/-- A row of the table that has an encoding. -/
def Instr.isWord : Instr → Bool
  | .add _ _ _ => true
  | .sub _ _ _ => true
  | .and _ _ _ => true
  | .or _ _ _ => true
  | .xor _ _ _ => true
  | .andn _ _ _ => true
  | .sll _ _ _ => true
  | .srl _ _ _ => true
  | .sra _ _ _ => true
  | .rol _ _ _ => true
  | .ror _ _ _ => true
  | .slt _ _ _ => true
  | .sltu _ _ _ => true
  | .min _ _ _ => true
  | .max _ _ _ => true
  | .minu _ _ _ => true
  | .maxu _ _ _ => true
  | .sel _ _ _ => true
  | .mul _ _ _ => true
  | .mulh _ _ _ => true
  | .mulhu _ _ _ => true
  | .div _ _ _ => true
  | .divu _ _ _ => true
  | .rem _ _ _ => true
  | .remu _ _ _ => true
  | .clmul _ _ _ => true
  | .clmulh _ _ _ => true
  | .clz _ _ => true
  | .ctz _ _ => true
  | .popc _ _ => true
  | .bswap _ _ => true
  | .bext _ _ _ => true
  | .bins _ _ _ => true
  | .fshl _ _ _ => true
  | .fshr _ _ _ => true
  | .addi _ _ _ => true
  | .andi _ _ _ => true
  | .ori _ _ _ => true
  | .xori _ _ _ => true
  | .slli _ _ _ => true
  | .srli _ _ _ => true
  | .srai _ _ _ => true
  | .slti _ _ _ => true
  | .lih _ _ _ => true
  | .faddD _ _ _ => true
  | .fsubD _ _ _ => true
  | .fmulD _ _ _ => true
  | .ffmaD _ _ _ => true
  | .fdivD _ _ _ => true
  | .fsqrtD _ _ => true
  | .fminD _ _ _ => true
  | .fmaxD _ _ _ => true
  | .fcmpEqD _ _ _ => true
  | .fcmpLtD _ _ _ => true
  | .fcmpLeD _ _ _ => true
  | .fcmpUnD _ _ _ => true
  | .fmvNegD _ _ => true
  | .fmvAbsD _ _ => true
  | .fmvCpsD _ _ _ => true
  | .faddS _ _ _ => true
  | .fsubS _ _ _ => true
  | .fmulS _ _ _ => true
  | .ffmaS _ _ _ => true
  | .fdivS _ _ _ => true
  | .fsqrtS _ _ => true
  | .fminS _ _ _ => true
  | .fmaxS _ _ _ => true
  | .fcmpEqS _ _ _ => true
  | .fcmpLtS _ _ _ => true
  | .fcmpLeS _ _ _ => true
  | .fcmpUnS _ _ _ => true
  | .fmvNegS _ _ => true
  | .fmvAbsS _ _ => true
  | .fmvCpsS _ _ _ => true
  | .fcvtDS _ _ _ => true
  | .fcvtSD _ _ _ => true
  | .fcvtDL _ _ _ => true
  | .fcvtDLu _ _ _ => true
  | .fcvtSL _ _ _ => true
  | .fcvtSLu _ _ _ => true
  | .fcvtLD _ _ _ => true
  | .fcvtLuD _ _ _ => true
  | .fcvtLS _ _ _ => true
  | .fcvtLuS _ _ _ => true
  | .beq _ _ _ => true
  | .bne _ _ _ => true
  | .blt _ _ _ => true
  | .bge _ _ _ => true
  | .bltu _ _ _ => true
  | .bgeu _ _ _ => true
  | .jal _ _ => true
  | .jalr _ _ _ => true
  | .loop _ _ => true
  | .idle _ => true
  | .brk _ => true
  | .ecall _ => true
  | .ldB _ _ _ => true
  | .ldH _ _ _ => true
  | .ldW _ _ _ => true
  | .ldD _ _ _ => true
  | .ldBu _ _ _ => true
  | .ldHu _ _ _ => true
  | .ldWu _ _ _ => true
  | .stB _ _ _ => true
  | .stH _ _ _ => true
  | .stW _ _ _ => true
  | .stD _ _ _ => true
  | .ldv _ _ _ _ => true
  | .stv _ _ _ _ => true
  | .ldm _ _ _ => true
  | .stm _ _ _ => true
  | .ldt _ _ _ => true
  | .stt _ _ _ => true
  | .look _ _ => true
  | .lset _ _ => true
  | .ifence => true
  | .sbindG _ _ _ => true
  | .sbindV _ _ _ => true
  | .sfreeG _ => true
  | .sfreeV _ => true
  | .amoAdd _ _ _ _ => true
  | .amoAnd _ _ _ _ => true
  | .amoOr _ _ _ _ => true
  | .amoXor _ _ _ _ => true
  | .amoMin _ _ _ _ => true
  | .amoMax _ _ _ _ => true
  | .amoMinu _ _ _ _ => true
  | .amoMaxu _ _ _ _ => true
  | .amoSwap _ _ _ _ => true
  | .amoAddAcq _ _ _ _ _ => true
  | .amoAndAcq _ _ _ _ _ => true
  | .amoOrAcq _ _ _ _ _ => true
  | .amoXorAcq _ _ _ _ _ => true
  | .amoMinAcq _ _ _ _ _ => true
  | .amoMaxAcq _ _ _ _ _ => true
  | .amoMinuAcq _ _ _ _ _ => true
  | .amoMaxuAcq _ _ _ _ _ => true
  | .amoSwapAcq _ _ _ _ _ => true
  | .amoAddRel _ _ _ _ _ => true
  | .amoAndRel _ _ _ _ _ => true
  | .amoOrRel _ _ _ _ _ => true
  | .amoXorRel _ _ _ _ _ => true
  | .amoMinRel _ _ _ _ _ => true
  | .amoMaxRel _ _ _ _ _ => true
  | .amoMinuRel _ _ _ _ _ => true
  | .amoMaxuRel _ _ _ _ _ => true
  | .amoSwapRel _ _ _ _ _ => true
  | .casW _ _ _ _ => true
  | .casD _ _ _ _ => true
  | .post _ _ _ => true
  | .waitc _ _ _ => true
  | .waitb _ _ _ => true
  | .fence _ => true
  | .suitBar _ => true
  | .suitDis => true
  | .vadd _ _ _ _ => true
  | .vsub _ _ _ _ => true
  | .vmul _ _ _ _ => true
  | .vfma _ _ _ _ => true
  | .vfms _ _ _ _ => true
  | .vmin _ _ _ _ => true
  | .vmax _ _ _ _ => true
  | .vabs _ _ _ => true
  | .vneg _ _ _ => true
  | .vrelu _ _ _ => true
  | .vavg _ _ _ _ => true
  | .vmacc _ _ _ _ _ => true
  | .vand _ _ _ _ => true
  | .vor _ _ _ _ => true
  | .vxor _ _ _ _ => true
  | .vandn _ _ _ _ => true
  | .vshl _ _ _ _ => true
  | .vshr _ _ _ _ => true
  | .vsra _ _ _ _ => true
  | .vpopc _ _ _ => true
  | .vclz _ _ _ => true
  | .vclmul _ _ _ _ _ => true
  | .vbext _ _ _ _ => true
  | .vfshl _ _ _ _ => true
  | .vcmpEq _ _ _ _ => true
  | .vcmpNe _ _ _ _ => true
  | .vcmpLt _ _ _ _ => true
  | .vcmpLe _ _ _ _ => true
  | .vcmpGt _ _ _ _ => true
  | .vcmpGe _ _ _ _ => true
  | .vcmpUn _ _ _ _ => true
  | .vsel _ _ _ _ => true
  | .vmov _ _ _ => true
  | .vbcast _ _ _ => true
  | .vins _ _ _ _ => true
  | .vext _ _ _ _ => true
  | .vcvt _ _ _ _ _ => true
  | .vredsum _ _ _ => true
  | .vredmax _ _ _ => true
  | .vredmin _ _ _ => true
  | .vscan _ _ _ => true
  | .vperm _ _ _ _ => true
  | .vcompress _ _ _ _ => true
  | .vexpand _ _ _ _ => true
  | .vgather _ _ _ _ => true
  | .vscatter _ _ _ _ => true
  | .vlut16 _ _ _ _ => true
  | .vlut256 _ _ _ _ _ => true
  | .vexp2 _ _ _ => true
  | .vlog2 _ _ _ => true
  | .vrcp _ _ _ => true
  | .vrsqrt _ _ _ => true
  | .vsortkv _ _ _ _ => true
  | .mand _ _ _ => true
  | .mor _ _ _ => true
  | .mxor _ _ _ => true
  | .mnot _ _ => true
  | .mpop _ _ _ => true
  | .mfirst _ _ _ => true
  | .vmovC _ _ => true
  | .vaddC _ _ => true
  | .vsubC _ _ => true
  | .vmulC _ _ => true
  | .vminC _ _ => true
  | .vmaxC _ _ => true
  | .vandC _ _ => true
  | .vorC _ _ => true
  | .vxorC _ _ => true
  | .vshlC _ _ => true
  | .vshrC _ _ => true
  | .vnegC _ _ => true
  | .vabsC _ _ => true
  | .vreluC _ _ => true
  | .vavgC _ _ => true
  | .vmaccC _ _ => true
  | .movC _ _ => true
  | .addC _ _ => true
  | .subC _ _ => true
  | .andC _ _ => true
  | .orC _ _ => true
  | .xorC _ _ => true
  | .andnC _ _ => true
  | .sllC _ _ => true
  | .srlC _ _ => true
  | .sraC _ _ => true
  | .minC _ _ => true
  | .maxC _ _ => true
  | .addiC _ _ => true
  | .slliC _ _ => true
  | .srliC _ _ => true
  | .sraiC _ _ => true
  | .idleC _ _ => true
  | .brkC _ _ => true
  | .bzC _ _ _ => true
  | .bnzC _ _ _ => true
  | .tmul _ _ _ _ _ => true
  | .tmuls _ _ _ _ _ => true
  | .tmulx _ _ _ _ _ => true
  | .tpart _ _ _ _ _ => true
  | .tzero _ => true
  | .tld _ _ => true
  | .tst _ _ => true
  | .tcode _ _ => true
  | .tfence => true
  | .trow _ _ _ => true
  | .lfork _ _ _ => true
  | .lforkr _ _ _ => true
  | .lput _ _ _ => true
  | .lseal _ => true
  | .ldrop _ => true
  | .linfo _ _ => true
  | .lflat _ _ => true
  | .lrebase _ _ _ => true
  | .lprod _ _ => true
  | .cp _ _ _ _ => true
  | .cpL _ _ _ _ => true
  | .cpS _ _ _ _ => true
  | .cpG _ _ _ _ => true
  | .cpR _ _ _ _ => true
  | .cpX _ _ _ _ => true
  | .cpM _ _ _ _ => true
  | .seal _ => true
  | .waitn _ => true
  | .pub _ => true
  | .armb _ _ => true
  | .nred _ _ _ _ => true
  | .ntopk _ _ _ _ => true
  | .ncount _ _ _ _ => true
  | .nbcast _ _ _ _ => true
  | .rcreate _ _ => true
  | .rlaunch _ _ => true
  | .rrevoke _ _ _ => true
  | .ryield => true
  | .rinval _ => true
  | .gbar => true
  | .tbegin _ => true
  | .tend => true
  | .eret => true
  | .eretResume _ => true
  | .halt => true
  | .crd _ _ => true
  | .cwr _ _ => true
  | .wswp _ => true
  | .illegalWord _ _ => false
  | .registerLanding => false
  | .takeInterrupt => false
  | .suitBarrierComplete _ _ => false
  | .timedSegmentStart => false
  | .waitcSatisfied => false
  | .waitbSatisfied => false
  | .waitnSatisfied => false
  | .fenceComplete => false
  | .tfenceComplete => false
  | .pubComplete => false
  | .superstepBoundary _ => false
  | .superstepWatchdog _ => false
  | .gangStop _ => false
  | .gangResume _ => false
  | .debugStopEnd _ => false
  | .coreHalt => false
  | .deal => false
  | .launchReady _ _ => false
  | .launchPlace _ => false
  | .launchStart _ => false
  | .dealerAnswer => false
  | .revokeDismantle _ => false
  | .mailboxIncrement _ => false
  | .governorCommandStart _ => false
  | .cubeStep _ => false
  | .governorCommandComplete _ => false
  | .engineCommandStart _ => false
  | .engineLanding _ => false
  | .engineCommandComplete _ => false
  | .streamFetch _ _ => false
  | .streamWrite _ _ => false
  | .collectiveInstanceStart _ => false
  | .housekeeperFold _ _ => false
  | .nodeFree _ _ => false
  | .scrubLine => false
  | .pageRetire _ => false
  | .refreshUpdate _ => false
  | .heartbeat _ => false
  | .refreshTakeover _ => false
  | .mgmtCoreRestart _ => false
  | .patrolScrub _ _ => false
  | .decoderWatchdog _ _ => false
  | .implicitPromotion _ => false
  | .expanderTimeout _ => false
  | .expanderReinstate _ => false
  | .extentAdd _ _ _ => false
  | .extentRelease _ _ => false
  | .remoteWrite _ _ _ => false
  | .remoteRead _ _ _ => false
  | .remoteFetchAdd _ _ _ => false
  | .remoteSwap _ _ _ => false
  | .remoteCompareSwap _ _ _ _ => false
  | .remoteCounterAdd _ _ _ => false
  | .installHostWindow _ _ => false
  | .installPeerGroup _ _ _ => false
  | .readTelemetry => false
  | .hostmsg _ => false
  | .keyInstall _ _ _ => false
  | .keyRemoval _ _ _ => false
  | .attestationRequest _ => false
  | .firmwareReplace _ _ => false
  | .warmStartRequest => false
  | .coldStart => false
  | .clockChange _ _ => false
  | .thermalClockStop _ => false
  | .thermalClockResume _ => false
  | .dieLinkLoss _ => false
  | .worstExceeded _ => false
  | .balanceExhausted _ => false
  | .peerUnreachable _ _ => false
  | .transportKeyInstall _ _ => false
  | .wearLevelling _ _ => false

/-- The fields pass every check of R53-R60 that the constructor's own shape does not already enforce. -/
def Instr.wf : Instr → Bool
  | .add _ _ _ => true
  | .sub _ _ _ => true
  | .and _ _ _ => true
  | .or _ _ _ => true
  | .xor _ _ _ => true
  | .andn _ _ _ => true
  | .sll _ _ _ => true
  | .srl _ _ _ => true
  | .sra _ _ _ => true
  | .rol _ _ _ => true
  | .ror _ _ _ => true
  | .slt _ _ _ => true
  | .sltu _ _ _ => true
  | .min _ _ _ => true
  | .max _ _ _ => true
  | .minu _ _ _ => true
  | .maxu _ _ _ => true
  | .sel _ _ _ => true
  | .mul _ _ _ => true
  | .mulh _ _ _ => true
  | .mulhu _ _ _ => true
  | .div _ _ _ => true
  | .divu _ _ _ => true
  | .rem _ _ _ => true
  | .remu _ _ _ => true
  | .clmul _ _ _ => true
  | .clmulh _ _ _ => true
  | .clz _ _ => true
  | .ctz _ _ => true
  | .popc _ _ => true
  | .bswap _ _ => true
  | .bext _ _ _ => true
  | .bins _ _ _ => true
  | .fshl _ _ _ => true
  | .fshr _ _ _ => true
  | .addi _ _ _ => true
  | .andi _ _ _ => true
  | .ori _ _ _ => true
  | .xori _ _ _ => true
  | .slli _ _ _ => true
  | .srli _ _ _ => true
  | .srai _ _ _ => true
  | .slti _ _ _ => true
  | .lih _ _ _ => true
  | .faddD _ _ _ => true
  | .fsubD _ _ _ => true
  | .fmulD _ _ _ => true
  | .ffmaD _ _ _ => true
  | .fdivD _ _ _ => true
  | .fsqrtD _ _ => true
  | .fminD _ _ _ => true
  | .fmaxD _ _ _ => true
  | .fcmpEqD _ _ _ => true
  | .fcmpLtD _ _ _ => true
  | .fcmpLeD _ _ _ => true
  | .fcmpUnD _ _ _ => true
  | .fmvNegD _ _ => true
  | .fmvAbsD _ _ => true
  | .fmvCpsD _ _ _ => true
  | .faddS _ _ _ => true
  | .fsubS _ _ _ => true
  | .fmulS _ _ _ => true
  | .ffmaS _ _ _ => true
  | .fdivS _ _ _ => true
  | .fsqrtS _ _ => true
  | .fminS _ _ _ => true
  | .fmaxS _ _ _ => true
  | .fcmpEqS _ _ _ => true
  | .fcmpLtS _ _ _ => true
  | .fcmpLeS _ _ _ => true
  | .fcmpUnS _ _ _ => true
  | .fmvNegS _ _ => true
  | .fmvAbsS _ _ => true
  | .fmvCpsS _ _ _ => true
  | .fcvtDS _ _ r => r.toNat ≤ 4
  | .fcvtSD _ _ r => r.toNat ≤ 4
  | .fcvtDL _ _ r => r.toNat ≤ 4
  | .fcvtDLu _ _ r => r.toNat ≤ 4
  | .fcvtSL _ _ r => r.toNat ≤ 4
  | .fcvtSLu _ _ r => r.toNat ≤ 4
  | .fcvtLD _ _ r => r.toNat ≤ 4
  | .fcvtLuD _ _ r => r.toNat ≤ 4
  | .fcvtLS _ _ r => r.toNat ≤ 4
  | .fcvtLuS _ _ r => r.toNat ≤ 4
  | .beq _ _ _ => true
  | .bne _ _ _ => true
  | .blt _ _ _ => true
  | .bge _ _ _ => true
  | .bltu _ _ _ => true
  | .bgeu _ _ _ => true
  | .jal _ _ => true
  | .jalr _ _ _ => true
  | .loop a _ => a.toNat ≠ 0
  | .idle n => n.toNat ≠ 0
  | .brk _ => true
  | .ecall _ => true
  | .ldB _ _ _ => true
  | .ldH _ _ _ => true
  | .ldW _ _ _ => true
  | .ldD _ _ _ => true
  | .ldBu _ _ _ => true
  | .ldHu _ _ _ => true
  | .ldWu _ _ _ => true
  | .stB _ _ _ => true
  | .stH _ _ _ => true
  | .stW _ _ _ => true
  | .stD _ _ _ => true
  | .ldv d _ _ w => vgroup? w d
  | .stv d _ _ w => vgroup? w d
  | .ldm d a b => rangeOk d a b
  | .stm d a b => rangeOk d a b
  | .ldt _ _ _ => true
  | .stt _ _ _ => true
  | .look _ _ => true
  | .lset _ _ => true
  | .ifence => true
  | .sbindG _ _ _ => true
  | .sbindV _ _ _ => true
  | .sfreeG _ => true
  | .sfreeV _ => true
  | .amoAdd _ _ _ _ => true
  | .amoAnd _ _ _ _ => true
  | .amoOr _ _ _ _ => true
  | .amoXor _ _ _ _ => true
  | .amoMin _ _ _ _ => true
  | .amoMax _ _ _ _ => true
  | .amoMinu _ _ _ _ => true
  | .amoMaxu _ _ _ _ => true
  | .amoSwap _ _ _ _ => true
  | .amoAddAcq _ _ _ _ _ => true
  | .amoAndAcq _ _ _ _ _ => true
  | .amoOrAcq _ _ _ _ _ => true
  | .amoXorAcq _ _ _ _ _ => true
  | .amoMinAcq _ _ _ _ _ => true
  | .amoMaxAcq _ _ _ _ _ => true
  | .amoMinuAcq _ _ _ _ _ => true
  | .amoMaxuAcq _ _ _ _ _ => true
  | .amoSwapAcq _ _ _ _ _ => true
  | .amoAddRel _ _ _ _ _ => true
  | .amoAndRel _ _ _ _ _ => true
  | .amoOrRel _ _ _ _ _ => true
  | .amoXorRel _ _ _ _ _ => true
  | .amoMinRel _ _ _ _ _ => true
  | .amoMaxRel _ _ _ _ _ => true
  | .amoMinuRel _ _ _ _ _ => true
  | .amoMaxuRel _ _ _ _ _ => true
  | .amoSwapRel _ _ _ _ _ => true
  | .casW _ _ _ _ => true
  | .casD _ _ _ _ => true
  | .post _ _ _ => true
  | .waitc _ _ _ => true
  | .waitb _ _ _ => true
  | .fence _ => true
  | .suitBar _ => true
  | .suitDis => true
  | .vadd _ _ _ t => typeIn t isNum
  | .vsub _ _ _ t => typeIn t isNum
  | .vmul _ _ _ t => typeIn t isNum
  | .vfma _ _ _ t => typeIn t isNum
  | .vfms _ _ _ t => typeIn t isNum
  | .vmin _ _ _ t => typeIn t isNum
  | .vmax _ _ _ t => typeIn t isNum
  | .vabs _ _ t => typeIn t isSignedNum
  | .vneg _ _ t => typeIn t isSignedNum
  | .vrelu _ _ t => typeIn t isSignedNum
  | .vavg _ _ _ t => typeIn t isInt
  | .vmacc d _ _ w t => vmaccWf t w && groupOk w d
  | .vand _ _ _ t => typeIn t isIntBits
  | .vor _ _ _ t => typeIn t isIntBits
  | .vxor _ _ _ t => typeIn t isIntBits
  | .vandn _ _ _ t => typeIn t isIntBits
  | .vshl _ _ _ t => typeIn t isInt
  | .vshr _ _ _ t => typeIn t isInt
  | .vsra _ _ _ t => typeIn t isInt
  | .vpopc _ _ t => typeIn t isInt
  | .vclz _ _ t => typeIn t isInt
  | .vclmul d _ _ w t => typeIn t isUnsigned && groupOk w d
  | .vbext _ _ _ t => typeIn t isInt
  | .vfshl _ _ _ t => typeIn t isInt
  | .vcmpEq _ _ _ t => typeIn t isNum
  | .vcmpNe _ _ _ t => typeIn t isNum
  | .vcmpLt _ _ _ t => typeIn t isNum
  | .vcmpLe _ _ _ t => typeIn t isNum
  | .vcmpGt _ _ _ t => typeIn t isNum
  | .vcmpGe _ _ _ t => typeIn t isNum
  | .vcmpUn _ _ _ t => typeIn t isNum
  | .vsel _ _ _ t => typeIn t isData
  | .vmov _ _ t => typeIn t isData
  | .vbcast _ _ t => isData t
  | .vins _ _ _ t => typeIn t isData
  | .vext _ _ _ t => typeIn t isData
  | .vcvt _ _ w r t => vcvtWf t r w
  | .vredsum _ _ t => typeIn t isNum
  | .vredmax _ _ t => typeIn t isNum
  | .vredmin _ _ t => typeIn t isNum
  | .vscan _ _ t => typeIn t isNum
  | .vperm _ _ _ t => typeIn t isData
  | .vcompress _ _ _ t => typeIn t isData
  | .vexpand _ _ _ t => typeIn t isData
  | .vgather _ _ _ t => isData t
  | .vscatter _ _ _ t => typeIn t isData
  | .vlut16 _ _ _ t => typeIn t isTable
  | .vlut256 _ _ b w t => vlut256Wf t w && groupOk w b
  | .vexp2 _ _ t => typeIn t isFloat
  | .vlog2 _ _ t => typeIn t isFloat
  | .vrcp _ _ t => typeIn t isFloat
  | .vrsqrt _ _ t => typeIn t isFloat
  | .vsortkv d a _ t => typeIn t isNum && groupOk (1 : BitVec 2) d && groupOk (1 : BitVec 2) a
  | .mand _ _ _ => true
  | .mor _ _ _ => true
  | .mxor _ _ _ => true
  | .mnot _ _ => true
  | .mpop _ _ b => b.toNat ≤ 2
  | .mfirst _ _ b => b.toNat ≤ 2
  | .vmovC _ _ => true
  | .vaddC _ _ => true
  | .vsubC _ _ => true
  | .vmulC _ _ => true
  | .vminC _ _ => true
  | .vmaxC _ _ => true
  | .vandC _ _ => true
  | .vorC _ _ => true
  | .vxorC _ _ => true
  | .vshlC _ _ => true
  | .vshrC _ _ => true
  | .vnegC _ _ => true
  | .vabsC _ _ => true
  | .vreluC _ _ => true
  | .vavgC _ _ => true
  | .vmaccC _ _ => true
  | .movC _ _ => true
  | .addC _ _ => true
  | .subC _ _ => true
  | .andC _ _ => true
  | .orC _ _ => true
  | .xorC _ _ => true
  | .andnC _ _ => true
  | .sllC _ _ => true
  | .srlC _ _ => true
  | .sraC _ _ => true
  | .minC _ _ => true
  | .maxC _ _ => true
  | .addiC _ _ => true
  | .slliC _ _ => true
  | .srliC _ _ => true
  | .sraiC _ _ => true
  | .idleC d a => a.toNat ≠ 0 || d.toNat ≠ 0
  | .brkC _ _ => true
  | .bzC _ _ _ => true
  | .bnzC _ _ _ => true
  | .tmul _ a b c m => cubeWf m a b c
  | .tmuls _ a b c m => pairSel a && m.toNat ≤ 3 && cubeWf m a b c
  | .tmulx _ a b c m => b2Ok b && cubeWf m a b c
  | .tpart _ a b c m => cubeWf m a b c
  | .tzero _ => true
  | .tld _ a => a.toNat ≠ 0
  | .tst _ a => a.toNat ≠ 0
  | .tcode a _ => tileSel a || pairSel a
  | .tfence => true
  | .trow _ _ _ => true
  | .lfork _ _ _ => true
  | .lforkr _ _ _ => true
  | .lput _ _ _ => true
  | .lseal _ => true
  | .ldrop _ => true
  | .linfo _ _ => true
  | .lflat _ _ => true
  | .lrebase _ _ _ => true
  | .lprod _ _ => true
  | .cp _ _ _ _ => true
  | .cpL _ _ _ _ => true
  | .cpS _ _ _ _ => true
  | .cpG _ _ _ _ => true
  | .cpR _ _ _ _ => true
  | .cpX _ _ _ _ => true
  | .cpM _ _ _ _ => true
  | .seal _ => true
  | .waitn _ => true
  | .pub _ => true
  | .armb _ _ => true
  | .nred _ _ _ _ => true
  | .ntopk _ _ _ _ => true
  | .ncount _ _ _ _ => true
  | .nbcast _ _ _ _ => true
  | .rcreate _ _ => true
  | .rlaunch _ _ => true
  | .rrevoke _ _ _ => true
  | .ryield => true
  | .rinval _ => true
  | .gbar => true
  | .tbegin _ => true
  | .tend => true
  | .eret => true
  | .eretResume a => a.toNat ≠ 0
  | .halt => true
  | .crd _ i => controlNumber i
  | .cwr _ i => controlNumber i
  | .wswp _ => true
  | .illegalWord _ _ => true
  | .registerLanding => true
  | .takeInterrupt => true
  | .suitBarrierComplete _ _ => true
  | .timedSegmentStart => true
  | .waitcSatisfied => true
  | .waitbSatisfied => true
  | .waitnSatisfied => true
  | .fenceComplete => true
  | .tfenceComplete => true
  | .pubComplete => true
  | .superstepBoundary _ => true
  | .superstepWatchdog _ => true
  | .gangStop _ => true
  | .gangResume _ => true
  | .debugStopEnd _ => true
  | .coreHalt => true
  | .deal => true
  | .launchReady _ _ => true
  | .launchPlace _ => true
  | .launchStart _ => true
  | .dealerAnswer => true
  | .revokeDismantle _ => true
  | .mailboxIncrement _ => true
  | .governorCommandStart _ => true
  | .cubeStep _ => true
  | .governorCommandComplete _ => true
  | .engineCommandStart _ => true
  | .engineLanding _ => true
  | .engineCommandComplete _ => true
  | .streamFetch _ _ => true
  | .streamWrite _ _ => true
  | .collectiveInstanceStart _ => true
  | .housekeeperFold _ _ => true
  | .nodeFree _ _ => true
  | .scrubLine => true
  | .pageRetire _ => true
  | .refreshUpdate _ => true
  | .heartbeat _ => true
  | .refreshTakeover _ => true
  | .mgmtCoreRestart _ => true
  | .patrolScrub _ _ => true
  | .decoderWatchdog _ _ => true
  | .implicitPromotion _ => true
  | .expanderTimeout _ => true
  | .expanderReinstate _ => true
  | .extentAdd _ _ _ => true
  | .extentRelease _ _ => true
  | .remoteWrite _ _ _ => true
  | .remoteRead _ _ _ => true
  | .remoteFetchAdd _ _ _ => true
  | .remoteSwap _ _ _ => true
  | .remoteCompareSwap _ _ _ _ => true
  | .remoteCounterAdd _ _ _ => true
  | .installHostWindow _ _ => true
  | .installPeerGroup _ _ _ => true
  | .readTelemetry => true
  | .hostmsg _ => true
  | .keyInstall _ _ _ => true
  | .keyRemoval _ _ _ => true
  | .attestationRequest _ => true
  | .firmwareReplace _ _ => true
  | .warmStartRequest => true
  | .coldStart => true
  | .clockChange _ _ => true
  | .thermalClockStop _ => true
  | .thermalClockResume _ => true
  | .dieLinkLoss _ => true
  | .worstExceeded _ => true
  | .balanceExhausted _ => true
  | .peerUnreachable _ _ => true
  | .transportKeyInstall _ _ => true
  | .wearLevelling _ _ => true

end Sys2Proof
end

