-- ==== Sys2Proof/Decode.lean ====
section
/-! DEFINITION. Decoding of instruction words and their encoding (R47, R50, R56-R62, R100). The functions that build an
instruction are noncomputable only because Lean's code generator limits the number of constructors it can build; the
kernel evaluates them, and Machine/Run.lean runs them. A word is a natural number whose bit 0 is the least significant bit of its first halfword. Every bit pattern is an instruction or rejected by name. -/

namespace Sys2Proof

/-- Why bytes are no instruction (R60, R48). -/
inductive Reject where
  /-- fewer bytes than the instruction has -/
  | truncated
  /-- a 16-bit word that is an illegal encoding -/
  | illegal16 (w : BitVec 16)
  /-- a 32-bit word that is an illegal encoding -/
  | illegal32 (w : BitVec 32)
  deriving DecidableEq, Repr

/-- Bits lo to lo + n - 1 of a word, as a number. -/
def fld (w lo n : Nat) : Nat := w / 2 ^ lo % 2 ^ n

/-- Bits lo to lo + n - 1 of a word, as a field. -/
def fieldOf (w lo n : Nat) : BitVec n := BitVec.ofNat n (w / 2 ^ lo)

/-- Length of the instruction in bytes, from bit 0 of the first halfword (R47). -/
def wordBytes (w : Nat) : Nat := if w % 2 = 1 then 4 else 2

/-- MAJ 0x00 (R62). -/
def decodeMaj00 (w : Nat) : Option Instr :=
  match fld w 24 8 with
  | 0 => if fld w 22 2 == 0 then some (.add (fieldOf w 7 5) (fieldOf w 12 5) (fieldOf w 17 5)) else none
  | 1 => if fld w 22 2 == 0 then some (.sub (fieldOf w 7 5) (fieldOf w 12 5) (fieldOf w 17 5)) else none
  | 2 => if fld w 22 2 == 0 then some (.and (fieldOf w 7 5) (fieldOf w 12 5) (fieldOf w 17 5)) else none
  | 3 => if fld w 22 2 == 0 then some (.or (fieldOf w 7 5) (fieldOf w 12 5) (fieldOf w 17 5)) else none
  | 4 => if fld w 22 2 == 0 then some (.xor (fieldOf w 7 5) (fieldOf w 12 5) (fieldOf w 17 5)) else none
  | 5 => if fld w 22 2 == 0 then some (.andn (fieldOf w 7 5) (fieldOf w 12 5) (fieldOf w 17 5)) else none
  | 6 => if fld w 22 2 == 0 then some (.sll (fieldOf w 7 5) (fieldOf w 12 5) (fieldOf w 17 5)) else none
  | 7 => if fld w 22 2 == 0 then some (.srl (fieldOf w 7 5) (fieldOf w 12 5) (fieldOf w 17 5)) else none
  | 8 => if fld w 22 2 == 0 then some (.sra (fieldOf w 7 5) (fieldOf w 12 5) (fieldOf w 17 5)) else none
  | 9 => if fld w 22 2 == 0 then some (.rol (fieldOf w 7 5) (fieldOf w 12 5) (fieldOf w 17 5)) else none
  | 10 => if fld w 22 2 == 0 then some (.ror (fieldOf w 7 5) (fieldOf w 12 5) (fieldOf w 17 5)) else none
  | 11 => if fld w 22 2 == 0 then some (.slt (fieldOf w 7 5) (fieldOf w 12 5) (fieldOf w 17 5)) else none
  | 12 => if fld w 22 2 == 0 then some (.sltu (fieldOf w 7 5) (fieldOf w 12 5) (fieldOf w 17 5)) else none
  | 13 => if fld w 22 2 == 0 then some (.min (fieldOf w 7 5) (fieldOf w 12 5) (fieldOf w 17 5)) else none
  | 14 => if fld w 22 2 == 0 then some (.max (fieldOf w 7 5) (fieldOf w 12 5) (fieldOf w 17 5)) else none
  | 15 => if fld w 22 2 == 0 then some (.minu (fieldOf w 7 5) (fieldOf w 12 5) (fieldOf w 17 5)) else none
  | 16 => if fld w 22 2 == 0 then some (.maxu (fieldOf w 7 5) (fieldOf w 12 5) (fieldOf w 17 5)) else none
  | 17 => if fld w 22 2 == 0 then some (.sel (fieldOf w 7 5) (fieldOf w 12 5) (fieldOf w 17 5)) else none
  | _ => none

/-- MAJ 0x01 (R62). -/
def decodeMaj01 (w : Nat) : Option Instr :=
  match fld w 24 8 with
  | 0 => if fld w 22 2 == 0 then some (.mul (fieldOf w 7 5) (fieldOf w 12 5) (fieldOf w 17 5)) else none
  | 1 => if fld w 22 2 == 0 then some (.mulh (fieldOf w 7 5) (fieldOf w 12 5) (fieldOf w 17 5)) else none
  | 2 => if fld w 22 2 == 0 then some (.mulhu (fieldOf w 7 5) (fieldOf w 12 5) (fieldOf w 17 5)) else none
  | 3 => if fld w 22 2 == 0 then some (.div (fieldOf w 7 5) (fieldOf w 12 5) (fieldOf w 17 5)) else none
  | 4 => if fld w 22 2 == 0 then some (.divu (fieldOf w 7 5) (fieldOf w 12 5) (fieldOf w 17 5)) else none
  | 5 => if fld w 22 2 == 0 then some (.rem (fieldOf w 7 5) (fieldOf w 12 5) (fieldOf w 17 5)) else none
  | 6 => if fld w 22 2 == 0 then some (.remu (fieldOf w 7 5) (fieldOf w 12 5) (fieldOf w 17 5)) else none
  | 7 => if fld w 22 2 == 0 then some (.clmul (fieldOf w 7 5) (fieldOf w 12 5) (fieldOf w 17 5)) else none
  | 8 => if fld w 22 2 == 0 then some (.clmulh (fieldOf w 7 5) (fieldOf w 12 5) (fieldOf w 17 5)) else none
  | _ => none

/-- MAJ 0x02 (R62). -/
def decodeMaj02 (w : Nat) : Option Instr :=
  match fld w 24 8 with
  | 0 => if fld w 17 7 == 0 then some (.clz (fieldOf w 7 5) (fieldOf w 12 5)) else none
  | 1 => if fld w 17 7 == 0 then some (.ctz (fieldOf w 7 5) (fieldOf w 12 5)) else none
  | 2 => if fld w 17 7 == 0 then some (.popc (fieldOf w 7 5) (fieldOf w 12 5)) else none
  | 3 => if fld w 17 7 == 0 then some (.bswap (fieldOf w 7 5) (fieldOf w 12 5)) else none
  | 4 => if fld w 22 2 == 0 then some (.bext (fieldOf w 7 5) (fieldOf w 12 5) (fieldOf w 17 5)) else none
  | 5 => if fld w 22 2 == 0 then some (.bins (fieldOf w 7 5) (fieldOf w 12 5) (fieldOf w 17 5)) else none
  | 6 => if fld w 22 2 == 0 then some (.fshl (fieldOf w 7 5) (fieldOf w 12 5) (fieldOf w 17 5)) else none
  | 7 => if fld w 22 2 == 0 then some (.fshr (fieldOf w 7 5) (fieldOf w 12 5) (fieldOf w 17 5)) else none
  | _ => none

/-- MAJ 0x03 (R62). -/
def decodeMaj03 (w : Nat) : Option Instr := some (.addi (fieldOf w 7 5) (fieldOf w 12 5) (fieldOf w 17 15))

/-- MAJ 0x04 (R62). -/
def decodeMaj04 (w : Nat) : Option Instr := some (.andi (fieldOf w 7 5) (fieldOf w 12 5) (fieldOf w 17 15))

/-- MAJ 0x05 (R62). -/
def decodeMaj05 (w : Nat) : Option Instr := some (.ori (fieldOf w 7 5) (fieldOf w 12 5) (fieldOf w 17 15))

/-- MAJ 0x06 (R62). -/
def decodeMaj06 (w : Nat) : Option Instr := some (.xori (fieldOf w 7 5) (fieldOf w 12 5) (fieldOf w 17 15))

/-- MAJ 0x07 (R62). -/
def decodeMaj07 (w : Nat) : Option Instr := if fld w 23 9 == 0 then some (.slli (fieldOf w 7 5) (fieldOf w 12 5) (fieldOf w 17 6)) else none

/-- MAJ 0x08 (R62). -/
def decodeMaj08 (w : Nat) : Option Instr := if fld w 23 9 == 0 then some (.srli (fieldOf w 7 5) (fieldOf w 12 5) (fieldOf w 17 6)) else none

/-- MAJ 0x09 (R62). -/
def decodeMaj09 (w : Nat) : Option Instr := if fld w 23 9 == 0 then some (.srai (fieldOf w 7 5) (fieldOf w 12 5) (fieldOf w 17 6)) else none

/-- MAJ 0x0A (R62). -/
def decodeMaj0A (w : Nat) : Option Instr := some (.slti (fieldOf w 7 5) (fieldOf w 12 5) (fieldOf w 17 15))

/-- MAJ 0x0B (R62). -/
def decodeMaj0B (w : Nat) : Option Instr := some (.lih (fieldOf w 7 5) (fieldOf w 12 5) (fieldOf w 17 15))

/-- MAJ 0x10 (R62). -/
noncomputable def decodeMaj10 (w : Nat) : Option Instr :=
  match fld w 24 8 with
  | 0 => if fld w 22 2 == 0 then some (.faddD (fieldOf w 7 5) (fieldOf w 12 5) (fieldOf w 17 5)) else none
  | 1 => if fld w 22 2 == 0 then some (.fsubD (fieldOf w 7 5) (fieldOf w 12 5) (fieldOf w 17 5)) else none
  | 2 => if fld w 22 2 == 0 then some (.fmulD (fieldOf w 7 5) (fieldOf w 12 5) (fieldOf w 17 5)) else none
  | 3 => if fld w 22 2 == 0 then some (.ffmaD (fieldOf w 7 5) (fieldOf w 12 5) (fieldOf w 17 5)) else none
  | 4 => if fld w 22 2 == 0 then some (.fdivD (fieldOf w 7 5) (fieldOf w 12 5) (fieldOf w 17 5)) else none
  | 5 => if fld w 17 7 == 0 then some (.fsqrtD (fieldOf w 7 5) (fieldOf w 12 5)) else none
  | 6 => if fld w 22 2 == 0 then some (.fminD (fieldOf w 7 5) (fieldOf w 12 5) (fieldOf w 17 5)) else none
  | 7 => if fld w 22 2 == 0 then some (.fmaxD (fieldOf w 7 5) (fieldOf w 12 5) (fieldOf w 17 5)) else none
  | 8 => if fld w 22 2 == 0 then some (.fcmpEqD (fieldOf w 7 5) (fieldOf w 12 5) (fieldOf w 17 5)) else none
  | 9 => if fld w 22 2 == 0 then some (.fcmpLtD (fieldOf w 7 5) (fieldOf w 12 5) (fieldOf w 17 5)) else none
  | 10 => if fld w 22 2 == 0 then some (.fcmpLeD (fieldOf w 7 5) (fieldOf w 12 5) (fieldOf w 17 5)) else none
  | 11 => if fld w 22 2 == 0 then some (.fcmpUnD (fieldOf w 7 5) (fieldOf w 12 5) (fieldOf w 17 5)) else none
  | 12 => if fld w 17 7 == 0 then some (.fmvNegD (fieldOf w 7 5) (fieldOf w 12 5)) else none
  | 13 => if fld w 17 7 == 0 then some (.fmvAbsD (fieldOf w 7 5) (fieldOf w 12 5)) else none
  | 14 => if fld w 22 2 == 0 then some (.fmvCpsD (fieldOf w 7 5) (fieldOf w 12 5) (fieldOf w 17 5)) else none
  | _ => none

/-- MAJ 0x11 (R62). -/
noncomputable def decodeMaj11 (w : Nat) : Option Instr :=
  match fld w 24 8 with
  | 0 => if fld w 22 2 == 0 then some (.faddS (fieldOf w 7 5) (fieldOf w 12 5) (fieldOf w 17 5)) else none
  | 1 => if fld w 22 2 == 0 then some (.fsubS (fieldOf w 7 5) (fieldOf w 12 5) (fieldOf w 17 5)) else none
  | 2 => if fld w 22 2 == 0 then some (.fmulS (fieldOf w 7 5) (fieldOf w 12 5) (fieldOf w 17 5)) else none
  | 3 => if fld w 22 2 == 0 then some (.ffmaS (fieldOf w 7 5) (fieldOf w 12 5) (fieldOf w 17 5)) else none
  | 4 => if fld w 22 2 == 0 then some (.fdivS (fieldOf w 7 5) (fieldOf w 12 5) (fieldOf w 17 5)) else none
  | 5 => if fld w 17 7 == 0 then some (.fsqrtS (fieldOf w 7 5) (fieldOf w 12 5)) else none
  | 6 => if fld w 22 2 == 0 then some (.fminS (fieldOf w 7 5) (fieldOf w 12 5) (fieldOf w 17 5)) else none
  | 7 => if fld w 22 2 == 0 then some (.fmaxS (fieldOf w 7 5) (fieldOf w 12 5) (fieldOf w 17 5)) else none
  | 8 => if fld w 22 2 == 0 then some (.fcmpEqS (fieldOf w 7 5) (fieldOf w 12 5) (fieldOf w 17 5)) else none
  | 9 => if fld w 22 2 == 0 then some (.fcmpLtS (fieldOf w 7 5) (fieldOf w 12 5) (fieldOf w 17 5)) else none
  | 10 => if fld w 22 2 == 0 then some (.fcmpLeS (fieldOf w 7 5) (fieldOf w 12 5) (fieldOf w 17 5)) else none
  | 11 => if fld w 22 2 == 0 then some (.fcmpUnS (fieldOf w 7 5) (fieldOf w 12 5) (fieldOf w 17 5)) else none
  | 12 => if fld w 17 7 == 0 then some (.fmvNegS (fieldOf w 7 5) (fieldOf w 12 5)) else none
  | 13 => if fld w 17 7 == 0 then some (.fmvAbsS (fieldOf w 7 5) (fieldOf w 12 5)) else none
  | 14 => if fld w 22 2 == 0 then some (.fmvCpsS (fieldOf w 7 5) (fieldOf w 12 5) (fieldOf w 17 5)) else none
  | _ => none

/-- MAJ 0x12 (R62). -/
noncomputable def decodeMaj12 (w : Nat) : Option Instr :=
  match fld w 28 4 with
  | 0 => if fld w 17 7 == 0 then some (.fcvtDS (fieldOf w 7 5) (fieldOf w 12 5) (fieldOf w 24 4)) else none
  | 1 => if fld w 17 7 == 0 then some (.fcvtSD (fieldOf w 7 5) (fieldOf w 12 5) (fieldOf w 24 4)) else none
  | 2 => if fld w 17 7 == 0 then some (.fcvtDL (fieldOf w 7 5) (fieldOf w 12 5) (fieldOf w 24 4)) else none
  | 3 => if fld w 17 7 == 0 then some (.fcvtDLu (fieldOf w 7 5) (fieldOf w 12 5) (fieldOf w 24 4)) else none
  | 4 => if fld w 17 7 == 0 then some (.fcvtSL (fieldOf w 7 5) (fieldOf w 12 5) (fieldOf w 24 4)) else none
  | 5 => if fld w 17 7 == 0 then some (.fcvtSLu (fieldOf w 7 5) (fieldOf w 12 5) (fieldOf w 24 4)) else none
  | 6 => if fld w 17 7 == 0 then some (.fcvtLD (fieldOf w 7 5) (fieldOf w 12 5) (fieldOf w 24 4)) else none
  | 7 => if fld w 17 7 == 0 then some (.fcvtLuD (fieldOf w 7 5) (fieldOf w 12 5) (fieldOf w 24 4)) else none
  | 8 => if fld w 17 7 == 0 then some (.fcvtLS (fieldOf w 7 5) (fieldOf w 12 5) (fieldOf w 24 4)) else none
  | 9 => if fld w 17 7 == 0 then some (.fcvtLuS (fieldOf w 7 5) (fieldOf w 12 5) (fieldOf w 24 4)) else none
  | _ => none

/-- MAJ 0x14 (R62). -/
def decodeMaj14 (w : Nat) : Option Instr := some (.beq (fieldOf w 7 5) (fieldOf w 12 5) (fieldOf w 17 15))

/-- MAJ 0x15 (R62). -/
def decodeMaj15 (w : Nat) : Option Instr := some (.bne (fieldOf w 7 5) (fieldOf w 12 5) (fieldOf w 17 15))

/-- MAJ 0x16 (R62). -/
def decodeMaj16 (w : Nat) : Option Instr := some (.blt (fieldOf w 7 5) (fieldOf w 12 5) (fieldOf w 17 15))

/-- MAJ 0x17 (R62). -/
def decodeMaj17 (w : Nat) : Option Instr := some (.bge (fieldOf w 7 5) (fieldOf w 12 5) (fieldOf w 17 15))

/-- MAJ 0x18 (R62). -/
def decodeMaj18 (w : Nat) : Option Instr := some (.bltu (fieldOf w 7 5) (fieldOf w 12 5) (fieldOf w 17 15))

/-- MAJ 0x19 (R62). -/
def decodeMaj19 (w : Nat) : Option Instr := some (.bgeu (fieldOf w 7 5) (fieldOf w 12 5) (fieldOf w 17 15))

/-- MAJ 0x1A (R62). -/
def decodeMaj1A (w : Nat) : Option Instr := some (.jal (fieldOf w 7 5) (fieldOf w 12 20))

/-- MAJ 0x1B (R62). -/
def decodeMaj1B (w : Nat) : Option Instr :=
  match fld w 30 2 with
  | 0 => some (.jalr (fieldOf w 7 5) (fieldOf w 12 5) (fieldOf w 17 13))
  | 1 => if fld w 7 5 == 0 then some (.loop (fieldOf w 12 5) (fieldOf w 17 13)) else none
  | 2 => if fld w 7 10 == 0 then some (.idle (fieldOf w 17 13)) else none
  | 3 => if fld w 7 10 == 0 && fld w 29 1 == 0 then some (.brk (fieldOf w 17 12)) else if fld w 7 10 == 0 && fld w 29 1 == 1 then some (.ecall (fieldOf w 17 12)) else none
  | _ => none

/-- MAJ 0x1C (R62). -/
def decodeMaj1C (w : Nat) : Option Instr :=
  match fld w 17 2 with
  | 0 => some (.ldB (fieldOf w 7 5) (fieldOf w 12 5) (fieldOf w 19 13))
  | 1 => some (.ldH (fieldOf w 7 5) (fieldOf w 12 5) (fieldOf w 19 13))
  | 2 => some (.ldW (fieldOf w 7 5) (fieldOf w 12 5) (fieldOf w 19 13))
  | 3 => some (.ldD (fieldOf w 7 5) (fieldOf w 12 5) (fieldOf w 19 13))
  | _ => none

/-- MAJ 0x1D (R62). -/
def decodeMaj1D (w : Nat) : Option Instr :=
  match fld w 17 2 with
  | 0 => some (.ldBu (fieldOf w 7 5) (fieldOf w 12 5) (fieldOf w 19 13))
  | 1 => some (.ldHu (fieldOf w 7 5) (fieldOf w 12 5) (fieldOf w 19 13))
  | 2 => some (.ldWu (fieldOf w 7 5) (fieldOf w 12 5) (fieldOf w 19 13))
  | _ => none

/-- MAJ 0x1E (R62). -/
def decodeMaj1E (w : Nat) : Option Instr :=
  match fld w 17 2 with
  | 0 => some (.stB (fieldOf w 7 5) (fieldOf w 12 5) (fieldOf w 19 13))
  | 1 => some (.stH (fieldOf w 7 5) (fieldOf w 12 5) (fieldOf w 19 13))
  | 2 => some (.stW (fieldOf w 7 5) (fieldOf w 12 5) (fieldOf w 19 13))
  | 3 => some (.stD (fieldOf w 7 5) (fieldOf w 12 5) (fieldOf w 19 13))
  | _ => none

/-- MAJ 0x1F (R62). -/
def decodeMaj1F (w : Nat) : Option Instr := some (.ldv (fieldOf w 7 5) (fieldOf w 12 5) (fieldOf w 19 13) (fieldOf w 17 2))

/-- MAJ 0x20 (R62). -/
def decodeMaj20 (w : Nat) : Option Instr := some (.stv (fieldOf w 7 5) (fieldOf w 12 5) (fieldOf w 19 13) (fieldOf w 17 2))

/-- MAJ 0x21 (R62). -/
def decodeMaj21 (w : Nat) : Option Instr :=
  match fld w 24 8 with
  | 0 => if fld w 22 2 == 0 then some (.ldm (fieldOf w 7 5) (fieldOf w 12 5) (fieldOf w 17 5)) else none
  | 1 => if fld w 22 2 == 0 then some (.stm (fieldOf w 7 5) (fieldOf w 12 5) (fieldOf w 17 5)) else none
  | 2 => if fld w 10 2 == 0 && fld w 22 2 == 0 then some (.ldt (fieldOf w 7 3) (fieldOf w 12 5) (fieldOf w 17 5)) else none
  | 3 => if fld w 10 2 == 0 && fld w 22 2 == 0 then some (.stt (fieldOf w 7 3) (fieldOf w 12 5) (fieldOf w 17 5)) else none
  | _ => none

/-- MAJ 0x22 (R62). -/
def decodeMaj22 (w : Nat) : Option Instr :=
  match fld w 24 8 with
  | 0 => if fld w 17 7 == 0 then some (.look (fieldOf w 7 5) (fieldOf w 12 5)) else none
  | 1 => if fld w 7 5 == 0 && fld w 22 2 == 0 then some (.lset (fieldOf w 12 5) (fieldOf w 17 5)) else none
  | 2 => if fld w 7 17 == 0 then some (.ifence) else none
  | _ => none

/-- MAJ 0x23 (R62). -/
def decodeMaj23 (w : Nat) : Option Instr :=
  match fld w 24 8 with
  | 0 => if fld w 10 2 == 3 && fld w 22 2 == 0 then some (.sbindG (fieldOf w 7 3) (fieldOf w 12 5) (fieldOf w 17 5)) else none
  | 1 => if fld w 9 3 == 3 && fld w 22 2 == 0 then some (.sbindV (fieldOf w 7 2) (fieldOf w 12 5) (fieldOf w 17 5)) else none
  | 2 => if fld w 10 14 == 3 then some (.sfreeG (fieldOf w 7 3)) else none
  | 3 => if fld w 9 15 == 3 then some (.sfreeV (fieldOf w 7 2)) else none
  | _ => none

/-- MAJ 0x24 (R62). -/
def decodeMaj24 (w : Nat) : Option Instr :=
  match fld w 27 4 with
  | 0 => if fld w 22 5 == 0 then some (.amoAdd (fieldOf w 7 5) (fieldOf w 12 5) (fieldOf w 17 5) (fieldOf w 31 1)) else none
  | 1 => if fld w 22 5 == 0 then some (.amoAnd (fieldOf w 7 5) (fieldOf w 12 5) (fieldOf w 17 5) (fieldOf w 31 1)) else none
  | 2 => if fld w 22 5 == 0 then some (.amoOr (fieldOf w 7 5) (fieldOf w 12 5) (fieldOf w 17 5) (fieldOf w 31 1)) else none
  | 3 => if fld w 22 5 == 0 then some (.amoXor (fieldOf w 7 5) (fieldOf w 12 5) (fieldOf w 17 5) (fieldOf w 31 1)) else none
  | 4 => if fld w 22 5 == 0 then some (.amoMin (fieldOf w 7 5) (fieldOf w 12 5) (fieldOf w 17 5) (fieldOf w 31 1)) else none
  | 5 => if fld w 22 5 == 0 then some (.amoMax (fieldOf w 7 5) (fieldOf w 12 5) (fieldOf w 17 5) (fieldOf w 31 1)) else none
  | 6 => if fld w 22 5 == 0 then some (.amoMinu (fieldOf w 7 5) (fieldOf w 12 5) (fieldOf w 17 5) (fieldOf w 31 1)) else none
  | 7 => if fld w 22 5 == 0 then some (.amoMaxu (fieldOf w 7 5) (fieldOf w 12 5) (fieldOf w 17 5) (fieldOf w 31 1)) else none
  | 8 => if fld w 22 5 == 0 then some (.amoSwap (fieldOf w 7 5) (fieldOf w 12 5) (fieldOf w 17 5) (fieldOf w 31 1)) else none
  | _ => none

/-- MAJ 0x25 (R62). -/
def decodeMaj25 (w : Nat) : Option Instr :=
  match fld w 27 4 with
  | 0 => some (.amoAddAcq (fieldOf w 7 5) (fieldOf w 12 5) (fieldOf w 17 5) (fieldOf w 22 5) (fieldOf w 31 1))
  | 1 => some (.amoAndAcq (fieldOf w 7 5) (fieldOf w 12 5) (fieldOf w 17 5) (fieldOf w 22 5) (fieldOf w 31 1))
  | 2 => some (.amoOrAcq (fieldOf w 7 5) (fieldOf w 12 5) (fieldOf w 17 5) (fieldOf w 22 5) (fieldOf w 31 1))
  | 3 => some (.amoXorAcq (fieldOf w 7 5) (fieldOf w 12 5) (fieldOf w 17 5) (fieldOf w 22 5) (fieldOf w 31 1))
  | 4 => some (.amoMinAcq (fieldOf w 7 5) (fieldOf w 12 5) (fieldOf w 17 5) (fieldOf w 22 5) (fieldOf w 31 1))
  | 5 => some (.amoMaxAcq (fieldOf w 7 5) (fieldOf w 12 5) (fieldOf w 17 5) (fieldOf w 22 5) (fieldOf w 31 1))
  | 6 => some (.amoMinuAcq (fieldOf w 7 5) (fieldOf w 12 5) (fieldOf w 17 5) (fieldOf w 22 5) (fieldOf w 31 1))
  | 7 => some (.amoMaxuAcq (fieldOf w 7 5) (fieldOf w 12 5) (fieldOf w 17 5) (fieldOf w 22 5) (fieldOf w 31 1))
  | 8 => some (.amoSwapAcq (fieldOf w 7 5) (fieldOf w 12 5) (fieldOf w 17 5) (fieldOf w 22 5) (fieldOf w 31 1))
  | _ => none

/-- MAJ 0x26 (R62). -/
def decodeMaj26 (w : Nat) : Option Instr :=
  match fld w 27 4 with
  | 0 => some (.amoAddRel (fieldOf w 7 5) (fieldOf w 12 5) (fieldOf w 17 5) (fieldOf w 22 5) (fieldOf w 31 1))
  | 1 => some (.amoAndRel (fieldOf w 7 5) (fieldOf w 12 5) (fieldOf w 17 5) (fieldOf w 22 5) (fieldOf w 31 1))
  | 2 => some (.amoOrRel (fieldOf w 7 5) (fieldOf w 12 5) (fieldOf w 17 5) (fieldOf w 22 5) (fieldOf w 31 1))
  | 3 => some (.amoXorRel (fieldOf w 7 5) (fieldOf w 12 5) (fieldOf w 17 5) (fieldOf w 22 5) (fieldOf w 31 1))
  | 4 => some (.amoMinRel (fieldOf w 7 5) (fieldOf w 12 5) (fieldOf w 17 5) (fieldOf w 22 5) (fieldOf w 31 1))
  | 5 => some (.amoMaxRel (fieldOf w 7 5) (fieldOf w 12 5) (fieldOf w 17 5) (fieldOf w 22 5) (fieldOf w 31 1))
  | 6 => some (.amoMinuRel (fieldOf w 7 5) (fieldOf w 12 5) (fieldOf w 17 5) (fieldOf w 22 5) (fieldOf w 31 1))
  | 7 => some (.amoMaxuRel (fieldOf w 7 5) (fieldOf w 12 5) (fieldOf w 17 5) (fieldOf w 22 5) (fieldOf w 31 1))
  | 8 => some (.amoSwapRel (fieldOf w 7 5) (fieldOf w 12 5) (fieldOf w 17 5) (fieldOf w 22 5) (fieldOf w 31 1))
  | _ => none

/-- MAJ 0x27 (R62). -/
def decodeMaj27 (w : Nat) : Option Instr :=
  match fld w 27 5 with
  | 0 => some (.casW (fieldOf w 7 5) (fieldOf w 12 5) (fieldOf w 17 5) (fieldOf w 22 5))
  | 1 => some (.casD (fieldOf w 7 5) (fieldOf w 12 5) (fieldOf w 17 5) (fieldOf w 22 5))
  | 2 => if fld w 7 5 == 0 then some (.post (fieldOf w 12 5) (fieldOf w 17 5) (fieldOf w 22 5)) else none
  | 3 => if fld w 7 5 == 0 then some (.waitc (fieldOf w 12 5) (fieldOf w 17 5) (fieldOf w 22 5)) else none
  | 4 => if fld w 17 5 == 0 then some (.waitb (fieldOf w 7 5) (fieldOf w 12 5) (fieldOf w 22 5)) else none
  | 5 => if fld w 7 15 == 0 then some (.fence (fieldOf w 22 5)) else none
  | 6 => if fld w 7 5 == 0 && fld w 17 10 == 0 then some (.suitBar (fieldOf w 12 5)) else none
  | 7 => if fld w 7 20 == 0 then some (.suitDis) else none
  | _ => none

/-- MAJ 0x28 (R62). -/
noncomputable def decodeMaj28 (w : Nat) : Option Instr :=
  match fld w 28 4 with
  | 0 => if fld w 11 1 == 0 && fld w 16 1 == 0 && fld w 21 3 == 0 then some (.vadd (fieldOf w 7 4) (fieldOf w 12 4) (fieldOf w 17 4) (fieldOf w 24 4)) else none
  | 1 => if fld w 11 1 == 0 && fld w 16 1 == 0 && fld w 21 3 == 0 then some (.vsub (fieldOf w 7 4) (fieldOf w 12 4) (fieldOf w 17 4) (fieldOf w 24 4)) else none
  | 2 => if fld w 11 1 == 0 && fld w 16 1 == 0 && fld w 21 3 == 0 then some (.vmul (fieldOf w 7 4) (fieldOf w 12 4) (fieldOf w 17 4) (fieldOf w 24 4)) else none
  | 3 => if fld w 11 1 == 0 && fld w 16 1 == 0 && fld w 21 3 == 0 then some (.vfma (fieldOf w 7 4) (fieldOf w 12 4) (fieldOf w 17 4) (fieldOf w 24 4)) else none
  | 4 => if fld w 11 1 == 0 && fld w 16 1 == 0 && fld w 21 3 == 0 then some (.vfms (fieldOf w 7 4) (fieldOf w 12 4) (fieldOf w 17 4) (fieldOf w 24 4)) else none
  | 5 => if fld w 11 1 == 0 && fld w 16 1 == 0 && fld w 21 3 == 0 then some (.vmin (fieldOf w 7 4) (fieldOf w 12 4) (fieldOf w 17 4) (fieldOf w 24 4)) else none
  | 6 => if fld w 11 1 == 0 && fld w 16 1 == 0 && fld w 21 3 == 0 then some (.vmax (fieldOf w 7 4) (fieldOf w 12 4) (fieldOf w 17 4) (fieldOf w 24 4)) else none
  | 7 => if fld w 11 1 == 0 && fld w 16 8 == 0 then some (.vabs (fieldOf w 7 4) (fieldOf w 12 4) (fieldOf w 24 4)) else none
  | 8 => if fld w 11 1 == 0 && fld w 16 8 == 0 then some (.vneg (fieldOf w 7 4) (fieldOf w 12 4) (fieldOf w 24 4)) else none
  | 9 => if fld w 11 1 == 0 && fld w 16 8 == 0 then some (.vrelu (fieldOf w 7 4) (fieldOf w 12 4) (fieldOf w 24 4)) else none
  | 10 => if fld w 11 1 == 0 && fld w 16 1 == 0 && fld w 21 3 == 0 then some (.vavg (fieldOf w 7 4) (fieldOf w 12 4) (fieldOf w 17 4) (fieldOf w 24 4)) else none
  | 11 => if fld w 11 1 == 0 && fld w 16 1 == 0 && fld w 21 1 == 0 then some (.vmacc (fieldOf w 7 4) (fieldOf w 12 4) (fieldOf w 17 4) (fieldOf w 22 2) (fieldOf w 24 4)) else none
  | _ => none

/-- MAJ 0x29 (R62). -/
noncomputable def decodeMaj29 (w : Nat) : Option Instr :=
  match fld w 28 4 with
  | 0 => if fld w 11 1 == 0 && fld w 16 1 == 0 && fld w 21 3 == 0 then some (.vand (fieldOf w 7 4) (fieldOf w 12 4) (fieldOf w 17 4) (fieldOf w 24 4)) else none
  | 1 => if fld w 11 1 == 0 && fld w 16 1 == 0 && fld w 21 3 == 0 then some (.vor (fieldOf w 7 4) (fieldOf w 12 4) (fieldOf w 17 4) (fieldOf w 24 4)) else none
  | 2 => if fld w 11 1 == 0 && fld w 16 1 == 0 && fld w 21 3 == 0 then some (.vxor (fieldOf w 7 4) (fieldOf w 12 4) (fieldOf w 17 4) (fieldOf w 24 4)) else none
  | 3 => if fld w 11 1 == 0 && fld w 16 1 == 0 && fld w 21 3 == 0 then some (.vandn (fieldOf w 7 4) (fieldOf w 12 4) (fieldOf w 17 4) (fieldOf w 24 4)) else none
  | 4 => if fld w 11 1 == 0 && fld w 16 1 == 0 && fld w 21 3 == 0 then some (.vshl (fieldOf w 7 4) (fieldOf w 12 4) (fieldOf w 17 4) (fieldOf w 24 4)) else none
  | 5 => if fld w 11 1 == 0 && fld w 16 1 == 0 && fld w 21 3 == 0 then some (.vshr (fieldOf w 7 4) (fieldOf w 12 4) (fieldOf w 17 4) (fieldOf w 24 4)) else none
  | 6 => if fld w 11 1 == 0 && fld w 16 1 == 0 && fld w 21 3 == 0 then some (.vsra (fieldOf w 7 4) (fieldOf w 12 4) (fieldOf w 17 4) (fieldOf w 24 4)) else none
  | 7 => if fld w 11 1 == 0 && fld w 16 8 == 0 then some (.vpopc (fieldOf w 7 4) (fieldOf w 12 4) (fieldOf w 24 4)) else none
  | 8 => if fld w 11 1 == 0 && fld w 16 8 == 0 then some (.vclz (fieldOf w 7 4) (fieldOf w 12 4) (fieldOf w 24 4)) else none
  | 9 => if fld w 11 1 == 0 && fld w 16 1 == 0 && fld w 21 1 == 0 && fld w 23 1 == 0 then some (.vclmul (fieldOf w 7 4) (fieldOf w 12 4) (fieldOf w 17 4) (fieldOf w 22 1) (fieldOf w 24 4)) else none
  | 10 => if fld w 11 1 == 0 && fld w 16 1 == 0 && fld w 21 3 == 0 then some (.vbext (fieldOf w 7 4) (fieldOf w 12 4) (fieldOf w 17 4) (fieldOf w 24 4)) else none
  | 11 => if fld w 11 1 == 0 && fld w 16 1 == 0 && fld w 21 3 == 0 then some (.vfshl (fieldOf w 7 4) (fieldOf w 12 4) (fieldOf w 17 4) (fieldOf w 24 4)) else none
  | _ => none

/-- MAJ 0x2A (R62). -/
noncomputable def decodeMaj2A (w : Nat) : Option Instr :=
  match fld w 28 4 with
  | 0 => if fld w 10 2 == 0 && fld w 16 1 == 0 && fld w 21 3 == 0 then some (.vcmpEq (fieldOf w 7 3) (fieldOf w 12 4) (fieldOf w 17 4) (fieldOf w 24 4)) else none
  | 1 => if fld w 10 2 == 0 && fld w 16 1 == 0 && fld w 21 3 == 0 then some (.vcmpNe (fieldOf w 7 3) (fieldOf w 12 4) (fieldOf w 17 4) (fieldOf w 24 4)) else none
  | 2 => if fld w 10 2 == 0 && fld w 16 1 == 0 && fld w 21 3 == 0 then some (.vcmpLt (fieldOf w 7 3) (fieldOf w 12 4) (fieldOf w 17 4) (fieldOf w 24 4)) else none
  | 3 => if fld w 10 2 == 0 && fld w 16 1 == 0 && fld w 21 3 == 0 then some (.vcmpLe (fieldOf w 7 3) (fieldOf w 12 4) (fieldOf w 17 4) (fieldOf w 24 4)) else none
  | 4 => if fld w 10 2 == 0 && fld w 16 1 == 0 && fld w 21 3 == 0 then some (.vcmpGt (fieldOf w 7 3) (fieldOf w 12 4) (fieldOf w 17 4) (fieldOf w 24 4)) else none
  | 5 => if fld w 10 2 == 0 && fld w 16 1 == 0 && fld w 21 3 == 0 then some (.vcmpGe (fieldOf w 7 3) (fieldOf w 12 4) (fieldOf w 17 4) (fieldOf w 24 4)) else none
  | 6 => if fld w 10 2 == 0 && fld w 16 1 == 0 && fld w 21 3 == 0 then some (.vcmpUn (fieldOf w 7 3) (fieldOf w 12 4) (fieldOf w 17 4) (fieldOf w 24 4)) else none
  | _ => none

/-- MAJ 0x2B (R62). -/
noncomputable def decodeMaj2B (w : Nat) : Option Instr :=
  match fld w 28 4 with
  | 0 => if fld w 11 1 == 0 && fld w 16 1 == 0 && fld w 20 4 == 0 then some (.vsel (fieldOf w 7 4) (fieldOf w 12 4) (fieldOf w 17 3) (fieldOf w 24 4)) else none
  | 1 => if fld w 11 1 == 0 && fld w 16 8 == 0 then some (.vmov (fieldOf w 7 4) (fieldOf w 12 4) (fieldOf w 24 4)) else none
  | 2 => if fld w 11 1 == 0 && fld w 17 7 == 0 then some (.vbcast (fieldOf w 7 4) (fieldOf w 12 5) (fieldOf w 24 4)) else none
  | 3 => if fld w 11 1 == 0 && fld w 22 2 == 0 then some (.vins (fieldOf w 7 4) (fieldOf w 12 5) (fieldOf w 17 5) (fieldOf w 24 4)) else none
  | 4 => if fld w 16 1 == 0 && fld w 22 2 == 0 then some (.vext (fieldOf w 7 5) (fieldOf w 12 4) (fieldOf w 17 5) (fieldOf w 24 4)) else none
  | _ => none

/-- MAJ 0x2C (R62). -/
def decodeMaj2C (w : Nat) : Option Instr := if fld w 11 1 == 0 && fld w 16 6 == 0 then some (.vcvt (fieldOf w 7 4) (fieldOf w 12 4) (fieldOf w 22 2) (fieldOf w 24 4) (fieldOf w 28 4)) else none

/-- MAJ 0x2D (R62). -/
noncomputable def decodeMaj2D (w : Nat) : Option Instr :=
  match fld w 28 4 with
  | 0 => if fld w 16 8 == 0 then some (.vredsum (fieldOf w 7 5) (fieldOf w 12 4) (fieldOf w 24 4)) else none
  | 1 => if fld w 16 8 == 0 then some (.vredmax (fieldOf w 7 5) (fieldOf w 12 4) (fieldOf w 24 4)) else none
  | 2 => if fld w 16 8 == 0 then some (.vredmin (fieldOf w 7 5) (fieldOf w 12 4) (fieldOf w 24 4)) else none
  | 3 => if fld w 11 1 == 0 && fld w 16 8 == 0 then some (.vscan (fieldOf w 7 4) (fieldOf w 12 4) (fieldOf w 24 4)) else none
  | _ => none

/-- MAJ 0x2E (R62). DESIGN CHOICE (log 76): a polymorphic VLUT.16 with W not 00 is illegal by R182, where R203 would have it raise
TAG. -/
noncomputable def decodeMaj2E (w : Nat) : Option Instr :=
  match fld w 28 4 with
  | 0 => if fld w 11 1 == 0 && fld w 16 1 == 0 && fld w 21 3 == 0 then some (.vperm (fieldOf w 7 4) (fieldOf w 12 4) (fieldOf w 17 4) (fieldOf w 24 4)) else none
  | 1 => if fld w 11 1 == 0 && fld w 16 1 == 0 && fld w 20 4 == 0 then some (.vcompress (fieldOf w 7 4) (fieldOf w 12 4) (fieldOf w 17 3) (fieldOf w 24 4)) else none
  | 2 => if fld w 11 1 == 0 && fld w 16 1 == 0 && fld w 20 4 == 0 then some (.vexpand (fieldOf w 7 4) (fieldOf w 12 4) (fieldOf w 17 3) (fieldOf w 24 4)) else none
  | 3 => if fld w 11 1 == 0 && fld w 16 1 == 0 && fld w 22 2 == 0 then some (.vgather (fieldOf w 7 4) (fieldOf w 12 4) (fieldOf w 17 5) (fieldOf w 24 4)) else none
  | 4 => if fld w 11 1 == 0 && fld w 16 1 == 0 && fld w 22 2 == 0 then some (.vscatter (fieldOf w 7 4) (fieldOf w 12 4) (fieldOf w 17 5) (fieldOf w 24 4)) else none
  | 5 => if fld w 11 1 == 0 && fld w 16 1 == 0 && fld w 21 3 == 0 then some (.vlut16 (fieldOf w 7 4) (fieldOf w 12 4) (fieldOf w 17 4) (fieldOf w 24 4)) else none
  | 6 => if fld w 11 1 == 0 && fld w 16 1 == 0 && fld w 21 1 == 0 then some (.vlut256 (fieldOf w 7 4) (fieldOf w 12 4) (fieldOf w 17 4) (fieldOf w 22 2) (fieldOf w 24 4)) else none
  | _ => none

/-- MAJ 0x2F (R62). -/
noncomputable def decodeMaj2F (w : Nat) : Option Instr :=
  match fld w 28 4 with
  | 0 => if fld w 11 1 == 0 && fld w 16 8 == 0 then some (.vexp2 (fieldOf w 7 4) (fieldOf w 12 4) (fieldOf w 24 4)) else none
  | 1 => if fld w 11 1 == 0 && fld w 16 8 == 0 then some (.vlog2 (fieldOf w 7 4) (fieldOf w 12 4) (fieldOf w 24 4)) else none
  | 2 => if fld w 11 1 == 0 && fld w 16 8 == 0 then some (.vrcp (fieldOf w 7 4) (fieldOf w 12 4) (fieldOf w 24 4)) else none
  | 3 => if fld w 11 1 == 0 && fld w 16 8 == 0 then some (.vrsqrt (fieldOf w 7 4) (fieldOf w 12 4) (fieldOf w 24 4)) else none
  | 4 => if fld w 11 1 == 0 && fld w 16 1 == 0 && fld w 18 6 == 16 then some (.vsortkv (fieldOf w 7 4) (fieldOf w 12 4) (fieldOf w 17 1) (fieldOf w 24 4)) else none
  | _ => none

/-- MAJ 0x30 (R62). -/
noncomputable def decodeMaj30 (w : Nat) : Option Instr :=
  match fld w 24 8 with
  | 0 => if fld w 10 2 == 0 && fld w 15 2 == 0 && fld w 20 4 == 0 then some (.mand (fieldOf w 7 3) (fieldOf w 12 3) (fieldOf w 17 3)) else none
  | 1 => if fld w 10 2 == 0 && fld w 15 2 == 0 && fld w 20 4 == 0 then some (.mor (fieldOf w 7 3) (fieldOf w 12 3) (fieldOf w 17 3)) else none
  | 2 => if fld w 10 2 == 0 && fld w 15 2 == 0 && fld w 20 4 == 0 then some (.mxor (fieldOf w 7 3) (fieldOf w 12 3) (fieldOf w 17 3)) else none
  | 3 => if fld w 10 2 == 0 && fld w 15 9 == 0 then some (.mnot (fieldOf w 7 3) (fieldOf w 12 3)) else none
  | 4 => if fld w 15 2 == 0 && fld w 19 5 == 0 then some (.mpop (fieldOf w 7 5) (fieldOf w 12 3) (fieldOf w 17 2)) else none
  | 5 => if fld w 15 2 == 0 && fld w 19 5 == 0 then some (.mfirst (fieldOf w 7 5) (fieldOf w 12 3) (fieldOf w 17 2)) else none
  | _ => none

/-- MAJ 0x34 (R62). -/
def decodeMaj34 (w : Nat) : Option Instr :=
  match fld w 28 4 with
  | 0 => some (.tmul (fieldOf w 7 3) (fieldOf w 10 5) (fieldOf w 15 5) (fieldOf w 20 5) (fieldOf w 25 3))
  | 1 => some (.tmuls (fieldOf w 7 3) (fieldOf w 10 5) (fieldOf w 15 5) (fieldOf w 20 5) (fieldOf w 25 3))
  | 2 => some (.tmulx (fieldOf w 7 3) (fieldOf w 10 5) (fieldOf w 15 5) (fieldOf w 20 5) (fieldOf w 25 3))
  | 3 => some (.tpart (fieldOf w 7 3) (fieldOf w 10 5) (fieldOf w 15 5) (fieldOf w 20 5) (fieldOf w 25 3))
  | _ => none

/-- MAJ 0x35 (R62). -/
def decodeMaj35 (w : Nat) : Option Instr :=
  match fld w 28 4 with
  | 0 => if fld w 10 18 == 0 then some (.tzero (fieldOf w 7 3)) else none
  | 1 => if fld w 14 14 == 1 then some (.tld (fieldOf w 7 3) (fieldOf w 10 4)) else none
  | 2 => if fld w 14 14 == 1 then some (.tst (fieldOf w 7 3) (fieldOf w 10 4)) else none
  | 3 => if fld w 9 1 == 0 && fld w 15 13 == 0 then some (.tcode (fieldOf w 10 5) (fieldOf w 7 2)) else none
  | 4 => if fld w 7 21 == 0 then some (.tfence) else none
  | _ => none

/-- MAJ 0x36 (R62). -/
def decodeMaj36 (w : Nat) : Option Instr := if fld w 11 1 == 0 && fld w 15 2 == 0 && fld w 22 10 == 0 then some (.trow (fieldOf w 7 4) (fieldOf w 12 3) (fieldOf w 17 5)) else none

/-- MAJ 0x38 (R62). -/
def decodeMaj38 (w : Nat) : Option Instr :=
  match fld w 24 8 with
  | 0 => if fld w 22 2 == 0 then some (.lfork (fieldOf w 7 5) (fieldOf w 12 5) (fieldOf w 17 5)) else none
  | 1 => if fld w 22 2 == 0 then some (.lforkr (fieldOf w 7 5) (fieldOf w 12 5) (fieldOf w 17 5)) else none
  | 2 => if fld w 22 2 == 0 then some (.lput (fieldOf w 7 5) (fieldOf w 12 5) (fieldOf w 17 5)) else none
  | 3 => if fld w 7 5 == 0 && fld w 17 7 == 0 then some (.lseal (fieldOf w 12 5)) else none
  | 4 => if fld w 7 5 == 0 && fld w 17 7 == 0 then some (.ldrop (fieldOf w 12 5)) else none
  | 5 => if fld w 7 3 == 0 && fld w 17 7 == 96 then some (.linfo (fieldOf w 10 2) (fieldOf w 12 5)) else none
  | _ => none

/-- MAJ 0x39 (R62). -/
def decodeMaj39 (w : Nat) : Option Instr :=
  match fld w 27 5 with
  | 0 => if fld w 17 10 == 0 then some (.lflat (fieldOf w 7 5) (fieldOf w 12 5)) else none
  | 1 => if fld w 22 5 == 0 then some (.lrebase (fieldOf w 7 5) (fieldOf w 12 5) (fieldOf w 17 5)) else none
  | 2 => if fld w 17 10 == 0 then some (.lprod (fieldOf w 7 5) (fieldOf w 12 5)) else none
  | _ => none

/-- MAJ 0x3A (R62). -/
def decodeMaj3A (w : Nat) : Option Instr :=
  match fld w 27 5 with
  | 0 => some (.cp (fieldOf w 7 5) (fieldOf w 12 5) (fieldOf w 17 5) (fieldOf w 22 5))
  | 1 => some (.cpL (fieldOf w 7 5) (fieldOf w 12 5) (fieldOf w 17 5) (fieldOf w 22 5))
  | 2 => some (.cpS (fieldOf w 7 5) (fieldOf w 12 5) (fieldOf w 17 5) (fieldOf w 22 5))
  | 3 => some (.cpG (fieldOf w 7 5) (fieldOf w 12 5) (fieldOf w 17 5) (fieldOf w 22 5))
  | 4 => some (.cpR (fieldOf w 7 5) (fieldOf w 12 5) (fieldOf w 17 5) (fieldOf w 22 5))
  | 5 => some (.cpX (fieldOf w 7 5) (fieldOf w 12 5) (fieldOf w 17 5) (fieldOf w 22 5))
  | 6 => some (.cpM (fieldOf w 7 5) (fieldOf w 12 5) (fieldOf w 17 5) (fieldOf w 22 5))
  | _ => none

/-- MAJ 0x3B (R62). -/
def decodeMaj3B (w : Nat) : Option Instr :=
  match fld w 24 8 with
  | 0 => if fld w 12 12 == 0 then some (.seal (fieldOf w 7 5)) else none
  | 1 => if fld w 7 5 == 0 && fld w 17 7 == 0 then some (.waitn (fieldOf w 12 5)) else none
  | 2 => if fld w 7 5 == 0 && fld w 17 7 == 0 then some (.pub (fieldOf w 12 5)) else none
  | 3 => if fld w 7 5 == 0 && fld w 22 2 == 0 then some (.armb (fieldOf w 12 5) (fieldOf w 17 5)) else none
  | _ => none

/-- MAJ 0x3C (R62). -/
def decodeMaj3C (w : Nat) : Option Instr :=
  match fld w 27 5 with
  | 0 => some (.nred (fieldOf w 7 5) (fieldOf w 12 5) (fieldOf w 17 5) (fieldOf w 22 5))
  | 1 => some (.ntopk (fieldOf w 7 5) (fieldOf w 12 5) (fieldOf w 17 5) (fieldOf w 22 5))
  | 2 => some (.ncount (fieldOf w 7 5) (fieldOf w 12 5) (fieldOf w 17 5) (fieldOf w 22 5))
  | 3 => some (.nbcast (fieldOf w 7 5) (fieldOf w 12 5) (fieldOf w 17 5) (fieldOf w 22 5))
  | _ => none

/-- MAJ 0x3D (R62). -/
def decodeMaj3D (w : Nat) : Option Instr :=
  match fld w 24 8 with
  | 0 => if fld w 17 7 == 0 then some (.rcreate (fieldOf w 7 5) (fieldOf w 12 5)) else none
  | 1 => if fld w 17 7 == 0 then some (.rlaunch (fieldOf w 7 5) (fieldOf w 12 5)) else none
  | 2 => if fld w 22 2 == 0 then some (.rrevoke (fieldOf w 7 5) (fieldOf w 12 5) (fieldOf w 17 5)) else none
  | 3 => if fld w 7 17 == 0 then some (.ryield) else none
  | 4 => if fld w 7 5 == 0 && fld w 17 7 == 0 then some (.rinval (fieldOf w 12 5)) else none
  | 5 => if fld w 7 17 == 0 then some (.gbar) else none
  | 6 => if fld w 7 5 == 0 && fld w 17 7 == 0 then some (.tbegin (fieldOf w 12 5)) else none
  | 7 => if fld w 7 17 == 0 then some (.tend) else none
  | 8 => if fld w 7 17 == 0 then some (.eret) else if fld w 7 5 == 0 && fld w 17 7 == 0 then some (.eretResume (fieldOf w 12 5)) else none
  | 9 => if fld w 7 17 == 0 then some (.halt) else none
  | _ => none

/-- MAJ 0x3E (R62). -/
def decodeMaj3E (w : Nat) : Option Instr :=
  match fld w 12 5 with
  | 0 => some (.crd (fieldOf w 7 5) (fieldOf w 17 15))
  | 1 => some (.cwr (fieldOf w 7 5) (fieldOf w 17 15))
  | 2 => if fld w 17 15 == 0 then some (.wswp (fieldOf w 7 5)) else none
  | _ => none

/-- A 32-bit word by its MAJ (R50, R62), before the checks of `Instr.wf`. -/
noncomputable def decodeRaw32 (w : Nat) : Option Instr :=
  match fld w 1 6 with
  | 0x00 => decodeMaj00 w
  | 0x01 => decodeMaj01 w
  | 0x02 => decodeMaj02 w
  | 0x03 => decodeMaj03 w
  | 0x04 => decodeMaj04 w
  | 0x05 => decodeMaj05 w
  | 0x06 => decodeMaj06 w
  | 0x07 => decodeMaj07 w
  | 0x08 => decodeMaj08 w
  | 0x09 => decodeMaj09 w
  | 0x0A => decodeMaj0A w
  | 0x0B => decodeMaj0B w
  | 0x10 => decodeMaj10 w
  | 0x11 => decodeMaj11 w
  | 0x12 => decodeMaj12 w
  | 0x14 => decodeMaj14 w
  | 0x15 => decodeMaj15 w
  | 0x16 => decodeMaj16 w
  | 0x17 => decodeMaj17 w
  | 0x18 => decodeMaj18 w
  | 0x19 => decodeMaj19 w
  | 0x1A => decodeMaj1A w
  | 0x1B => decodeMaj1B w
  | 0x1C => decodeMaj1C w
  | 0x1D => decodeMaj1D w
  | 0x1E => decodeMaj1E w
  | 0x1F => decodeMaj1F w
  | 0x20 => decodeMaj20 w
  | 0x21 => decodeMaj21 w
  | 0x22 => decodeMaj22 w
  | 0x23 => decodeMaj23 w
  | 0x24 => decodeMaj24 w
  | 0x25 => decodeMaj25 w
  | 0x26 => decodeMaj26 w
  | 0x27 => decodeMaj27 w
  | 0x28 => decodeMaj28 w
  | 0x29 => decodeMaj29 w
  | 0x2A => decodeMaj2A w
  | 0x2B => decodeMaj2B w
  | 0x2C => decodeMaj2C w
  | 0x2D => decodeMaj2D w
  | 0x2E => decodeMaj2E w
  | 0x2F => decodeMaj2F w
  | 0x30 => decodeMaj30 w
  | 0x34 => decodeMaj34 w
  | 0x35 => decodeMaj35 w
  | 0x36 => decodeMaj36 w
  | 0x38 => decodeMaj38 w
  | 0x39 => decodeMaj39 w
  | 0x3A => decodeMaj3A w
  | 0x3B => decodeMaj3B w
  | 0x3C => decodeMaj3C w
  | 0x3D => decodeMaj3D w
  | 0x3E => decodeMaj3E w
  | _ => none

/-- CLS 0 (R57-R59). -/
noncomputable def decodeCls0 (w : Nat) : Option Instr :=
  match fld w 4 4 with
  | 0 => some (.vmovC (fieldOf w 8 4) (fieldOf w 12 4))
  | 1 => some (.vaddC (fieldOf w 8 4) (fieldOf w 12 4))
  | 2 => some (.vsubC (fieldOf w 8 4) (fieldOf w 12 4))
  | 3 => some (.vmulC (fieldOf w 8 4) (fieldOf w 12 4))
  | 4 => some (.vminC (fieldOf w 8 4) (fieldOf w 12 4))
  | 5 => some (.vmaxC (fieldOf w 8 4) (fieldOf w 12 4))
  | 6 => some (.vandC (fieldOf w 8 4) (fieldOf w 12 4))
  | 7 => some (.vorC (fieldOf w 8 4) (fieldOf w 12 4))
  | 8 => some (.vxorC (fieldOf w 8 4) (fieldOf w 12 4))
  | 9 => some (.vshlC (fieldOf w 8 4) (fieldOf w 12 4))
  | 10 => some (.vshrC (fieldOf w 8 4) (fieldOf w 12 4))
  | 11 => some (.vnegC (fieldOf w 8 4) (fieldOf w 12 4))
  | 12 => some (.vabsC (fieldOf w 8 4) (fieldOf w 12 4))
  | 13 => some (.vreluC (fieldOf w 8 4) (fieldOf w 12 4))
  | 14 => some (.vavgC (fieldOf w 8 4) (fieldOf w 12 4))
  | 15 => some (.vmaccC (fieldOf w 8 4) (fieldOf w 12 4))
  | _ => none

/-- CLS 1 (R57-R59). -/
noncomputable def decodeCls1 (w : Nat) : Option Instr :=
  match fld w 4 4 with
  | 0 => some (.movC (fieldOf w 8 4) (fieldOf w 12 4))
  | 1 => some (.addC (fieldOf w 8 4) (fieldOf w 12 4))
  | 2 => some (.subC (fieldOf w 8 4) (fieldOf w 12 4))
  | 3 => some (.andC (fieldOf w 8 4) (fieldOf w 12 4))
  | 4 => some (.orC (fieldOf w 8 4) (fieldOf w 12 4))
  | 5 => some (.xorC (fieldOf w 8 4) (fieldOf w 12 4))
  | 6 => some (.andnC (fieldOf w 8 4) (fieldOf w 12 4))
  | 7 => some (.sllC (fieldOf w 8 4) (fieldOf w 12 4))
  | 8 => some (.srlC (fieldOf w 8 4) (fieldOf w 12 4))
  | 9 => some (.sraC (fieldOf w 8 4) (fieldOf w 12 4))
  | 10 => some (.minC (fieldOf w 8 4) (fieldOf w 12 4))
  | 11 => some (.maxC (fieldOf w 8 4) (fieldOf w 12 4))
  | 12 => some (.addiC (fieldOf w 8 4) (fieldOf w 12 4))
  | 13 => some (.slliC (fieldOf w 8 4) (fieldOf w 12 4))
  | 14 => some (.srliC (fieldOf w 8 4) (fieldOf w 12 4))
  | 15 => some (.sraiC (fieldOf w 8 4) (fieldOf w 12 4))
  | _ => none

/-- CLS 2 (R57-R59). -/
noncomputable def decodeCls2 (w : Nat) : Option Instr :=
  match fld w 4 4 with
  | 0 => some (.idleC (fieldOf w 8 4) (fieldOf w 12 4))
  | 1 => some (.brkC (fieldOf w 8 4) (fieldOf w 12 4))
  | 8 => some (.bzC (fieldOf w 8 4) (fieldOf w 12 4) (fieldOf w 4 2))
  | 9 => some (.bzC (fieldOf w 8 4) (fieldOf w 12 4) (fieldOf w 4 2))
  | 10 => some (.bzC (fieldOf w 8 4) (fieldOf w 12 4) (fieldOf w 4 2))
  | 11 => some (.bzC (fieldOf w 8 4) (fieldOf w 12 4) (fieldOf w 4 2))
  | 12 => some (.bnzC (fieldOf w 8 4) (fieldOf w 12 4) (fieldOf w 4 2))
  | 13 => some (.bnzC (fieldOf w 8 4) (fieldOf w 12 4) (fieldOf w 4 2))
  | 14 => some (.bnzC (fieldOf w 8 4) (fieldOf w 12 4) (fieldOf w 4 2))
  | 15 => some (.bnzC (fieldOf w 8 4) (fieldOf w 12 4) (fieldOf w 4 2))
  | _ => none

/-- A 16-bit word by its CLS (R56), before the checks of `Instr.wf`. -/
noncomputable def decodeRaw16 (w : Nat) : Option Instr :=
  match fld w 1 3 with
  | 0 => decodeCls0 w
  | 1 => decodeCls1 w
  | 2 => decodeCls2 w
  | _ => none

/-- The instruction that a word is, or none when it is an illegal encoding (R60). -/
noncomputable def decodeWord (w : Nat) : Option Instr :=
  (if w % 2 = 1 then decodeRaw32 w else decodeRaw16 w).filter Instr.wf

/-- Bytes as a little-endian number. -/
def leNat : List Byte → Nat
  | [] => 0
  | b :: bs => b.toNat + 256 * leNat bs

/-- The low n bytes of a number, lowest first. -/
def leBytes : Nat → Nat → List Byte
  | 0, _ => []
  | n + 1, x => BitVec.ofNat 8 x :: leBytes n (x / 256)

/-- Decode the instruction at the head of a list of bytes and return the bytes after it. -/
noncomputable def decode (bs : List Byte) : Except Reject (Instr × List Byte) :=
  match bs with
  | b0 :: b1 :: rest =>
    if b0.toNat % 2 = 1 then
      match rest with
      | b2 :: b3 :: rest' =>
        let w := leNat [b0, b1, b2, b3]
        match decodeWord w with
        | some i => .ok (i, rest')
        | none => .error (.illegal32 (BitVec.ofNat 32 w))
      | _ => .error .truncated
    else
      let w := leNat [b0, b1]
      match decodeWord w with
      | some i => .ok (i, rest)
      | none => .error (.illegal16 (BitVec.ofNat 16 w))
  | _ => .error .truncated

/-- The instruction the decoder reads from an instruction whose bits are w, of nbits bits given, the higher ones zero. -/
noncomputable def decodeTableWord (nbits w : Nat) : Option Instr :=
  match decode (leBytes 4 (w % 2 ^ nbits)) with
  | .ok (i, _) => some i
  | .error _ => none

/-- Length in bytes of an instruction's word; 0 for an event, which has none. -/
def Instr.bytes : Instr → Nat
  | .add _ _ _ => 4
  | .sub _ _ _ => 4
  | .and _ _ _ => 4
  | .or _ _ _ => 4
  | .xor _ _ _ => 4
  | .andn _ _ _ => 4
  | .sll _ _ _ => 4
  | .srl _ _ _ => 4
  | .sra _ _ _ => 4
  | .rol _ _ _ => 4
  | .ror _ _ _ => 4
  | .slt _ _ _ => 4
  | .sltu _ _ _ => 4
  | .min _ _ _ => 4
  | .max _ _ _ => 4
  | .minu _ _ _ => 4
  | .maxu _ _ _ => 4
  | .sel _ _ _ => 4
  | .mul _ _ _ => 4
  | .mulh _ _ _ => 4
  | .mulhu _ _ _ => 4
  | .div _ _ _ => 4
  | .divu _ _ _ => 4
  | .rem _ _ _ => 4
  | .remu _ _ _ => 4
  | .clmul _ _ _ => 4
  | .clmulh _ _ _ => 4
  | .clz _ _ => 4
  | .ctz _ _ => 4
  | .popc _ _ => 4
  | .bswap _ _ => 4
  | .bext _ _ _ => 4
  | .bins _ _ _ => 4
  | .fshl _ _ _ => 4
  | .fshr _ _ _ => 4
  | .addi _ _ _ => 4
  | .andi _ _ _ => 4
  | .ori _ _ _ => 4
  | .xori _ _ _ => 4
  | .slli _ _ _ => 4
  | .srli _ _ _ => 4
  | .srai _ _ _ => 4
  | .slti _ _ _ => 4
  | .lih _ _ _ => 4
  | .faddD _ _ _ => 4
  | .fsubD _ _ _ => 4
  | .fmulD _ _ _ => 4
  | .ffmaD _ _ _ => 4
  | .fdivD _ _ _ => 4
  | .fsqrtD _ _ => 4
  | .fminD _ _ _ => 4
  | .fmaxD _ _ _ => 4
  | .fcmpEqD _ _ _ => 4
  | .fcmpLtD _ _ _ => 4
  | .fcmpLeD _ _ _ => 4
  | .fcmpUnD _ _ _ => 4
  | .fmvNegD _ _ => 4
  | .fmvAbsD _ _ => 4
  | .fmvCpsD _ _ _ => 4
  | .faddS _ _ _ => 4
  | .fsubS _ _ _ => 4
  | .fmulS _ _ _ => 4
  | .ffmaS _ _ _ => 4
  | .fdivS _ _ _ => 4
  | .fsqrtS _ _ => 4
  | .fminS _ _ _ => 4
  | .fmaxS _ _ _ => 4
  | .fcmpEqS _ _ _ => 4
  | .fcmpLtS _ _ _ => 4
  | .fcmpLeS _ _ _ => 4
  | .fcmpUnS _ _ _ => 4
  | .fmvNegS _ _ => 4
  | .fmvAbsS _ _ => 4
  | .fmvCpsS _ _ _ => 4
  | .fcvtDS _ _ _ => 4
  | .fcvtSD _ _ _ => 4
  | .fcvtDL _ _ _ => 4
  | .fcvtDLu _ _ _ => 4
  | .fcvtSL _ _ _ => 4
  | .fcvtSLu _ _ _ => 4
  | .fcvtLD _ _ _ => 4
  | .fcvtLuD _ _ _ => 4
  | .fcvtLS _ _ _ => 4
  | .fcvtLuS _ _ _ => 4
  | .beq _ _ _ => 4
  | .bne _ _ _ => 4
  | .blt _ _ _ => 4
  | .bge _ _ _ => 4
  | .bltu _ _ _ => 4
  | .bgeu _ _ _ => 4
  | .jal _ _ => 4
  | .jalr _ _ _ => 4
  | .loop _ _ => 4
  | .idle _ => 4
  | .brk _ => 4
  | .ecall _ => 4
  | .ldB _ _ _ => 4
  | .ldH _ _ _ => 4
  | .ldW _ _ _ => 4
  | .ldD _ _ _ => 4
  | .ldBu _ _ _ => 4
  | .ldHu _ _ _ => 4
  | .ldWu _ _ _ => 4
  | .stB _ _ _ => 4
  | .stH _ _ _ => 4
  | .stW _ _ _ => 4
  | .stD _ _ _ => 4
  | .ldv _ _ _ _ => 4
  | .stv _ _ _ _ => 4
  | .ldm _ _ _ => 4
  | .stm _ _ _ => 4
  | .ldt _ _ _ => 4
  | .stt _ _ _ => 4
  | .look _ _ => 4
  | .lset _ _ => 4
  | .ifence => 4
  | .sbindG _ _ _ => 4
  | .sbindV _ _ _ => 4
  | .sfreeG _ => 4
  | .sfreeV _ => 4
  | .amoAdd _ _ _ _ => 4
  | .amoAnd _ _ _ _ => 4
  | .amoOr _ _ _ _ => 4
  | .amoXor _ _ _ _ => 4
  | .amoMin _ _ _ _ => 4
  | .amoMax _ _ _ _ => 4
  | .amoMinu _ _ _ _ => 4
  | .amoMaxu _ _ _ _ => 4
  | .amoSwap _ _ _ _ => 4
  | .amoAddAcq _ _ _ _ _ => 4
  | .amoAndAcq _ _ _ _ _ => 4
  | .amoOrAcq _ _ _ _ _ => 4
  | .amoXorAcq _ _ _ _ _ => 4
  | .amoMinAcq _ _ _ _ _ => 4
  | .amoMaxAcq _ _ _ _ _ => 4
  | .amoMinuAcq _ _ _ _ _ => 4
  | .amoMaxuAcq _ _ _ _ _ => 4
  | .amoSwapAcq _ _ _ _ _ => 4
  | .amoAddRel _ _ _ _ _ => 4
  | .amoAndRel _ _ _ _ _ => 4
  | .amoOrRel _ _ _ _ _ => 4
  | .amoXorRel _ _ _ _ _ => 4
  | .amoMinRel _ _ _ _ _ => 4
  | .amoMaxRel _ _ _ _ _ => 4
  | .amoMinuRel _ _ _ _ _ => 4
  | .amoMaxuRel _ _ _ _ _ => 4
  | .amoSwapRel _ _ _ _ _ => 4
  | .casW _ _ _ _ => 4
  | .casD _ _ _ _ => 4
  | .post _ _ _ => 4
  | .waitc _ _ _ => 4
  | .waitb _ _ _ => 4
  | .fence _ => 4
  | .suitBar _ => 4
  | .suitDis => 4
  | .vadd _ _ _ _ => 4
  | .vsub _ _ _ _ => 4
  | .vmul _ _ _ _ => 4
  | .vfma _ _ _ _ => 4
  | .vfms _ _ _ _ => 4
  | .vmin _ _ _ _ => 4
  | .vmax _ _ _ _ => 4
  | .vabs _ _ _ => 4
  | .vneg _ _ _ => 4
  | .vrelu _ _ _ => 4
  | .vavg _ _ _ _ => 4
  | .vmacc _ _ _ _ _ => 4
  | .vand _ _ _ _ => 4
  | .vor _ _ _ _ => 4
  | .vxor _ _ _ _ => 4
  | .vandn _ _ _ _ => 4
  | .vshl _ _ _ _ => 4
  | .vshr _ _ _ _ => 4
  | .vsra _ _ _ _ => 4
  | .vpopc _ _ _ => 4
  | .vclz _ _ _ => 4
  | .vclmul _ _ _ _ _ => 4
  | .vbext _ _ _ _ => 4
  | .vfshl _ _ _ _ => 4
  | .vcmpEq _ _ _ _ => 4
  | .vcmpNe _ _ _ _ => 4
  | .vcmpLt _ _ _ _ => 4
  | .vcmpLe _ _ _ _ => 4
  | .vcmpGt _ _ _ _ => 4
  | .vcmpGe _ _ _ _ => 4
  | .vcmpUn _ _ _ _ => 4
  | .vsel _ _ _ _ => 4
  | .vmov _ _ _ => 4
  | .vbcast _ _ _ => 4
  | .vins _ _ _ _ => 4
  | .vext _ _ _ _ => 4
  | .vcvt _ _ _ _ _ => 4
  | .vredsum _ _ _ => 4
  | .vredmax _ _ _ => 4
  | .vredmin _ _ _ => 4
  | .vscan _ _ _ => 4
  | .vperm _ _ _ _ => 4
  | .vcompress _ _ _ _ => 4
  | .vexpand _ _ _ _ => 4
  | .vgather _ _ _ _ => 4
  | .vscatter _ _ _ _ => 4
  | .vlut16 _ _ _ _ => 4
  | .vlut256 _ _ _ _ _ => 4
  | .vexp2 _ _ _ => 4
  | .vlog2 _ _ _ => 4
  | .vrcp _ _ _ => 4
  | .vrsqrt _ _ _ => 4
  | .vsortkv _ _ _ _ => 4
  | .mand _ _ _ => 4
  | .mor _ _ _ => 4
  | .mxor _ _ _ => 4
  | .mnot _ _ => 4
  | .mpop _ _ _ => 4
  | .mfirst _ _ _ => 4
  | .vmovC _ _ => 2
  | .vaddC _ _ => 2
  | .vsubC _ _ => 2
  | .vmulC _ _ => 2
  | .vminC _ _ => 2
  | .vmaxC _ _ => 2
  | .vandC _ _ => 2
  | .vorC _ _ => 2
  | .vxorC _ _ => 2
  | .vshlC _ _ => 2
  | .vshrC _ _ => 2
  | .vnegC _ _ => 2
  | .vabsC _ _ => 2
  | .vreluC _ _ => 2
  | .vavgC _ _ => 2
  | .vmaccC _ _ => 2
  | .movC _ _ => 2
  | .addC _ _ => 2
  | .subC _ _ => 2
  | .andC _ _ => 2
  | .orC _ _ => 2
  | .xorC _ _ => 2
  | .andnC _ _ => 2
  | .sllC _ _ => 2
  | .srlC _ _ => 2
  | .sraC _ _ => 2
  | .minC _ _ => 2
  | .maxC _ _ => 2
  | .addiC _ _ => 2
  | .slliC _ _ => 2
  | .srliC _ _ => 2
  | .sraiC _ _ => 2
  | .idleC _ _ => 2
  | .brkC _ _ => 2
  | .bzC _ _ _ => 2
  | .bnzC _ _ _ => 2
  | .tmul _ _ _ _ _ => 4
  | .tmuls _ _ _ _ _ => 4
  | .tmulx _ _ _ _ _ => 4
  | .tpart _ _ _ _ _ => 4
  | .tzero _ => 4
  | .tld _ _ => 4
  | .tst _ _ => 4
  | .tcode _ _ => 4
  | .tfence => 4
  | .trow _ _ _ => 4
  | .lfork _ _ _ => 4
  | .lforkr _ _ _ => 4
  | .lput _ _ _ => 4
  | .lseal _ => 4
  | .ldrop _ => 4
  | .linfo _ _ => 4
  | .lflat _ _ => 4
  | .lrebase _ _ _ => 4
  | .lprod _ _ => 4
  | .cp _ _ _ _ => 4
  | .cpL _ _ _ _ => 4
  | .cpS _ _ _ _ => 4
  | .cpG _ _ _ _ => 4
  | .cpR _ _ _ _ => 4
  | .cpX _ _ _ _ => 4
  | .cpM _ _ _ _ => 4
  | .seal _ => 4
  | .waitn _ => 4
  | .pub _ => 4
  | .armb _ _ => 4
  | .nred _ _ _ _ => 4
  | .ntopk _ _ _ _ => 4
  | .ncount _ _ _ _ => 4
  | .nbcast _ _ _ _ => 4
  | .rcreate _ _ => 4
  | .rlaunch _ _ => 4
  | .rrevoke _ _ _ => 4
  | .ryield => 4
  | .rinval _ => 4
  | .gbar => 4
  | .tbegin _ => 4
  | .tend => 4
  | .eret => 4
  | .eretResume _ => 4
  | .halt => 4
  | .crd _ _ => 4
  | .cwr _ _ => 4
  | .wswp _ => 4
  | .illegalWord _ _ => 0
  | .registerLanding => 0
  | .takeInterrupt => 0
  | .suitBarrierComplete _ _ => 0
  | .timedSegmentStart => 0
  | .waitcSatisfied => 0
  | .waitbSatisfied => 0
  | .waitnSatisfied => 0
  | .fenceComplete => 0
  | .tfenceComplete => 0
  | .pubComplete => 0
  | .superstepBoundary _ => 0
  | .superstepWatchdog _ => 0
  | .gangStop _ => 0
  | .gangResume _ => 0
  | .debugStopEnd _ => 0
  | .coreHalt => 0
  | .deal => 0
  | .launchReady _ _ => 0
  | .launchPlace _ => 0
  | .launchStart _ => 0
  | .dealerAnswer => 0
  | .revokeDismantle _ => 0
  | .mailboxIncrement _ => 0
  | .governorCommandStart _ => 0
  | .cubeStep _ => 0
  | .governorCommandComplete _ => 0
  | .engineCommandStart _ => 0
  | .engineLanding _ => 0
  | .engineCommandComplete _ => 0
  | .streamFetch _ _ => 0
  | .streamWrite _ _ => 0
  | .collectiveInstanceStart _ => 0
  | .housekeeperFold _ _ => 0
  | .nodeFree _ _ => 0
  | .scrubLine => 0
  | .pageRetire _ => 0
  | .refreshUpdate _ => 0
  | .heartbeat _ => 0
  | .refreshTakeover _ => 0
  | .mgmtCoreRestart _ => 0
  | .patrolScrub _ _ => 0
  | .decoderWatchdog _ _ => 0
  | .implicitPromotion _ => 0
  | .expanderTimeout _ => 0
  | .expanderReinstate _ => 0
  | .extentAdd _ _ _ => 0
  | .extentRelease _ _ => 0
  | .remoteWrite _ _ _ => 0
  | .remoteRead _ _ _ => 0
  | .remoteFetchAdd _ _ _ => 0
  | .remoteSwap _ _ _ => 0
  | .remoteCompareSwap _ _ _ _ => 0
  | .remoteCounterAdd _ _ _ => 0
  | .installHostWindow _ _ => 0
  | .installPeerGroup _ _ _ => 0
  | .readTelemetry => 0
  | .hostmsg _ => 0
  | .keyInstall _ _ _ => 0
  | .keyRemoval _ _ _ => 0
  | .attestationRequest _ => 0
  | .firmwareReplace _ _ => 0
  | .warmStartRequest => 0
  | .coldStart => 0
  | .clockChange _ _ => 0
  | .thermalClockStop _ => 0
  | .thermalClockResume _ => 0
  | .dieLinkLoss _ => 0
  | .worstExceeded _ => 0
  | .balanceExhausted _ => 0
  | .peerUnreachable _ _ => 0
  | .transportKeyInstall _ _ => 0
  | .wearLevelling _ _ => 0

/-- A word from its fixed bits p and 1 field: each value with the bit it starts at. -/
def enc1 (p x0 l0 : Nat) : Nat := p + x0 * 2 ^ l0

/-- A word from its fixed bits p and 2 fields: each value with the bit it starts at. -/
def enc2 (p x0 l0 x1 l1 : Nat) : Nat := p + x0 * 2 ^ l0 + x1 * 2 ^ l1

/-- A word from its fixed bits p and 3 fields: each value with the bit it starts at. -/
def enc3 (p x0 l0 x1 l1 x2 l2 : Nat) : Nat := p + x0 * 2 ^ l0 + x1 * 2 ^ l1 + x2 * 2 ^ l2

/-- A word from its fixed bits p and 4 fields: each value with the bit it starts at. -/
def enc4 (p x0 l0 x1 l1 x2 l2 x3 l3 : Nat) : Nat := p + x0 * 2 ^ l0 + x1 * 2 ^ l1 + x2 * 2 ^ l2 + x3 * 2 ^ l3

/-- A word from its fixed bits p and 5 fields: each value with the bit it starts at. -/
def enc5 (p x0 l0 x1 l1 x2 l2 x3 l3 x4 l4 : Nat) : Nat := p + x0 * 2 ^ l0 + x1 * 2 ^ l1 + x2 * 2 ^ l2 + x3 * 2 ^ l3 + x4 * 2 ^ l4

/-- The word of an instruction, written from the field positions of R50 and R56; 0 for an event. -/
def Instr.encode : Instr → Nat
  | .add d a b => enc3 0x1 d.toNat 7 a.toNat 12 b.toNat 17
  | .sub d a b => enc3 0x1000001 d.toNat 7 a.toNat 12 b.toNat 17
  | .and d a b => enc3 0x2000001 d.toNat 7 a.toNat 12 b.toNat 17
  | .or d a b => enc3 0x3000001 d.toNat 7 a.toNat 12 b.toNat 17
  | .xor d a b => enc3 0x4000001 d.toNat 7 a.toNat 12 b.toNat 17
  | .andn d a b => enc3 0x5000001 d.toNat 7 a.toNat 12 b.toNat 17
  | .sll d a b => enc3 0x6000001 d.toNat 7 a.toNat 12 b.toNat 17
  | .srl d a b => enc3 0x7000001 d.toNat 7 a.toNat 12 b.toNat 17
  | .sra d a b => enc3 0x8000001 d.toNat 7 a.toNat 12 b.toNat 17
  | .rol d a b => enc3 0x9000001 d.toNat 7 a.toNat 12 b.toNat 17
  | .ror d a b => enc3 0xA000001 d.toNat 7 a.toNat 12 b.toNat 17
  | .slt d a b => enc3 0xB000001 d.toNat 7 a.toNat 12 b.toNat 17
  | .sltu d a b => enc3 0xC000001 d.toNat 7 a.toNat 12 b.toNat 17
  | .min d a b => enc3 0xD000001 d.toNat 7 a.toNat 12 b.toNat 17
  | .max d a b => enc3 0xE000001 d.toNat 7 a.toNat 12 b.toNat 17
  | .minu d a b => enc3 0xF000001 d.toNat 7 a.toNat 12 b.toNat 17
  | .maxu d a b => enc3 0x10000001 d.toNat 7 a.toNat 12 b.toNat 17
  | .sel d a b => enc3 0x11000001 d.toNat 7 a.toNat 12 b.toNat 17
  | .mul d a b => enc3 0x3 d.toNat 7 a.toNat 12 b.toNat 17
  | .mulh d a b => enc3 0x1000003 d.toNat 7 a.toNat 12 b.toNat 17
  | .mulhu d a b => enc3 0x2000003 d.toNat 7 a.toNat 12 b.toNat 17
  | .div d a b => enc3 0x3000003 d.toNat 7 a.toNat 12 b.toNat 17
  | .divu d a b => enc3 0x4000003 d.toNat 7 a.toNat 12 b.toNat 17
  | .rem d a b => enc3 0x5000003 d.toNat 7 a.toNat 12 b.toNat 17
  | .remu d a b => enc3 0x6000003 d.toNat 7 a.toNat 12 b.toNat 17
  | .clmul d a b => enc3 0x7000003 d.toNat 7 a.toNat 12 b.toNat 17
  | .clmulh d a b => enc3 0x8000003 d.toNat 7 a.toNat 12 b.toNat 17
  | .clz d a => enc2 0x5 d.toNat 7 a.toNat 12
  | .ctz d a => enc2 0x1000005 d.toNat 7 a.toNat 12
  | .popc d a => enc2 0x2000005 d.toNat 7 a.toNat 12
  | .bswap d a => enc2 0x3000005 d.toNat 7 a.toNat 12
  | .bext d a b => enc3 0x4000005 d.toNat 7 a.toNat 12 b.toNat 17
  | .bins d a b => enc3 0x5000005 d.toNat 7 a.toNat 12 b.toNat 17
  | .fshl d a b => enc3 0x6000005 d.toNat 7 a.toNat 12 b.toNat 17
  | .fshr d a b => enc3 0x7000005 d.toNat 7 a.toNat 12 b.toNat 17
  | .addi d a i => enc3 0x7 d.toNat 7 a.toNat 12 i.toNat 17
  | .andi d a i => enc3 0x9 d.toNat 7 a.toNat 12 i.toNat 17
  | .ori d a i => enc3 0xB d.toNat 7 a.toNat 12 i.toNat 17
  | .xori d a i => enc3 0xD d.toNat 7 a.toNat 12 i.toNat 17
  | .slli d a i => enc3 0xF d.toNat 7 a.toNat 12 i.toNat 17
  | .srli d a i => enc3 0x11 d.toNat 7 a.toNat 12 i.toNat 17
  | .srai d a i => enc3 0x13 d.toNat 7 a.toNat 12 i.toNat 17
  | .slti d a i => enc3 0x15 d.toNat 7 a.toNat 12 i.toNat 17
  | .lih d a i => enc3 0x17 d.toNat 7 a.toNat 12 i.toNat 17
  | .faddD d a b => enc3 0x21 d.toNat 7 a.toNat 12 b.toNat 17
  | .fsubD d a b => enc3 0x1000021 d.toNat 7 a.toNat 12 b.toNat 17
  | .fmulD d a b => enc3 0x2000021 d.toNat 7 a.toNat 12 b.toNat 17
  | .ffmaD d a b => enc3 0x3000021 d.toNat 7 a.toNat 12 b.toNat 17
  | .fdivD d a b => enc3 0x4000021 d.toNat 7 a.toNat 12 b.toNat 17
  | .fsqrtD d a => enc2 0x5000021 d.toNat 7 a.toNat 12
  | .fminD d a b => enc3 0x6000021 d.toNat 7 a.toNat 12 b.toNat 17
  | .fmaxD d a b => enc3 0x7000021 d.toNat 7 a.toNat 12 b.toNat 17
  | .fcmpEqD d a b => enc3 0x8000021 d.toNat 7 a.toNat 12 b.toNat 17
  | .fcmpLtD d a b => enc3 0x9000021 d.toNat 7 a.toNat 12 b.toNat 17
  | .fcmpLeD d a b => enc3 0xA000021 d.toNat 7 a.toNat 12 b.toNat 17
  | .fcmpUnD d a b => enc3 0xB000021 d.toNat 7 a.toNat 12 b.toNat 17
  | .fmvNegD d a => enc2 0xC000021 d.toNat 7 a.toNat 12
  | .fmvAbsD d a => enc2 0xD000021 d.toNat 7 a.toNat 12
  | .fmvCpsD d a b => enc3 0xE000021 d.toNat 7 a.toNat 12 b.toNat 17
  | .faddS d a b => enc3 0x23 d.toNat 7 a.toNat 12 b.toNat 17
  | .fsubS d a b => enc3 0x1000023 d.toNat 7 a.toNat 12 b.toNat 17
  | .fmulS d a b => enc3 0x2000023 d.toNat 7 a.toNat 12 b.toNat 17
  | .ffmaS d a b => enc3 0x3000023 d.toNat 7 a.toNat 12 b.toNat 17
  | .fdivS d a b => enc3 0x4000023 d.toNat 7 a.toNat 12 b.toNat 17
  | .fsqrtS d a => enc2 0x5000023 d.toNat 7 a.toNat 12
  | .fminS d a b => enc3 0x6000023 d.toNat 7 a.toNat 12 b.toNat 17
  | .fmaxS d a b => enc3 0x7000023 d.toNat 7 a.toNat 12 b.toNat 17
  | .fcmpEqS d a b => enc3 0x8000023 d.toNat 7 a.toNat 12 b.toNat 17
  | .fcmpLtS d a b => enc3 0x9000023 d.toNat 7 a.toNat 12 b.toNat 17
  | .fcmpLeS d a b => enc3 0xA000023 d.toNat 7 a.toNat 12 b.toNat 17
  | .fcmpUnS d a b => enc3 0xB000023 d.toNat 7 a.toNat 12 b.toNat 17
  | .fmvNegS d a => enc2 0xC000023 d.toNat 7 a.toNat 12
  | .fmvAbsS d a => enc2 0xD000023 d.toNat 7 a.toNat 12
  | .fmvCpsS d a b => enc3 0xE000023 d.toNat 7 a.toNat 12 b.toNat 17
  | .fcvtDS d a r => enc3 0x25 d.toNat 7 a.toNat 12 r.toNat 24
  | .fcvtSD d a r => enc3 0x10000025 d.toNat 7 a.toNat 12 r.toNat 24
  | .fcvtDL d a r => enc3 0x20000025 d.toNat 7 a.toNat 12 r.toNat 24
  | .fcvtDLu d a r => enc3 0x30000025 d.toNat 7 a.toNat 12 r.toNat 24
  | .fcvtSL d a r => enc3 0x40000025 d.toNat 7 a.toNat 12 r.toNat 24
  | .fcvtSLu d a r => enc3 0x50000025 d.toNat 7 a.toNat 12 r.toNat 24
  | .fcvtLD d a r => enc3 0x60000025 d.toNat 7 a.toNat 12 r.toNat 24
  | .fcvtLuD d a r => enc3 0x70000025 d.toNat 7 a.toNat 12 r.toNat 24
  | .fcvtLS d a r => enc3 0x80000025 d.toNat 7 a.toNat 12 r.toNat 24
  | .fcvtLuS d a r => enc3 0x90000025 d.toNat 7 a.toNat 12 r.toNat 24
  | .beq a b o => enc3 0x29 a.toNat 7 b.toNat 12 o.toNat 17
  | .bne a b o => enc3 0x2B a.toNat 7 b.toNat 12 o.toNat 17
  | .blt a b o => enc3 0x2D a.toNat 7 b.toNat 12 o.toNat 17
  | .bge a b o => enc3 0x2F a.toNat 7 b.toNat 12 o.toNat 17
  | .bltu a b o => enc3 0x31 a.toNat 7 b.toNat 12 o.toNat 17
  | .bgeu a b o => enc3 0x33 a.toNat 7 b.toNat 12 o.toNat 17
  | .jal d o => enc2 0x35 d.toNat 7 o.toNat 12
  | .jalr d a o => enc3 0x37 d.toNat 7 a.toNat 12 o.toNat 17
  | .loop a o => enc2 0x40000037 a.toNat 12 o.toNat 17
  | .idle n => enc1 0x80000037 n.toNat 17
  | .brk c => enc1 0xC0000037 c.toNat 17
  | .ecall c => enc1 0xE0000037 c.toNat 17
  | .ldB d a o => enc3 0x39 d.toNat 7 a.toNat 12 o.toNat 19
  | .ldH d a o => enc3 0x20039 d.toNat 7 a.toNat 12 o.toNat 19
  | .ldW d a o => enc3 0x40039 d.toNat 7 a.toNat 12 o.toNat 19
  | .ldD d a o => enc3 0x60039 d.toNat 7 a.toNat 12 o.toNat 19
  | .ldBu d a o => enc3 0x3B d.toNat 7 a.toNat 12 o.toNat 19
  | .ldHu d a o => enc3 0x2003B d.toNat 7 a.toNat 12 o.toNat 19
  | .ldWu d a o => enc3 0x4003B d.toNat 7 a.toNat 12 o.toNat 19
  | .stB d a o => enc3 0x3D d.toNat 7 a.toNat 12 o.toNat 19
  | .stH d a o => enc3 0x2003D d.toNat 7 a.toNat 12 o.toNat 19
  | .stW d a o => enc3 0x4003D d.toNat 7 a.toNat 12 o.toNat 19
  | .stD d a o => enc3 0x6003D d.toNat 7 a.toNat 12 o.toNat 19
  | .ldv d a o w => enc4 0x3F d.toNat 7 a.toNat 12 o.toNat 19 w.toNat 17
  | .stv d a o w => enc4 0x41 d.toNat 7 a.toNat 12 o.toNat 19 w.toNat 17
  | .ldm d a b => enc3 0x43 d.toNat 7 a.toNat 12 b.toNat 17
  | .stm d a b => enc3 0x1000043 d.toNat 7 a.toNat 12 b.toNat 17
  | .ldt d a b => enc3 0x2000043 d.toNat 7 a.toNat 12 b.toNat 17
  | .stt d a b => enc3 0x3000043 d.toNat 7 a.toNat 12 b.toNat 17
  | .look d a => enc2 0x45 d.toNat 7 a.toNat 12
  | .lset a b => enc2 0x1000045 a.toNat 12 b.toNat 17
  | .ifence => 0x2000045
  | .sbindG d a b => enc3 0xC47 d.toNat 7 a.toNat 12 b.toNat 17
  | .sbindV d a b => enc3 0x1000647 d.toNat 7 a.toNat 12 b.toNat 17
  | .sfreeG d => enc1 0x2000C47 d.toNat 7
  | .sfreeV d => enc1 0x3000647 d.toNat 7
  | .amoAdd k a b s => enc4 0x49 k.toNat 7 a.toNat 12 b.toNat 17 s.toNat 31
  | .amoAnd k a b s => enc4 0x8000049 k.toNat 7 a.toNat 12 b.toNat 17 s.toNat 31
  | .amoOr k a b s => enc4 0x10000049 k.toNat 7 a.toNat 12 b.toNat 17 s.toNat 31
  | .amoXor k a b s => enc4 0x18000049 k.toNat 7 a.toNat 12 b.toNat 17 s.toNat 31
  | .amoMin k a b s => enc4 0x20000049 k.toNat 7 a.toNat 12 b.toNat 17 s.toNat 31
  | .amoMax k a b s => enc4 0x28000049 k.toNat 7 a.toNat 12 b.toNat 17 s.toNat 31
  | .amoMinu k a b s => enc4 0x30000049 k.toNat 7 a.toNat 12 b.toNat 17 s.toNat 31
  | .amoMaxu k a b s => enc4 0x38000049 k.toNat 7 a.toNat 12 b.toNat 17 s.toNat 31
  | .amoSwap k a b s => enc4 0x40000049 k.toNat 7 a.toNat 12 b.toNat 17 s.toNat 31
  | .amoAddAcq k a b c s => enc5 0x4B k.toNat 7 a.toNat 12 b.toNat 17 c.toNat 22 s.toNat 31
  | .amoAndAcq k a b c s => enc5 0x800004B k.toNat 7 a.toNat 12 b.toNat 17 c.toNat 22 s.toNat 31
  | .amoOrAcq k a b c s => enc5 0x1000004B k.toNat 7 a.toNat 12 b.toNat 17 c.toNat 22 s.toNat 31
  | .amoXorAcq k a b c s => enc5 0x1800004B k.toNat 7 a.toNat 12 b.toNat 17 c.toNat 22 s.toNat 31
  | .amoMinAcq k a b c s => enc5 0x2000004B k.toNat 7 a.toNat 12 b.toNat 17 c.toNat 22 s.toNat 31
  | .amoMaxAcq k a b c s => enc5 0x2800004B k.toNat 7 a.toNat 12 b.toNat 17 c.toNat 22 s.toNat 31
  | .amoMinuAcq k a b c s => enc5 0x3000004B k.toNat 7 a.toNat 12 b.toNat 17 c.toNat 22 s.toNat 31
  | .amoMaxuAcq k a b c s => enc5 0x3800004B k.toNat 7 a.toNat 12 b.toNat 17 c.toNat 22 s.toNat 31
  | .amoSwapAcq k a b c s => enc5 0x4000004B k.toNat 7 a.toNat 12 b.toNat 17 c.toNat 22 s.toNat 31
  | .amoAddRel k a b c s => enc5 0x4D k.toNat 7 a.toNat 12 b.toNat 17 c.toNat 22 s.toNat 31
  | .amoAndRel k a b c s => enc5 0x800004D k.toNat 7 a.toNat 12 b.toNat 17 c.toNat 22 s.toNat 31
  | .amoOrRel k a b c s => enc5 0x1000004D k.toNat 7 a.toNat 12 b.toNat 17 c.toNat 22 s.toNat 31
  | .amoXorRel k a b c s => enc5 0x1800004D k.toNat 7 a.toNat 12 b.toNat 17 c.toNat 22 s.toNat 31
  | .amoMinRel k a b c s => enc5 0x2000004D k.toNat 7 a.toNat 12 b.toNat 17 c.toNat 22 s.toNat 31
  | .amoMaxRel k a b c s => enc5 0x2800004D k.toNat 7 a.toNat 12 b.toNat 17 c.toNat 22 s.toNat 31
  | .amoMinuRel k a b c s => enc5 0x3000004D k.toNat 7 a.toNat 12 b.toNat 17 c.toNat 22 s.toNat 31
  | .amoMaxuRel k a b c s => enc5 0x3800004D k.toNat 7 a.toNat 12 b.toNat 17 c.toNat 22 s.toNat 31
  | .amoSwapRel k a b c s => enc5 0x4000004D k.toNat 7 a.toNat 12 b.toNat 17 c.toNat 22 s.toNat 31
  | .casW k a b c => enc4 0x4F k.toNat 7 a.toNat 12 b.toNat 17 c.toNat 22
  | .casD k a b c => enc4 0x800004F k.toNat 7 a.toNat 12 b.toNat 17 c.toNat 22
  | .post a b c => enc3 0x1000004F a.toNat 12 b.toNat 17 c.toNat 22
  | .waitc a b c => enc3 0x1800004F a.toNat 12 b.toNat 17 c.toNat 22
  | .waitb k a c => enc3 0x2000004F k.toNat 7 a.toNat 12 c.toNat 22
  | .fence c => enc1 0x2800004F c.toNat 22
  | .suitBar a => enc1 0x3000004F a.toNat 12
  | .suitDis => 0x3800004F
  | .vadd d a b t => enc4 0x51 d.toNat 7 a.toNat 12 b.toNat 17 t.toNat 24
  | .vsub d a b t => enc4 0x10000051 d.toNat 7 a.toNat 12 b.toNat 17 t.toNat 24
  | .vmul d a b t => enc4 0x20000051 d.toNat 7 a.toNat 12 b.toNat 17 t.toNat 24
  | .vfma d a b t => enc4 0x30000051 d.toNat 7 a.toNat 12 b.toNat 17 t.toNat 24
  | .vfms d a b t => enc4 0x40000051 d.toNat 7 a.toNat 12 b.toNat 17 t.toNat 24
  | .vmin d a b t => enc4 0x50000051 d.toNat 7 a.toNat 12 b.toNat 17 t.toNat 24
  | .vmax d a b t => enc4 0x60000051 d.toNat 7 a.toNat 12 b.toNat 17 t.toNat 24
  | .vabs d a t => enc3 0x70000051 d.toNat 7 a.toNat 12 t.toNat 24
  | .vneg d a t => enc3 0x80000051 d.toNat 7 a.toNat 12 t.toNat 24
  | .vrelu d a t => enc3 0x90000051 d.toNat 7 a.toNat 12 t.toNat 24
  | .vavg d a b t => enc4 0xA0000051 d.toNat 7 a.toNat 12 b.toNat 17 t.toNat 24
  | .vmacc d a b w t => enc5 0xB0000051 d.toNat 7 a.toNat 12 b.toNat 17 w.toNat 22 t.toNat 24
  | .vand d a b t => enc4 0x53 d.toNat 7 a.toNat 12 b.toNat 17 t.toNat 24
  | .vor d a b t => enc4 0x10000053 d.toNat 7 a.toNat 12 b.toNat 17 t.toNat 24
  | .vxor d a b t => enc4 0x20000053 d.toNat 7 a.toNat 12 b.toNat 17 t.toNat 24
  | .vandn d a b t => enc4 0x30000053 d.toNat 7 a.toNat 12 b.toNat 17 t.toNat 24
  | .vshl d a b t => enc4 0x40000053 d.toNat 7 a.toNat 12 b.toNat 17 t.toNat 24
  | .vshr d a b t => enc4 0x50000053 d.toNat 7 a.toNat 12 b.toNat 17 t.toNat 24
  | .vsra d a b t => enc4 0x60000053 d.toNat 7 a.toNat 12 b.toNat 17 t.toNat 24
  | .vpopc d a t => enc3 0x70000053 d.toNat 7 a.toNat 12 t.toNat 24
  | .vclz d a t => enc3 0x80000053 d.toNat 7 a.toNat 12 t.toNat 24
  | .vclmul d a b w t => enc5 0x90000053 d.toNat 7 a.toNat 12 b.toNat 17 w.toNat 22 t.toNat 24
  | .vbext d a b t => enc4 0xA0000053 d.toNat 7 a.toNat 12 b.toNat 17 t.toNat 24
  | .vfshl d a b t => enc4 0xB0000053 d.toNat 7 a.toNat 12 b.toNat 17 t.toNat 24
  | .vcmpEq d a b t => enc4 0x55 d.toNat 7 a.toNat 12 b.toNat 17 t.toNat 24
  | .vcmpNe d a b t => enc4 0x10000055 d.toNat 7 a.toNat 12 b.toNat 17 t.toNat 24
  | .vcmpLt d a b t => enc4 0x20000055 d.toNat 7 a.toNat 12 b.toNat 17 t.toNat 24
  | .vcmpLe d a b t => enc4 0x30000055 d.toNat 7 a.toNat 12 b.toNat 17 t.toNat 24
  | .vcmpGt d a b t => enc4 0x40000055 d.toNat 7 a.toNat 12 b.toNat 17 t.toNat 24
  | .vcmpGe d a b t => enc4 0x50000055 d.toNat 7 a.toNat 12 b.toNat 17 t.toNat 24
  | .vcmpUn d a b t => enc4 0x60000055 d.toNat 7 a.toNat 12 b.toNat 17 t.toNat 24
  | .vsel d a b t => enc4 0x57 d.toNat 7 a.toNat 12 b.toNat 17 t.toNat 24
  | .vmov d a t => enc3 0x10000057 d.toNat 7 a.toNat 12 t.toNat 24
  | .vbcast d a t => enc3 0x20000057 d.toNat 7 a.toNat 12 t.toNat 24
  | .vins d a b t => enc4 0x30000057 d.toNat 7 a.toNat 12 b.toNat 17 t.toNat 24
  | .vext d a b t => enc4 0x40000057 d.toNat 7 a.toNat 12 b.toNat 17 t.toNat 24
  | .vcvt d a w r t => enc5 0x59 d.toNat 7 a.toNat 12 w.toNat 22 r.toNat 24 t.toNat 28
  | .vredsum d a t => enc3 0x5B d.toNat 7 a.toNat 12 t.toNat 24
  | .vredmax d a t => enc3 0x1000005B d.toNat 7 a.toNat 12 t.toNat 24
  | .vredmin d a t => enc3 0x2000005B d.toNat 7 a.toNat 12 t.toNat 24
  | .vscan d a t => enc3 0x3000005B d.toNat 7 a.toNat 12 t.toNat 24
  | .vperm d a b t => enc4 0x5D d.toNat 7 a.toNat 12 b.toNat 17 t.toNat 24
  | .vcompress d a b t => enc4 0x1000005D d.toNat 7 a.toNat 12 b.toNat 17 t.toNat 24
  | .vexpand d a b t => enc4 0x2000005D d.toNat 7 a.toNat 12 b.toNat 17 t.toNat 24
  | .vgather d a b t => enc4 0x3000005D d.toNat 7 a.toNat 12 b.toNat 17 t.toNat 24
  | .vscatter d a b t => enc4 0x4000005D d.toNat 7 a.toNat 12 b.toNat 17 t.toNat 24
  | .vlut16 d a b t => enc4 0x5000005D d.toNat 7 a.toNat 12 b.toNat 17 t.toNat 24
  | .vlut256 d a b w t => enc5 0x6000005D d.toNat 7 a.toNat 12 b.toNat 17 w.toNat 22 t.toNat 24
  | .vexp2 d a t => enc3 0x5F d.toNat 7 a.toNat 12 t.toNat 24
  | .vlog2 d a t => enc3 0x1000005F d.toNat 7 a.toNat 12 t.toNat 24
  | .vrcp d a t => enc3 0x2000005F d.toNat 7 a.toNat 12 t.toNat 24
  | .vrsqrt d a t => enc3 0x3000005F d.toNat 7 a.toNat 12 t.toNat 24
  | .vsortkv d a b t => enc4 0x4040005F d.toNat 7 a.toNat 12 b.toNat 17 t.toNat 24
  | .mand d a b => enc3 0x61 d.toNat 7 a.toNat 12 b.toNat 17
  | .mor d a b => enc3 0x1000061 d.toNat 7 a.toNat 12 b.toNat 17
  | .mxor d a b => enc3 0x2000061 d.toNat 7 a.toNat 12 b.toNat 17
  | .mnot d a => enc2 0x3000061 d.toNat 7 a.toNat 12
  | .mpop d a b => enc3 0x4000061 d.toNat 7 a.toNat 12 b.toNat 17
  | .mfirst d a b => enc3 0x5000061 d.toNat 7 a.toNat 12 b.toNat 17
  | .vmovC d a => enc2 0x0 d.toNat 8 a.toNat 12
  | .vaddC d a => enc2 0x10 d.toNat 8 a.toNat 12
  | .vsubC d a => enc2 0x20 d.toNat 8 a.toNat 12
  | .vmulC d a => enc2 0x30 d.toNat 8 a.toNat 12
  | .vminC d a => enc2 0x40 d.toNat 8 a.toNat 12
  | .vmaxC d a => enc2 0x50 d.toNat 8 a.toNat 12
  | .vandC d a => enc2 0x60 d.toNat 8 a.toNat 12
  | .vorC d a => enc2 0x70 d.toNat 8 a.toNat 12
  | .vxorC d a => enc2 0x80 d.toNat 8 a.toNat 12
  | .vshlC d a => enc2 0x90 d.toNat 8 a.toNat 12
  | .vshrC d a => enc2 0xA0 d.toNat 8 a.toNat 12
  | .vnegC d a => enc2 0xB0 d.toNat 8 a.toNat 12
  | .vabsC d a => enc2 0xC0 d.toNat 8 a.toNat 12
  | .vreluC d a => enc2 0xD0 d.toNat 8 a.toNat 12
  | .vavgC d a => enc2 0xE0 d.toNat 8 a.toNat 12
  | .vmaccC d a => enc2 0xF0 d.toNat 8 a.toNat 12
  | .movC d a => enc2 0x2 d.toNat 8 a.toNat 12
  | .addC d a => enc2 0x12 d.toNat 8 a.toNat 12
  | .subC d a => enc2 0x22 d.toNat 8 a.toNat 12
  | .andC d a => enc2 0x32 d.toNat 8 a.toNat 12
  | .orC d a => enc2 0x42 d.toNat 8 a.toNat 12
  | .xorC d a => enc2 0x52 d.toNat 8 a.toNat 12
  | .andnC d a => enc2 0x62 d.toNat 8 a.toNat 12
  | .sllC d a => enc2 0x72 d.toNat 8 a.toNat 12
  | .srlC d a => enc2 0x82 d.toNat 8 a.toNat 12
  | .sraC d a => enc2 0x92 d.toNat 8 a.toNat 12
  | .minC d a => enc2 0xA2 d.toNat 8 a.toNat 12
  | .maxC d a => enc2 0xB2 d.toNat 8 a.toNat 12
  | .addiC d i => enc2 0xC2 d.toNat 8 i.toNat 12
  | .slliC d i => enc2 0xD2 d.toNat 8 i.toNat 12
  | .srliC d i => enc2 0xE2 d.toNat 8 i.toNat 12
  | .sraiC d i => enc2 0xF2 d.toNat 8 i.toNat 12
  | .idleC d a => enc2 0x4 d.toNat 8 a.toNat 12
  | .brkC d a => enc2 0x14 d.toNat 8 a.toNat 12
  | .bzC d a o => enc3 0x84 d.toNat 8 a.toNat 12 o.toNat 4
  | .bnzC d a o => enc3 0xC4 d.toNat 8 a.toNat 12 o.toNat 4
  | .tmul d a b c m => enc5 0x69 d.toNat 7 a.toNat 10 b.toNat 15 c.toNat 20 m.toNat 25
  | .tmuls d a b c m => enc5 0x10000069 d.toNat 7 a.toNat 10 b.toNat 15 c.toNat 20 m.toNat 25
  | .tmulx d a b c m => enc5 0x20000069 d.toNat 7 a.toNat 10 b.toNat 15 c.toNat 20 m.toNat 25
  | .tpart d a b c m => enc5 0x30000069 d.toNat 7 a.toNat 10 b.toNat 15 c.toNat 20 m.toNat 25
  | .tzero d => enc1 0x6B d.toNat 7
  | .tld d a => enc2 0x1000406B d.toNat 7 a.toNat 10
  | .tst d a => enc2 0x2000406B d.toNat 7 a.toNat 10
  | .tcode a s => enc2 0x3000006B a.toNat 10 s.toNat 7
  | .tfence => 0x4000006B
  | .trow d a b => enc3 0x6D d.toNat 7 a.toNat 12 b.toNat 17
  | .lfork d a b => enc3 0x71 d.toNat 7 a.toNat 12 b.toNat 17
  | .lforkr d a b => enc3 0x1000071 d.toNat 7 a.toNat 12 b.toNat 17
  | .lput d a b => enc3 0x2000071 d.toNat 7 a.toNat 12 b.toNat 17
  | .lseal a => enc1 0x3000071 a.toNat 12
  | .ldrop a => enc1 0x4000071 a.toNat 12
  | .linfo d a => enc2 0x5C00071 d.toNat 10 a.toNat 12
  | .lflat k a => enc2 0x73 k.toNat 7 a.toNat 12
  | .lrebase k a b => enc3 0x8000073 k.toNat 7 a.toNat 12 b.toNat 17
  | .lprod k a => enc2 0x10000073 k.toNat 7 a.toNat 12
  | .cp k a b c => enc4 0x75 k.toNat 7 a.toNat 12 b.toNat 17 c.toNat 22
  | .cpL k a b c => enc4 0x8000075 k.toNat 7 a.toNat 12 b.toNat 17 c.toNat 22
  | .cpS k a b c => enc4 0x10000075 k.toNat 7 a.toNat 12 b.toNat 17 c.toNat 22
  | .cpG k a b c => enc4 0x18000075 k.toNat 7 a.toNat 12 b.toNat 17 c.toNat 22
  | .cpR k a b c => enc4 0x20000075 k.toNat 7 a.toNat 12 b.toNat 17 c.toNat 22
  | .cpX k a b c => enc4 0x28000075 k.toNat 7 a.toNat 12 b.toNat 17 c.toNat 22
  | .cpM k a b c => enc4 0x30000075 k.toNat 7 a.toNat 12 b.toNat 17 c.toNat 22
  | .seal d => enc1 0x77 d.toNat 7
  | .waitn a => enc1 0x1000077 a.toNat 12
  | .pub a => enc1 0x2000077 a.toNat 12
  | .armb a b => enc2 0x3000077 a.toNat 12 b.toNat 17
  | .nred k a b c => enc4 0x79 k.toNat 7 a.toNat 12 b.toNat 17 c.toNat 22
  | .ntopk k a b c => enc4 0x8000079 k.toNat 7 a.toNat 12 b.toNat 17 c.toNat 22
  | .ncount k a b c => enc4 0x10000079 k.toNat 7 a.toNat 12 b.toNat 17 c.toNat 22
  | .nbcast k a b c => enc4 0x18000079 k.toNat 7 a.toNat 12 b.toNat 17 c.toNat 22
  | .rcreate d a => enc2 0x7B d.toNat 7 a.toNat 12
  | .rlaunch d a => enc2 0x100007B d.toNat 7 a.toNat 12
  | .rrevoke d a b => enc3 0x200007B d.toNat 7 a.toNat 12 b.toNat 17
  | .ryield => 0x300007B
  | .rinval a => enc1 0x400007B a.toNat 12
  | .gbar => 0x500007B
  | .tbegin a => enc1 0x600007B a.toNat 12
  | .tend => 0x700007B
  | .eret => 0x800007B
  | .eretResume a => enc1 0x800007B a.toNat 12
  | .halt => 0x900007B
  | .crd d i => enc2 0x7D d.toNat 7 i.toNat 17
  | .cwr d i => enc2 0x107D d.toNat 7 i.toNat 17
  | .wswp d => enc1 0x207D d.toNat 7
  | .illegalWord _ w => w.toNat
  | .registerLanding => 0
  | .takeInterrupt => 0
  | .suitBarrierComplete _ _ => 0
  | .timedSegmentStart => 0
  | .waitcSatisfied => 0
  | .waitbSatisfied => 0
  | .waitnSatisfied => 0
  | .fenceComplete => 0
  | .tfenceComplete => 0
  | .pubComplete => 0
  | .superstepBoundary _ => 0
  | .superstepWatchdog _ => 0
  | .gangStop _ => 0
  | .gangResume _ => 0
  | .debugStopEnd _ => 0
  | .coreHalt => 0
  | .deal => 0
  | .launchReady _ _ => 0
  | .launchPlace _ => 0
  | .launchStart _ => 0
  | .dealerAnswer => 0
  | .revokeDismantle _ => 0
  | .mailboxIncrement _ => 0
  | .governorCommandStart _ => 0
  | .cubeStep _ => 0
  | .governorCommandComplete _ => 0
  | .engineCommandStart _ => 0
  | .engineLanding _ => 0
  | .engineCommandComplete _ => 0
  | .streamFetch _ _ => 0
  | .streamWrite _ _ => 0
  | .collectiveInstanceStart _ => 0
  | .housekeeperFold _ _ => 0
  | .nodeFree _ _ => 0
  | .scrubLine => 0
  | .pageRetire _ => 0
  | .refreshUpdate _ => 0
  | .heartbeat _ => 0
  | .refreshTakeover _ => 0
  | .mgmtCoreRestart _ => 0
  | .patrolScrub _ _ => 0
  | .decoderWatchdog _ _ => 0
  | .implicitPromotion _ => 0
  | .expanderTimeout _ => 0
  | .expanderReinstate _ => 0
  | .extentAdd _ _ _ => 0
  | .extentRelease _ _ => 0
  | .remoteWrite _ _ _ => 0
  | .remoteRead _ _ _ => 0
  | .remoteFetchAdd _ _ _ => 0
  | .remoteSwap _ _ _ => 0
  | .remoteCompareSwap _ _ _ _ => 0
  | .remoteCounterAdd _ _ _ => 0
  | .installHostWindow _ _ => 0
  | .installPeerGroup _ _ _ => 0
  | .readTelemetry => 0
  | .hostmsg _ => 0
  | .keyInstall _ _ _ => 0
  | .keyRemoval _ _ _ => 0
  | .attestationRequest _ => 0
  | .firmwareReplace _ _ => 0
  | .warmStartRequest => 0
  | .coldStart => 0
  | .clockChange _ _ => 0
  | .thermalClockStop _ => 0
  | .thermalClockResume _ => 0
  | .dieLinkLoss _ => 0
  | .worstExceeded _ => 0
  | .balanceExhausted _ => 0
  | .peerUnreachable _ _ => 0
  | .transportKeyInstall _ _ => 0
  | .wearLevelling _ _ => 0

end Sys2Proof
end

