-- ==== Sys2Proof/Machine/State.lean ====
section
/-! DEFINITION. The state of a Rammor package: every core, every group's engines, the memory and its sluices, the dealer's
regions and launches, and the device around them. Plain data. The core whose turn it is stands in `State.core`, the others
in `State.others`; cores, groups and regions that are as at power-on are not listed. -/

namespace Sys2Proof.Machine

/-- Format tag of a vector or tile register (R82). -/
abbrev Tag := BitVec 5

/-- A register that an instruction writes. -/
inductive Dest where
  | g (i : BitVec 5)
  | v (i : BitVec 4)
  | m (i : BitVec 3)
  | t (i : BitVec 3)
  deriving DecidableEq, Repr

/-- A landing window (R87): a read of the register before the window closes returns an undefined value. -/
structure Window where
  dest : Dest
  closes : Nat
  deriving DecidableEq, Repr

/-- A bound stream register (R164-R170). The pattern is the descriptor's, read at the binding or the last restore (R169). -/
structure Stream where
  /-- local address of the descriptor -/
  desc : BitVec 32
  /-- bits [12:0] of SBIND's b: bit 0 write, bit 1 signed, bits [12:8] tag -/
  mode : BitVec 13
  base : Word
  n0 : Nat
  n1 : Nat
  n2 : Nat
  size : Nat
  s0 : Word
  s1 : Word
  s2 : Word
  /-- element number of the next element that the program pops or appends (I0, I1, I2 of R169 are its digits) -/
  next : Nat
  /-- elements fetched and not yet popped, or appended and not yet written, oldest first -/
  queue : List Nat
  /-- appended results that have not landed: when each lands, and its element, in that order (R85, R87) -/
  landing : List (Nat × Nat)
  /-- the failure of the element at the queue's end (read) or head (write): cause, XVAL and the faulting stage (R166, R401) -/
  failed : Option (Nat × Word × RegionId)
  /-- when the engine serves it next, for streams with a bound (R323) -/
  due : Nat
  /-- when the stores that its core had under way at the binding, or the restore, are performed: the engine comes after them (R334) -/
  after : Nat
  deriving DecidableEq, Repr

/-- CSUIT (R23). -/
structure Suit where
  act : Bool
  size : BitVec 4
  spos : BitVec 4
  memb : BitVec 16
  deriving DecidableEq, Repr

/-- What a waiting core waits for. -/
inductive Wait where
  /-- WAITC: counter, target, scope operand, none for C = 0 (R171, R175) -/
  | counter (i : BitVec 6) (target : BitVec 32) (scope : Option Word)
  /-- WAITB: barrier address, phase, scope operand (R176) -/
  | barrier (addr : Nat) (phase : Bool) (scope : Option Word)
  /-- WAITN: batch number (R308) -/
  | batch (n : BitVec 32)
  /-- FENCE (R177) -/
  | fence (scope : Option Word)
  /-- TFENCE (R236) -/
  | tfence
  /-- PUB: publish key (R322) -/
  | pub (key : Nat)
  /-- SUIT.BAR: member mask (R180) -/
  | suitBar (mask : BitVec 16)
  /-- GBAR (R357) -/
  | gbar
  /-- TBEGIN: start timestamp (R29, R358) -/
  | start (at_ : Word)
  /-- an answer of the dealer, to be written to g(d) (R345) -/
  | answer (d : BitVec 5)
  deriving DecidableEq, Repr

/-- What a core is doing. -/
inductive CoreStatus where
  /-- no launch is placed on it -/
  | idle
  /-- it issues its next instruction at `Core.readyAt` -/
  | running
  /-- an issued wait or anchor is not yet satisfied -/
  | waiting (w : Wait)
  /-- HALT waits for its drains (R384) -/
  | halting
  /-- HALT is done (R384) -/
  | halted
  /-- parked by a reflected trap: the record's address and the region whose supervising core was told (R388); none when no
  record was written -/
  | parked (record : Option Nat) (handler : RegionId)
  deriving DecidableEq, Repr

/-- An instruction that a suit follower will issue (R24). -/
structure Queued where
  /-- when it issues -/
  due : Nat
  pc : Word
  /-- its word, and its length in bytes -/
  word : BitVec 32
  len : Nat
  /-- the leader's next program counter, for a branch (R25) -/
  next : Word
  deriving DecidableEq, Repr

/-- The accesses of a core to one 64-byte line since they were last cleared (R338). -/
structure LineAccess where
  line : Nat
  r : Bool
  w : Bool
  a : Bool
  deriving DecidableEq, Repr

/-- A batch of copy commands that is not finished, or has finished with a failure not yet reported (R307-R309). It belongs to
the context of a launch with its workspace at `home`. Sealed batches stand in the order of sealing. -/
structure Batch where
  number : BitVec 32
  launch : Nat
  home : Word
  unfinished : Nat
  sealed : Bool
  failed : Bool
  deriving DecidableEq, Repr

/-- Pending interrupts (R380). -/
structure Pending where
  timer : Option Word
  mailbox : Option Word
  /-- CHILDTRAP (false) and REVOKE (true) share a queue -/
  trees : List (Bool × Word)
  switch : Option Word
  postReject : Option Word
  hostmsg : List Word
  deriving DecidableEq, Repr

/-- A core: its registers, its workspace-independent state and what it is doing (R7, R69-R91). -/
structure Core where
  /-- its place in the mesh, PY·256 + PX (R10, R11) -/
  pos : Nat
  g : Vector Word 32
  v : Vector VWord 16
  m : Vector Word 8
  t : Vector TWord 8
  vtag : Vector Tag 16
  ttag : Vector Tag 8
  pc : Word
  cwp : Word
  xpc : Word
  xcause : Word
  xval : Word
  xscratch : Word
  /-- CSTAT.TIMED, INH, DBG (R74) -/
  timed : Bool
  inh : Bool
  dbg : Bool
  /-- CSEG's value at `segFrom`; it counts on from there in timed code (R29, R42) -/
  cseg : Word
  segFrom : Nat
  crb : BitVec 5
  csat : BitVec 8
  crnd : BitVec 2
  suit : Suit
  cbatch : BitVec 32
  /-- CID (R12) -/
  lx : BitVec 8
  ly : BitVec 8
  lw : BitVec 8
  lh : BitVec 8
  counters : Vector (BitVec 32) 64
  /-- stream registers g24-g31 and v12-v15, none when unbound (R164) -/
  gs : Vector (Option Stream) 8
  vs : Vector (Option Stream) 4
  /-- open landing windows (R87) -/
  windows : List Window
  /-- CSAT flags that land at a time (R128) -/
  flagsDue : List (Nat × BitVec 8)
  /-- the lowest address among the words fetched ahead that was written: from there on they must be fetched again (R91) -/
  refetch : Option Nat
  /-- the first half of a word at an address ≡ 2 mod 4, read in the first of its two fetches (R49) -/
  half : Option (BitVec 16)
  /-- WSWP waits for its drain (R80, R382) -/
  draining : Bool
  /-- a gang stop has written its workspace back, to be loaded at the resume (R39, R41) -/
  stopped : Bool
  /-- in this cycle it issues after the cores that have not put off their issue: 1 with the first half of its word read (R49), 2
  for a bank that cores of lower index come to first (R219); 0 while it has put off nothing -/
  late : Nat
  /-- what the wait that the core stands in popped: stream register g(24 + i), its elements, and the holding value before
  (R178, R385) -/
  popped : List (Nat × List Nat × Word)
  status : CoreStatus
  /-- when it can issue its next instruction -/
  readyAt : Nat
  /-- ring word: RACT, RTILE, FULL (R228, R241) -/
  ract : Bool
  rtile : BitVec 3
  rfull : BitVec 16
  /-- follower: instructions of the leader still to issue (R24) -/
  follow : List Queued
  /-- follower: the leader's target for the branch that issues now (R25) -/
  lead : Option Word
  /-- access table of the current region (R338) -/
  access : List LineAccess
  batches : List Batch
  pending : Pending
  /-- it has taken BREAK in a DBGGANG launch and not returned (R391) -/
  broken : Bool
  /-- it has returned from such a BREAK and waits for Tr (R391) -/
  held : Bool
  /-- its counters as its last trap record or stop image holds them (R386, R388) -/
  park : Vector (BitVec 32) 64
  /-- number of the launch placed on it, 0 for none (R20) -/
  launch : Nat
  /-- traps that the governor raises here before the next instruction: cause and XVAL (R244, R243) -/
  posted : List (Nat × Word)
  /-- it has taken a trap that is reflected to a region, with CSTAT as before, and waits for its governor commands to come to a
  block boundary (R242, R388) -/
  reflecting : Option (RegionId × Word)
  deriving DecidableEq, Repr

/-- A slot of a group's tag table that has been set: its key and region, none when invalid; what it held before, and when it
was set (R161, R162). -/
structure TagSlot where
  slot : Nat
  cur : Option (Word × RegionId)
  prev : Option (Word × RegionId)
  since : Nat
  deriving DecidableEq, Repr

/-- A pair register (R318): the block's offset in the scratchpad, PSZ, the owner, and whether the upper physical half is the
visible one. -/
structure PairReg where
  base : Nat
  psz : Nat
  owner : RegionId
  upper : Bool
  deriving DecidableEq, Repr

/-- A command of the governor's queue with its captured operands (R210, R211, R241). -/
structure CubeCmd where
  id : Nat
  core : Nat
  word : BitVec 32
  crbv : BitVec 5
  abase : Word
  alay : Word
  bbase : Word
  blay : Word
  cbase : Word
  clay : Word
  b2base : Word
  b2lay : Word
  /-- tD counted as EMPTY at issue (R222) -/
  emptyD : Bool
  /-- tags of A, B, B2, C and the number of slices, as they stood at issue (R216, R217, R222) -/
  tags : List Nat
  total : Nat
  /-- tiles that were inside their landing window at issue, each with the number of the free value that the command reads of it
  (R87) -/
  undef : List (Nat × Nat)
  /-- next slice -/
  step : Nat
  /-- accumulator of the running command; one per member for LPROD -/
  acc : List TWord
  /-- accumulator as of the last whole block (R242, R244) -/
  block : List TWord
  started : Bool
  /-- it has begun, though a stop may have taken it back to step 0: STARTED of its saved entry (R241) -/
  begun : Bool
  isFollow : Bool
  held : Bool
  /-- it has been stopped with a context: a TPART then starts only with all its members resident (R242) -/
  reloaded : Bool
  /-- when its first step may start, then when its running step ends -/
  due : Nat
  /-- sparse: the stream position of the running block's first code (R224, R244) -/
  metaPos : Nat
  /-- sparse: codes popped for the running step (R225) -/
  codes : List Nat
  /-- sparse: rows of the dense A of the running groups, none where no code names the position (R225) -/
  dense : List (List (Option Nat))
  /-- flags raised by its slices, and those as of the last whole block (R128) -/
  fl : BitVec 8
  blockFl : BitVec 8
  /-- TPART: flags raised by each row of the running block (R128, R229) -/
  rowFl : List (BitVec 8)
  /-- start of the last step begun, and the cycles that it needs of each bank (R218) -/
  stepAt : Nat
  bankLoad : List (Nat × Nat)
  /-- the same of the step before it -/
  priorAt : Nat
  priorLoad : List (Nat × Nat)
  /-- LPROD: barrier reference, family descriptor, batch (R274) -/
  bar : Word
  fam : List Byte
  batch : BitVec 32
  /-- lines of its engine region: line and write (R240) -/
  marks : List (Nat × Bool)
  /-- workspaces of the members of a running TPART (R242) -/
  rings : List Word
  deriving DecidableEq, Repr

/-- A group's shared units (R7). -/
structure Group where
  id : Nat
  tags : List TagSlot
  codebook : Vector (Vector (BitVec 16) 16) 4
  pairs : List PairReg
  queue : List CubeCmd
  /-- region of the launch last placed on cores of the group, 0 for none (R161, R235) -/
  last : RegionId
  /-- banks that serve a core access, each with the cycle's end (R218, R219) -/
  banks : List (Nat × Nat)
  deriving DecidableEq, Repr

/-- What an engine command does. -/
inductive EngKind where
  /-- CP, CP.L, CP.S, CP.G, CP.R, CP.X, CP.M by FN5 (R281) -/
  | copy (fn : Nat)
  | lflat
  | lrebase
  /-- NRED, NTOPK, NCOUNT, NBCAST by FN5 (R368) -/
  | net (fn : Nat)
  deriving DecidableEq, Repr

/-- A barrier as the commands of a launch name it (R282, R309): the region and the launch whose local memory holds it, and its
place. -/
structure BarRef where
  reg : RegionId
  launch : Nat
  place : Nat
  deriving DecidableEq, Repr

/-- Which shadows are published together (R317). -/
inductive PubKey where
  /-- PUBM 1: the command -/
  | alone (id : Nat)
  /-- PUBM 2: the barrier -/
  | barrier (b : BarRef)
  /-- PUBM 3: core, context and batch -/
  | batch (core launch : Nat) (home : Word) (n : BitVec 32)
  /-- PUBM 4: core and key -/
  | key (core : Nat) (k : Nat)
  /-- PUBM 5: region, launch and key -/
  | launch (reg : RegionId) (seq : Nat) (k : Nat)
  deriving DecidableEq, Repr

/-- What a completed command of an open publish group left behind (R321, R293). -/
structure Finished where
  id : Nat
  core : Nat
  region : RegionId
  launch : Nat
  home : Word
  batch : BitVec 32
  k : Word
  status : Nat
  poisoned : Nat
  skipped : Nat
  failed : Bool
  deriving DecidableEq, Repr

/-- A publish group with its shadows (R317-R321). -/
structure PubGroup where
  key : PubKey
  failed : Bool
  done : List Finished
  /-- shadow pages: region charged, visible physical page, shadow frame -/
  pages : List (RegionId × Nat × Nat)
  /-- shadowed pairs: group and base -/
  pairs : List (Nat × Nat)
  /-- shadow frames that a retirement filled with poison (R414) -/
  worn : List Nat
  deriving DecidableEq, Repr

/-- A command of a copy engine, the lineage engine or the network interface, with its captured values (R281, R269, R368). It
belongs to the context of a launch with its workspace at `home`. -/
structure EngCmd where
  id : Nat
  core : Nat
  region : RegionId
  launch : Nat
  home : Word
  batch : BitVec 32
  kind : EngKind
  k : Word
  a : Word
  b : Word
  /-- the 128 bytes of the descriptor -/
  desc : List Byte
  started : Bool
  /-- elements or pages already landed -/
  progress : Nat
  /-- destination bytes in all, and those that have arrived at the barrier -/
  total : Nat
  arrived : Nat
  /-- granules written poisoned, and index entries skipped (R293) -/
  bad : List Nat
  skipped : Nat
  /-- its publish of step 2 of R292 is done -/
  published : Bool
  /-- failure code and detail (R296) -/
  failed : Option (Nat × Word)
  /-- the stencil table as read at the start (R299) -/
  table : List Byte
  /-- LFLAT and LREBASE: the pages taken at the start for the new image (R269, R278) -/
  run : Option Nat
  /-- source granules as last read, each whole: of data 0, list 1, weights 2; address, bytes as a number, whether poisoned (R320) -/
  granules : List (Nat × Nat × Nat × Bool)
  /-- CP.M: pages moved and their new frames (R306, R419), and those of the frames that a retirement filled with poison (R414) -/
  moves : List (Nat × Nat)
  worn : List Nat
  /-- CP.L: when it has completed at the latest (R268) -/
  by_ : Option Nat
  /-- destination bytes of a network command and which of them are poisoned, known from the instance's start -/
  result : List Byte
  resultPoison : List Bool
  /-- follow-on as captured at issue (R243) -/
  follow : Option CubeCmd
  /-- lines of its engine region: line and write (R291, R337) -/
  marks : List (Nat × Bool)
  deriving DecidableEq, Repr

/-- A started network instance (R370, R375). -/
structure Instance where
  key : Nat × Nat × Word
  ids : List Nat
  /-- regions in which a reduction context is taken -/
  contexts : List RegionId
  deriving DecidableEq, Repr

/-- Where an increment comes from: a POST, a command's signal (the issuing core), or a remote add. -/
inductive MsgFrom where
  | post (core : Nat)
  | signal (core : Nat)
  /-- a remote add: its ordered flow, none under RUD (R366) -/
  | remote (flow : Option Nat)
  deriving DecidableEq, Repr

/-- An increment on its way to a mailbox counter (R174, R294, R364). -/
structure Msg where
  src : MsgFrom
  region : RegionId
  dst : Nat
  idx : BitVec 6
  add : BitVec 32
  /-- place of the router into whose kitty a gang switch has moved it, its own core's for the send queue (R40) -/
  kitty : Option Nat
  /-- when the last of the earlier stores of the core that POSTs it is performed: it is a release (R328) -/
  after : Nat
  deriving DecidableEq, Repr

/-- The plain write mark of one 64-byte line: WACT, WREG, WCORE, WQ with WREL, WNN (R337). The counts RCNT and ACNT are those
of the cores' access tables, EWN and ERN those of the commands' marks; see Machine/Order.lean. -/
structure LineMark where
  line : Nat
  wreg : RegionId
  wcore : Nat
  wq : Option (BitVec 32)
  wnn : Bool
  /-- when the store that set it was made (the model's own field): a release that takes effect later ends no mark set after it -/
  since : Nat
  deriving DecidableEq, Repr

/-- A cached translation of a sluice (R402): region, page base, size, physical base, and the stages passed. -/
structure Cached where
  /-- die and number of the sluice that keeps it (R9) -/
  die : Nat
  sluice : Nat
  region : RegionId
  vbase : Nat
  size : Nat
  pbase : Nat
  /-- the stages that the translation passed, from the region's own upward: the region, the address in its space that vbase
  stands for, and the permissions of its leaf (R400, R402) -/
  stages : List (RegionId × Nat × Nat)
  deriving DecidableEq, Repr

/-- A unit that serves requests by region (R354): the memory engine of a cluster, or a sluice of a die. -/
inductive EngineAt where
  | cluster (n : Nat)
  | sluice (die n : Nat)
  deriving DecidableEq, Repr

/-- A request that has found the queue of a unit full, or another one before it: its core and bytes, the core's deficit (R353), and
when it was last tried. -/
structure Ask where
  core : Nat
  bytes : Nat
  deficit : Nat
  tried : Nat
  deriving DecidableEq, Repr

/-- Such a unit: the requests under way, by region and the time until which each takes a place in its queue; the window of 1,024
ticks that runs, and the bytes served in it to each region (R32, R354); the requests that wait for the remainder, and the core served
last from it (R353). -/
structure MemEngine where
  unit : EngineAt
  waiting : List (RegionId × Nat)
  window : Nat
  served : List (RegionId × Nat)
  asks : List Ask
  last : Nat
  deriving DecidableEq, Repr

/-- A timed store of a core and when it becomes visible (R33, R201, R326), with the releases that take effect once it is performed,
and when each was made (R328). -/
structure Later where
  visible : Nat
  core : Nat
  place : Nat
  bytes : List Byte
  releases : List (Option (BitVec 32) × Nat)
  deriving DecidableEq, Repr

/-- Element loads of a VGATHER that count as issued at a time (R201): the core, the vector register, the lane width, and the
places of the elements by ascending lane. -/
structure Gather where
  due : Nat
  core : Nat
  dest : BitVec 4
  width : Nat
  places : List Nat
  /-- where the strip is appended to a bound write stream: when it lands, and its number among the results that land then -/
  append : Option (Nat × Nat)
  deriving DecidableEq, Repr

/-- A row of partial sums on its way to a ring (R229, R230). -/
structure Delivery where
  due : Nat
  /-- the TPART that sends it, 0 while that is stopped with a context (R242) -/
  cmd : Nat
  core : Nat
  /-- launch and workspace for which it is -/
  launch : Nat
  ws : Word
  tile : BitVec 3
  row : Nat
  bytes : List Byte
  /-- flags that its sums raise in the leader's CSAT (R128) -/
  fl : BitVec 8
  deriving DecidableEq, Repr

/-- State of a launch (R342). -/
inductive LState where
  | none | waiting | ready | loading | running | suspended | done | refused | void
  deriving DecidableEq, Repr

/-- A launch of a region (R19, R342, R347). -/
structure Launch where
  seq : Nat
  entry : Word
  image : Word
  /-- the space in which IMAGE is addressed: the caller's of RLAUNCH -/
  space : RegionId
  /-- the image keys as they stood when it was admitted (R429) -/
  keys : List (Nat × List Byte)
  args : List Word
  worst : Nat
  /-- td of R351 -/
  deadline : Option Nat
  tstart : Nat
  stack : Nat
  wsbase : Nat
  /-- counter (core, index) and target -/
  deps : List (Nat × BitVec 6 × BitVec 32)
  /-- Ld and c of R351 -/
  load : Nat
  cost : Nat
  /-- promised start and end (R351), for an admitted deadline launch -/
  promise : Nat × Nat
  /-- records entered for the image's `.lnt`: node index in the image and handle (R279) -/
  handles : List (Nat × Nat)
  /-- tokens of the earmark still unspent -/
  earmark : Nat
  state : LState
  code : Nat
  /-- it lost its deadline promise but runs on (R342) -/
  voided : Bool
  /-- order of becoming ready, and the tick in which it did -/
  order : Nat
  readyTick : Nat
  /-- participating cores -/
  cores : List Nat
  /-- when loading began, and the agreed start T, in ticks -/
  loadAt : Nat
  startAt : Nat
  /-- ticks up to which its tokens are settled -/
  settled : Nat
  superstep : Nat
  /-- when the watchdog's count began (R38), in ticks; held count while stopped -/
  boundary : Nat
  yield : Bool
  /-- gang stop of R391: Ts; whether it has been taken; resume Tr when known -/
  stopTs : Option Nat
  stopped : Bool
  resumeTr : Option Nat
  /-- contexts of a suspended launch (R356) -/
  saved : List Core
  deriving DecidableEq, Repr

/-- State of a region (RSTATE of R340). -/
inductive RState where
  | live | revoking | retired
  deriving DecidableEq, Repr

/-- A region with its live values (R340, R341). -/
structure Region where
  id : RegionId
  depth : Nat
  parent : RegionId
  state : RState
  /-- control block: the address, in the space of region `home` (the creator, or the region itself for the root) -/
  block : Nat
  home : RegionId
  prio : Nat
  dbgGang : Bool
  watchdog : Nat
  fdom : Nat
  weight : Nat
  tclass : Nat
  hmask : BitVec 32
  hvec : Word
  xroot : Nat
  ownLnt : Bool
  lntBase : Nat
  lntCap : Nat
  poolBase : Nat
  poolPages : Nat
  alog : Nat
  swap : Nat
  /-- live budget: what has been carved to the region and not carved on -/
  cores : Nat
  pages : Nat
  queue : Nat
  contexts : Nat
  res : Nat
  tokens : Nat
  /-- of these, taken now -/
  pagesUsed : Nat
  queueUsed : Nat
  contextsUsed : Nat
  /-- as carved at creation, for the return (R359) -/
  carved : List Nat
  borrow : Nat
  repay : Nat
  balance : Int
  marker : Nat
  earmark : Nat
  pool : Nat
  deficit : Nat
  lw : Nat
  lh : Nat
  /-- core map in map order; empty for the root, whose logical coordinates are the physical ones (R432) -/
  cmap : List Nat
  seq : Nat
  launches : List Launch
  /-- code of the most recent RLAUNCH, when it was refused (R342) -/
  refused : Option Nat
  /-- Ts of a revocation, the revoking core, and the inner revocations it took over (R394, R395) -/
  revokeTs : Option Nat
  revoker : Option Nat
  /-- image addresses of which the dealer has written .rcb (R355) -/
  placed : List Word
  /-- physical pages of which the first access raises LOSTPAGE (R404) -/
  lost : List Nat
  deriving DecidableEq, Repr

/-- A request to the dealer whose answer has not landed (R345, R394). -/
structure Request where
  core : Nat
  due : Nat
  /-- 0 RCREATE, 1 RLAUNCH, 2 RREVOKE -/
  op : Nat
  addr : Nat
  arg : Word
  issued : Nat
  deriving DecidableEq, Repr

/-- A snapshot of lineage nodes that a command reads (R266): indices of its table's records. -/
structure Snapshot where
  owner : Nat
  /-- of an LPROD stopped with its context: core, launch, workspace and number of its saved entry (R277) -/
  home : Option (Nat × Nat × Word × Nat)
  table : RegionId
  nodes : List Nat
  /-- record bytes and image bytes as of the snapshot -/
  records : List (Nat × List Byte)
  images : List (Nat × List Byte)
  /-- poisoned granules, and those that do not translate: record, number of the granule in its image -/
  poison : List (Nat × Nat)
  lost : List (Nat × Nat)
  /-- granules whose block arrived with a guard tag that did not fit: record, granule, block (R324) -/
  torn : List (Nat × Nat × Nat)
  deriving DecidableEq, Repr

/-- A run of delta-pool pages in use (R278): table, record whose image it holds, first page of the pool, length, region
charged. -/
structure PoolRun where
  table : RegionId
  node : Nat
  first : Nat
  len : Nat
  owner : RegionId
  deriving DecidableEq, Repr

/-- Phase of the device (R424, R428). -/
inductive Phase where
  | powerOn | running | safe
  deriving DecidableEq, Repr

/-- A die that is not as at power-on: core period in twelfths of a tick, junction temperature, stopped by heat (R433,
R434). -/
structure Die where
  id : Nat
  period : Nat
  temp : Nat
  stopped : Bool
  deriving DecidableEq, Repr

/-- A base die and its stack (R410-R413). -/
structure Stack where
  /-- layer temperatures in degrees, and refresh intervals in nanoseconds -/
  temps : List Nat
  intervals : List Nat
  /-- last heartbeat, in ticks, and the intervals that the layers had then (R412) -/
  heartbeat : Nat
  beat : List Nat
  takeover : Bool
  /-- the management core of the base die has stopped -/
  dead : Bool
  /-- last granule that the patrol scrubber read, the granules that were corrected in this pass, and when the pass began, in ticks
  (R413, R414) -/
  patrol : Nat
  fixed : List Nat
  passAt : Nat
  deriving DecidableEq, Repr

/-- A CXL link (R415, R422, R423). -/
structure Link where
  /-- extents that stand added: first 256-MiB unit and count -/
  extents : List (Nat × Nat)
  isolated : Bool
  /-- when the first request that its expander has left unanswered was sent (R422) -/
  asked : Option Nat
  /-- pages with a write pending -/
  writing : List Nat
  deriving DecidableEq, Repr

/-- An entry of the attestation log (R430). -/
structure LogEntry where
  kind : Nat
  keyid : List Byte
  digest : List Byte
  deriving DecidableEq, Repr

/-- A host window (R362). -/
structure HostWindow where
  base : Nat
  length : Nat
  key : BitVec 32
  region : RegionId
  tclass : Nat
  counter : Bool
  perm : BitVec 3
  deriving DecidableEq, Repr

/-- The calibration record of R426: the training results, the readings of the sensors, and its CRC-32C. -/
structure Calibration where
  training : List Byte
  readings : List Nat
  crc : BitVec 32
  deriving DecidableEq, Repr

/-- A hardware fault (R435): the clock of a die has stopped, or a core is out of reach. -/
inductive HardFault where
  | clockStop (die : Nat)
  | linkLoss (core : Nat)
  deriving DecidableEq, Repr

/-- What happened that telemetry records. -/
inductive Telemetry where
  /-- a packet that uses an unsupported part of UET, or that arrives in safe mode (R360, R428) -/
  | droppedPacket (port : Nat)
  /-- a trap of the root that no region handles: core, cause and XVAL (R387) -/
  | rootTrap (core : Nat) (cause xval : Word)
  | takeover (stack : Nat)
  | decoderStop (page : Nat) (code : Nat)
  | clockStop (die : Nat)
  | clockResume (die : Nat)
  | hardwareFault (fault : HardFault) (fdom : Nat) (regions : List RegionId)
  | startFailed (stage : Nat)
  deriving DecidableEq, Repr

/-- The device around the cores (R360-R362, R410-R423, R424-R436). -/
structure Device where
  phase : Phase
  failures : Nat
  calibration : Option Calibration
  /-- public keys of entries 1-15; entry 0 is fixed at manufacture (R429) -/
  keys : List (Nat × List Byte)
  firmware : List (Nat × List Byte)
  rootImage : List Byte
  log : List LogEntry
  running : List Byte
  /-- the 32 Ultra Ethernet ports: the packets that each has dropped (R360) -/
  ports : Vector Nat 32
  dies : List Die
  baseDies : Vector Stack 16
  links : Vector Link 8
  freeHbm : List Nat
  freeCap : List Nat
  telemetry : List Telemetry
  windows : List (Nat × HostWindow)
  /-- peer groups: number, own rank, region of each package (R369) -/
  peers : List (Nat × Nat × List RegionId)
  /-- packages that cannot be reached: peer group and rank (R374) -/
  lostPeers : List (Nat × Nat)
  transportKeys : List (Nat × List Byte)
  deriving DecidableEq, Repr

/-- Why a remote operation fails (R365). -/
inductive RemoteFailure where
  /-- the key is unknown, or the window is of the other kind -/
  | key
  /-- PERM lacks the operation -/
  | perm
  /-- an atomic is not aligned to its size -/
  | align
  /-- a byte outside LENGTH, or a counter outside the region -/
  | bounds
  /-- the region is not live -/
  | region
  /-- translation fails at a sluice, or a log cannot be reached (R316) -/
  | translation
  /-- the data fail their guard tag (R324) -/
  | integrity
  /-- an expander does not answer (R422) -/
  | timeout
  deriving DecidableEq, Repr

/-- What the device sends out of the package. -/
inductive Reply where
  | ack
  /-- a negative acknowledgement, which names the failure -/
  | nack (why : RemoteFailure)
  | poisonedData
  | data (bs : List Byte)
  | word (w : Word)
  /-- telemetry, the packets that each port has dropped, and the count of failed starts (R360, R428) -/
  | telemetry (ts : List Telemetry) (dropped : List Nat) (failures : Nat)
  | attestation (log : List LogEntry) (running : List Byte) (nonce : List Byte) (signature : List Byte)
  | accepted
  | refused
  deriving DecidableEq, Repr

/-- A remote operation that has not yet been answered: the lines of its engine region, and the answer (R363); where an expander has
left its request unanswered, the link, whose isolation ends it (R422). -/
structure RemoteOp where
  flow : Option Nat
  marks : List (Nat × Bool)
  answer : Reply
  silent : Option Nat
  deriving DecidableEq, Repr

/-- What the root's system software does to a free store of pages (R408): a frame of HBM5 or of the capacity tier goes in or out. -/
structure StoreOrder where
  hbm : Bool
  fill : Bool
  frame : Nat
  deriving DecidableEq, Repr

/-- A Rammor package. -/
structure State where
  /-- the core whose turn it is -/
  core : Core
  /-- the other cores, by ascending place; a core not listed is as at power-on -/
  others : List Core
  /-- time in twelfths of a tick; CTIME is its whole ticks (R13, R14) -/
  now : Nat
  /-- number of free values drawn so far (the model's own field) -/
  free : Nat
  /-- all memory, by place (Machine/Memory.lean); an unlisted byte reads as zero -/
  mem : List Host.Cell
  /-- scrub-pending lines: first line and count (R396) -/
  scrub : List (Nat × Nat)
  /-- poisoned 64-byte granules (R407) -/
  poison : List Nat
  /-- physical pages whose frame is not their own (R319, R404, R419) -/
  remap : List (Nat × Nat)
  /-- VERSION of physical pages whose version is not 0 (R324) -/
  versions : List (Nat × Nat)
  /-- frames that hold a compressed page, each with the bytes that the tier stores for it (R416, R418) -/
  compressed : List (Nat × Nat)
  /-- number of the next fresh frame -/
  nextFrame : Nat
  tcache : List Cached
  /-- memory engines of clusters and sluices that have served requests in their running window (R354) -/
  engines : List MemEngine
  marks : List LineMark
  /-- barrier words and status objects: place and length, from the issue of a command that names them until a core stores to
  them (R325) -/
  objects : List (Nat × Nat)
  later : List Later
  /-- by ascending time -/
  gathers : List Gather
  /-- by ascending time -/
  deliveries : List Delivery
  groups : List Group
  /-- unfinished engine commands, in the order of issue -/
  cmds : List EngCmd
  nextId : Nat
  pubs : List PubGroup
  /-- barriers that changed in this cycle (R314), and the command and batch of the last arrival at each (R313) -/
  judge : List BarRef
  arrivals : List (BarRef × Nat × Nat)
  instances : List Instance
  msgs : List Msg
  /-- remote operations under way, oldest first (R363) -/
  remotes : List RemoteOp
  snaps : List Snapshot
  runs : List PoolRun
  /-- records that wait for the housekeeper: ghosts of which CHILDREN changed, and records that are FREEING (R257, R273) -/
  housework : List (RegionId × Nat)
  regions : List Region
  requests : List Request
  /-- pages of which a retirement has lost bytes: a region that is created later meets LOSTPAGE on them, too (R404) -/
  lostPages : List Nat
  /-- images that the dealer holds as verified: physical page, VERSION, address in page, number of the key (R345, R429) -/
  verified : List (Nat × Nat × Nat × Nat)
  /-- last region served by the choice of R353 -/
  served : RegionId
  /-- number of the last deal done: CTIME div 200,000 (R349) -/
  dealt : Nat
  /-- count of launches that became ready -/
  readied : Nat
  /-- the root's arrival logs: core, counter, sum (R432) -/
  rootLogs : List (Nat × BitVec 6 × BitVec 32)
  device : Device
  /-- what the outside will do, in its order -/
  inputs : List Instr
  /-- what the root's system software will do to the free stores, in its order (R408): like `inputs`, what will happen to the machine -/
  stores : List StoreOrder
  /-- what the sensors of the dies will read, in its order: die and degrees (R434): like `inputs`, what will happen to the machine -/
  sensors : List (Nat × Nat)
  /-- 256-byte blocks by place, those of physical memory under the number of their page, each with the guard tag that arrives with its
  next crossing to a consumer where a fault has changed it (R324): like `inputs`, what will happen to the machine -/
  corrupt : List (Nat × BitVec 80)
  /-- what the device has sent out, newest first -/
  outbox : List Reply
  deriving DecidableEq, Repr

/-- Where the model stops without a next state. -/
inductive Fault where
  /-- stands for a translation of more than the eight stages of R400, which no live region has. No step raises it: the spec
  gives every instruction and event an effect, a trap included. Safe. -/
  | tooManyStages
  deriving DecidableEq, Repr

/-- What the model refuses, by name. -/
inductive Refusal where
  /-- raised by `exec` for an instruction without a meaning; safe -/
  | notModelled (mnemonic : String)
  /-- raised by an event of the opcode table whose precondition does not hold: such an event does not happen. Safe: `step`
  takes enabled events only. -/
  | notEnabled (event : String)
  deriving DecidableEq, Repr

/-- A suit of no members: CSUIT = 0 (R23). -/
def Suit.idle : Suit := ⟨false, 0, 0, 0⟩

/-- No interrupt pending (R380). -/
def Pending.empty : Pending := ⟨.none, .none, [], .none, .none, []⟩

/-- A core before any launch: the values of R21 (log 2). -/
def Core.reset (pos : Nat) : Core where
  pos := pos
  g := Vector.replicate 32 0
  v := Vector.replicate 16 0
  m := Vector.replicate 8 0
  t := Vector.replicate 8 0
  vtag := Vector.replicate 16 0
  ttag := Vector.replicate 8 0
  pc := 0
  cwp := 0x1C000
  xpc := 0
  xcause := 0
  xval := 0
  xscratch := 0
  timed := false
  inh := false
  dbg := false
  cseg := 0
  segFrom := 0
  crb := 16
  csat := 0
  crnd := 0
  suit := Suit.idle
  cbatch := 0
  lx := 0
  ly := 0
  lw := 0
  lh := 0
  counters := Vector.replicate 64 0
  gs := Vector.replicate 8 none
  vs := Vector.replicate 4 none
  windows := []
  flagsDue := []
  refetch := none
  half := none
  draining := false
  stopped := false
  late := 0
  popped := []
  status := .idle
  readyAt := 0
  ract := false
  rtile := 0
  rfull := 0
  follow := []
  lead := none
  access := []
  batches := []
  pending := Pending.empty
  broken := false
  held := false
  park := Vector.replicate 64 0
  launch := 0
  posted := []
  reflecting := none

/-- A group as at power-on: codebook slots +0 (R235), tag table clear (R161). -/
def Group.reset (id : Nat) : Group where
  id := id
  tags := []
  codebook := Vector.replicate 4 (Vector.replicate 16 0)
  pairs := []
  queue := []
  last := 0
  banks := []

/-- The device at power-on, before the first start (R424; logs 4, 5). -/
def Device.reset : Device where
  phase := .powerOn
  failures := 0
  calibration := none
  keys := []
  firmware := []
  rootImage := []
  log := []
  running := List.replicate 64 0
  ports := Vector.replicate 32 0
  dies := []
  baseDies := Vector.replicate 16 ⟨[], [], 0, [], false, false, 0, [], 0⟩
  links := Vector.replicate 8 ⟨[], false, none, []⟩
  freeHbm := []
  freeCap := []
  telemetry := []
  windows := []
  peers := []
  lostPeers := []
  transportKeys := []

/-- The machine right after reset: power-on, before the cold start of R424 has run its stages. No region exists, no core
issues; every register has the value of R21 (log 2), and no memory is listed (log 3). -/
def State.reset : State where
  core := Core.reset 0
  others := []
  now := 0
  free := 0
  mem := []
  scrub := []
  poison := []
  remap := []
  versions := []
  compressed := []
  nextFrame := 2 ^ 32
  tcache := []
  engines := []
  marks := []
  objects := []
  later := []
  gathers := []
  deliveries := []
  groups := []
  cmds := []
  nextId := 1
  pubs := []
  judge := []
  arrivals := []
  instances := []
  msgs := []
  remotes := []
  snaps := []
  runs := []
  housework := []
  regions := []
  requests := []
  lostPages := []
  verified := []
  served := 0
  dealt := 0
  readied := 0
  rootLogs := []
  device := Device.reset
  inputs := []
  stores := []
  sensors := []
  corrupt := []
  outbox := []

end Sys2Proof.Machine
end

