-- ==== Sys2Proof/Machine/Memory.lean ====
section
/-! DEFINITION. Memory as one list of bytes by place, the mesh (R7, R10), the owner of a core (R17), and the parts of the
state that are found by number. A place is a byte of a core's local memory, of a group's scratchpad, or of a frame of
physical memory. -/

namespace Sys2Proof.Machine

/-- The byte at a place; a place that is not listed reads as zero (log 3). -/
def Memory.get : List Host.Cell → Nat → Byte
  | [], _ => 0
  | (k, b) :: r, a => if k < a then Memory.get r a else if k = a then b else 0

/-- Writing a byte. A zero removes the entry, so that equal memories are equal lists. -/
def Memory.set : List Host.Cell → Nat → Byte → List Host.Cell
  | [], a, b => if b = 0 then [] else [(a, b)]
  | (k, c) :: r, a, b =>
    if k < a then (k, c) :: Memory.set r a b
    else if k = a then (if b = 0 then r else (a, b) :: r)
    else (if b = 0 then (k, c) :: r else (a, b) :: (k, c) :: r)

/-- Canonical from a lowest admissible place on: places strictly rising, no zero listed. -/
def Memory.wfFrom : Nat → List Host.Cell → Bool
  | _, [] => true
  | lo, (k, b) :: r => decide (lo ≤ k) && decide (b ≠ 0) && Memory.wfFrom (k + 1) r

/-- The canonical form of a memory. -/
def Memory.wf (m : List Host.Cell) : Bool := Memory.wfFrom 0 m

/-! ## The mesh -/

/-- x of a place in the mesh (R10). -/
def meshX (pos : Nat) : Nat := pos % 256
/-- y of a place in the mesh. -/
def meshY (pos : Nat) : Nat := pos / 256
/-- The place at (x, y). -/
def meshAt (x y : Nat) : Nat := y * 256 + x
/-- Physical mesh distance (R33). -/
def meshDist (p q : Nat) : Nat :=
  (meshX p - meshX q) + (meshX q - meshX p) + (meshY p - meshY q) + (meshY q - meshY p)
/-- Number dy·8 + dx of a core's die (R9, R10). -/
def dieOf (pos : Nat) : Nat := meshY pos / 24 * 8 + meshX pos / 32
/-- A core's group, numbered over the package. -/
def groupOf (pos : Nat) : Nat := meshY pos / 4 * 64 + meshX pos / 4
/-- Group position (R10). -/
def groupPos (pos : Nat) : Nat := meshY pos % 4 * 4 + meshX pos % 4
/-- The core at a position of a group. -/
def groupCore (grp q : Nat) : Nat := meshAt (grp % 64 * 4 + q % 4) (grp / 64 * 4 + q / 4)
/-- Core index in its cluster (R10). -/
def clusterIndex (pos : Nat) : Nat := meshY pos % 12 * 16 + meshX pos % 16
/-- The core of index i in the cluster of a core. -/
def clusterCore (pos i : Nat) : Nat := meshAt (meshX pos / 16 * 16 + i % 16) (meshY pos / 12 * 12 + i / 16)
/-- Group in cluster (R10). -/
def clusterGroupIndex (pos : Nat) : Nat := meshY pos % 12 / 4 * 4 + meshX pos % 16 / 4
/-- The group of number j in the cluster of a core. -/
def clusterGroup (pos j : Nat) : Nat := (meshY pos / 12 * 3 + j / 4) * 64 + (meshX pos / 16 * 4 + j % 4)
/-- Number of core places (R7). -/
def meshSize : Nat := 49152

/-! ## Places -/

/-- Place of a byte of a core's local memory. -/
def localPlace (pos a : Nat) : Nat := pos * 2 ^ 17 + a
/-- Place of a byte of a group's scratchpad. -/
def spadPlace (grp off : Nat) : Nat := 2 ^ 34 + grp * 2 ^ 22 + off
/-- Place of a byte of a frame. -/
def framePlace (f off : Nat) : Nat := 2 ^ 36 + f * 2 ^ 16 + off

/-! ## Things found by number -/

/-- Value under a key, or a default. -/
def alookup (d : Nat) : List (Nat × Nat) → Nat → Nat
  | [], _ => d
  | (k, v) :: r, a => if k = a then v else alookup d r a

/-- Set the value under a key, keys ascending. -/
def ainsert : List (Nat × α) → Nat → α → List (Nat × α)
  | [], a, v => [(a, v)]
  | (k, w) :: r, a, v => if k < a then (k, w) :: ainsert r a v else if k = a then (a, v) :: r else (a, v) :: (k, w) :: r

/-- Put an element into a list that ascends by a key, in place of one with the same key. -/
def putBy (key : α → Nat) (x : α) : List α → List α
  | [] => [x]
  | y :: r => if key y < key x then y :: putBy key x r else if key y = key x then x :: r else x :: y :: r

/-- The core at a place. -/
def State.coreAt (s : State) (pos : Nat) : Core :=
  if s.core.pos = pos then s.core else (s.others.find? (fun c => c.pos == pos)).getD (Core.reset pos)

/-- Change the core at a place. -/
def State.modCore (s : State) (pos : Nat) (f : Core → Core) : State :=
  if s.core.pos = pos then { s with core := f s.core }
  else { s with others := putBy Core.pos (f (s.coreAt pos)) s.others }

/-- Make the core at a place the one whose turn it is. -/
def State.turn (s : State) (pos : Nat) : State :=
  if s.core.pos = pos then s
  else { s with core := s.coreAt pos, others := putBy Core.pos s.core (s.others.filter (fun c => c.pos != pos)) }

/-- Every core that is not as at power-on. -/
def State.cores (s : State) : List Core := s.core :: s.others

/-- A group by number. -/
def State.groupAt (s : State) (id : Nat) : Group := (s.groups.find? (fun g => g.id == id)).getD (Group.reset id)

/-- Change a group. -/
def State.modGroup (s : State) (id : Nat) (f : Group → Group) : State :=
  { s with groups := putBy Group.id (f (s.groupAt id)) s.groups }

/-- A region that exists. -/
def State.region? (s : State) (id : RegionId) : Option Region := s.regions.find? (fun r => r.id == id)

/-- Change a region. -/
def State.modRegion (s : State) (id : RegionId) (f : Region → Region) : State :=
  { s with regions := s.regions.map (fun r => if r.id == id then f r else r) }

/-- Whether a region's core map names a core; the root's names all (R432). -/
def Region.maps (r : Region) (pos : Nat) : Bool :=
  if r.id == 1 then decide (pos < meshSize) else r.cmap.contains pos

/-- The deepest of some regions that maps a core. -/
def ownerIn (pos : Nat) : List Region → RegionId × Nat → RegionId × Nat
  | [], best => best
  | r :: rs, best =>
    if r.state != .retired && r.maps pos && (best.1 == 0 || decide (best.2 < r.depth)) then ownerIn pos rs (r.id, r.depth)
    else ownerIn pos rs best

/-- The region a core belongs to (R17); 0 before any region exists (R16). -/
def State.owner (s : State) (pos : Nat) : RegionId := (ownerIn pos s.regions (0, 0)).1

/-- The region to which a group's scratchpad, tag table and codebook are assigned: that of its core at position 0 (R355). -/
def State.assigned (s : State) (grp : Nat) : RegionId := s.owner (groupCore grp 0)

/-- Index of a core in its region's core map (R340). -/
def Region.indexOf (r : Region) (pos : Nat) : Nat :=
  if r.id == 1 then pos else r.cmap.idxOf pos

/-- The core at an index of the map. -/
def Region.coreOf (r : Region) (i : Nat) : Nat :=
  if r.id == 1 then i else r.cmap.getD i 0

/-- The core at logical (lx, ly), when inside the rectangle. -/
def Region.at? (r : Region) (lx ly : Nat) : Option Nat :=
  if lx ≤ r.lw ∧ ly ≤ r.lh then some (r.coreOf (ly * (r.lw + 1) + lx)) else none

/-- Logical coordinates of a core of the map. -/
def Region.logical (r : Region) (pos : Nat) : Nat × Nat :=
  (r.indexOf pos % (r.lw + 1), r.indexOf pos / (r.lw + 1))

/-- The supervising core (R17). -/
def Region.supervisor (r : Region) : Nat := r.coreOf 0

/-- Core period of a core's die, in twelfths of a tick (R433). -/
def State.period (s : State) (pos : Nat) : Nat :=
  ((s.device.dies.find? (fun d => d.id == dieOf pos)).map Die.period).getD 12

/-- The first edge of a clock at or after a time. DESIGN CHOICE (log 85): the cycles of a die begin at the multiples of its period. -/
def edgeFrom (period t : Nat) : Nat := (t + period - 1) / period * period

/-- The first edge of a clock after a time: the start of the cycle after the one in which that time lies. -/
def edgeAfter (period t : Nat) : Nat := (t / period + 1) * period

/-- Some dies run at 2.0 GHz from now on: a timed segment, or a deadline launch, holds the core clock there (R46, R433). -/
def State.fastDies (s : State) (which : Nat → Bool) : State :=
  { s with device := { s.device with dies := s.device.dies.map (fun d => if which d.id then { d with period := 12 } else d) } }

/-- Every die runs at 2.0 GHz: TBEGIN holds the core clock there (R46, R358, R433). -/
def State.fullClock (s : State) : State := s.fastDies (fun _ => true)

/-- CTIME as a count of ticks (R13). -/
def State.ticks (s : State) : Nat := s.now / 12

/-! ## Bytes -/

/-- Whether a line is scrub-pending (R396). -/
def scrubbed (line : Nat) : List (Nat × Nat) → Bool
  | [] => false
  | (a, n) :: r => (decide (a ≤ line) && decide (line < a + n)) || scrubbed line r

/-- Take one line out of all pending ranges. -/
def unscrub (line : Nat) : List (Nat × Nat) → List (Nat × Nat)
  | [] => []
  | (a, n) :: r =>
    if a ≤ line ∧ line < a + n then
      (if a < line then [(a, line - a)] else []) ++ (if line + 1 < a + n then [(line + 1, a + n - line - 1)] else []) ++
        unscrub line r
    else (a, n) :: unscrub line r

/-- The byte at a place. A scrub-pending line reads zero (R396). -/
def State.getByte (s : State) (p : Nat) : Byte := if scrubbed (p / 64) s.scrub then 0 else Memory.get s.mem p

/-- n bytes from a place on. -/
def State.getBytes (s : State) (p n : Nat) : List Byte := (List.range n).map (fun i => s.getByte (p + i))

/-- n bytes from a place on as a little-endian number. -/
def State.getNat (s : State) (p n : Nat) : Nat := leNat (s.getBytes p n)

/-- Zero n bytes from a place on. -/
def zeroBytes (m : List Host.Cell) (p : Nat) : Nat → List Host.Cell
  | 0 => m
  | n + 1 => zeroBytes (Memory.set m (p + n) 0) p n

/-- End a line's pending state by zeroing it (R396). -/
def State.cleanLine (s : State) (line : Nat) : State :=
  if scrubbed line s.scrub then { s with scrub := unscrub line s.scrub, mem := zeroBytes s.mem (line * 64) 64 } else s

/-- Write a byte. -/
def State.setByte (s : State) (p : Nat) (b : Byte) : State :=
  let t := s.cleanLine (p / 64)
  { t with mem := Memory.set t.mem p b }

/-- Write bytes from a place on. -/
def State.setBytes (s : State) (p : Nat) : List Byte → State
  | [] => s
  | b :: bs => (s.setByte p b).setBytes (p + 1) bs

/-- Write the low n bytes of a number. -/
def State.setNat (s : State) (p n v : Nat) : State := s.setBytes p (leBytes n v)

/-- Frame of a physical page (R319, R404, R419). -/
def State.frame (s : State) (page : Nat) : Nat := alookup page s.remap page

/-- VERSION of a physical page (R324). -/
def State.version (s : State) (page : Nat) : Nat := alookup 0 s.versions page

/-- Map a page to a frame and raise its VERSION (R324). -/
def State.remapPage (s : State) (page frame : Nat) : State :=
  { s with remap := ainsert s.remap page frame, versions := ainsert s.versions page ((s.version page + 1) % 2 ^ 16) }

/-- Place of a physical address. -/
def State.physPlace (s : State) (pa : Nat) : Nat := framePlace (s.frame (pa / 2 ^ 16)) (pa % 2 ^ 16)

/-- Copy a frame with its poison. -/
def State.copyFrame (s : State) (src dst : Nat) : State :=
  let t := s.setBytes (framePlace dst 0) (s.getBytes (framePlace src 0) 65536)
  let lo := framePlace src 0 / 64
  let moved := (s.poison.filter (fun g => decide (lo ≤ g) && decide (g < lo + 1024))).map (fun g => g - lo + framePlace dst 0 / 64)
  { t with poison := moved ++ t.poison.filter (fun g => decide (g < framePlace dst 0 / 64) || decide (framePlace dst 0 / 64 + 1024 ≤ g)) }

/-- Whether a granule is poisoned (R407). -/
def State.poisoned (s : State) (place : Nat) : Bool := s.poison.contains (place / 64)

/-- Mark a granule poisoned. -/
def State.poisonGranule (s : State) (place : Nat) : State :=
  if s.poisoned place then s else { s with poison := place / 64 :: s.poison }

/-- A write that covers whole granules clears their marks (log 9). -/
def State.healed (s : State) (p n : Nat) : State :=
  { s with poison := s.poison.filter (fun g => !(decide (p ≤ g * 64) && decide (g * 64 + 64 ≤ p + n))) }

/-- Make lines scrub-pending (R396): they read zero, and carry no poison. -/
def State.release (s : State) (place bytes : Nat) : State :=
  { s.healed place bytes with scrub := (place / 64, bytes / 64) :: s.scrub }

/-- The physical address of a page of the capacity tier, its link (R406). -/
def linkOf (page : Nat) : Option Nat :=
  if 2 ^ 30 ≤ page ∧ page < 2 ^ 30 + 8 * 2 ^ 27 then some ((page - 2 ^ 30) / 2 ^ 27) else none

/-- Change the device. -/
def State.modDevice (s : State) (f : Device → Device) : State := { s with device := f s.device }

/-- Telemetry. -/
def State.record (s : State) (t : Telemetry) : State := s.modDevice (fun d => { d with telemetry := t :: d.telemetry })

/-- A link by number. -/
def State.linkAt (s : State) (l : Nat) : Link := s.device.links.toList.getD l ⟨[], false, none, []⟩

/-- Change a link. -/
def State.modLink (s : State) (l : Nat) (f : Link → Link) : State :=
  s.modDevice (fun d => { d with links := d.links.mapIdx (fun i x => if i = l then f x else x) })

/-- Whether a physical page exists (R406): in HBM5, in an extent that stands added, or moved out of a released one (R415). -/
def State.pageExists (s : State) (page : Nat) : Bool :=
  if page < 16 * 0x180000 then true
  else if s.frame page ≠ page then true
  else match linkOf page with
    | some l =>
      let unit := (page - 2 ^ 30) % 2 ^ 27 / 4096
      (s.linkAt l).extents.any (fun e => decide (e.1 ≤ unit) && decide (unit < e.1 + e.2))
    | none => false

/-- Whether a frame lies behind an isolated expander (R422). -/
def State.frameIsolated (s : State) (frame : Nat) : Bool :=
  match linkOf frame with
  | some l => (s.linkAt l).isolated
  | none => false

/-- A block with a guard tag that does not fit has been reported: it is not retried (R324). -/
def State.untear (s : State) (block : Nat) : State := { s with corrupt := s.corrupt.filter (fun e => e.1 != block) }

/-- Draw a free value (log 1). -/
def State.draw (s : State) : Nat × State := (Config.freeNat s.free, { s with free := s.free + 1 })

end Sys2Proof.Machine
end

