-- ==== Sys2Proof/Machine/Tier.lean ====
section
/-! DEFINITION. The capacity tier's pages (R416-R420): the compressed format, promotion, and memory as the device itself reads and
writes it. -/

namespace Sys2Proof.Machine

/-- Bytes off to off + n - 1 of an image, as a number. -/
def slice (img : List Byte) (off n : Nat) : Nat := leNat ((img.drop off).take n)

/-- n zero bytes. -/
def zeros (n : Nat) : List Byte := List.replicate n 0

/-! ## The format (R417, R418) -/

/-- Lines of a chunk from its header and payload bytes (R417); none at the first violation (R418). -/
def expandLines (header : Nat) : Nat → Nat → List Byte → Option (List Byte × List Byte)
  | 0, _, bs => some ([], bs)
  | n + 1, j, bs =>
    let step (line : List Byte) (rest : List Byte) := (expandLines header n (j + 1) rest).map (fun e => (line ++ e.1, e.2))
    match header / 2 ^ (2 * j) % 4 with
    | 0 => step (zeros 64) bs
    | 1 => if bs.length < 8 then none else step ((List.replicate 8 (bs.take 8)).flatten) (bs.drop 8)
    | 2 => if bs.length < 64 then none else step (bs.take 64) (bs.drop 64)
    | _ => none

/-- One chunk: its stored length, and the bytes of the page from its start on. Answers the 4,096 bytes or the code of R418. -/
def expandChunk (len : Nat) (bs : List Byte) : Except Nat (List Byte) :=
  if len < 16 ∨ 4112 < len ∨ bs.length < len then .error 2
  else
    let header := leNat (bs.take 16)
    if (List.range 64).any (fun j => header / 2 ^ (2 * j) % 4 == 3) then .error 1
    else match expandLines header 64 0 ((bs.take len).drop 16) with
      | some (out, []) => .ok out
      | _ => .error 2

/-- The chunks of a compressed page in order, of which so many bytes are stored (R417). -/
def expandChunks (stored : Nat) (img : List Byte) : Nat → Nat → Nat → Except Nat (List Byte)
  | 0, _, _ => .ok []
  | n + 1, i, off =>
    let len := slice img (2 * i) 2
    match expandChunk len ((img.take stored).drop off) with
    | .error e => .error e
    | .ok out => match expandChunks stored img n (i + 1) ((off + len + 15) / 16 * 16) with
      | .error e => .error e
      | .ok rest => .ok (out ++ rest)

/-- The 64 KiB of a compressed page, or the code of the first violation (R417, R418). -/
def expandPage (stored : Nat) (img : List Byte) : Except Nat (List Byte) := expandChunks stored img 16 0 64

/-- The code and payload of a line (R417). -/
def packLine (l : List Byte) : Nat × List Byte :=
  if l.all (fun b => b == 0) then (0, [])
  else if l == (List.replicate 8 (l.take 8)).flatten then (1, l.take 8)
  else (2, l)

/-- A chunk of 64 lines (R417). -/
def packChunk (bs : List Byte) : List Byte :=
  let ls := (List.range 64).map (fun j => packLine ((bs.drop (64 * j)).take 64))
  leBytes 16 ((List.range 64).foldl (fun a j => a + (ls.getD j (0, [])).1 * 2 ^ (2 * j)) 0) ++ ls.flatMap Prod.snd

/-- The compressed image of a page (R417). -/
def packPage (bs : List Byte) : List Byte :=
  let cs := (List.range 16).map (fun i => packChunk ((bs.drop (4096 * i)).take 4096))
  cs.flatMap (fun c => leBytes 2 c.length) ++ zeros 32 ++
    cs.flatMap (fun c => c ++ zeros ((16 - c.length % 16) % 16))

/-! ## Compressed pages (R416, R418, R420) -/

/-- Whether a frame holds a compressed page. -/
def State.isCompressed (s : State) (f : Nat) : Bool := s.compressed.any (fun e => e.1 == f)

/-- The bytes that the tier stores for the page in a frame. -/
def State.storedBytes (s : State) (f : Nat) : Nat := alookup 0 s.compressed f

/-- The 64 KiB of the compressed page in a frame, or the code of R418. -/
def State.expanded (s : State) (f : Nat) : Except Nat (List Byte) :=
  expandPage (s.storedBytes f) (s.getBytes (framePlace f 0) (s.storedBytes f))

/-- A frame takes the 64 KiB of a page: where the decoder stopped, every granule is poisoned, and telemetry has the code
(R418). -/
def State.layInto (s : State) (page dst : Nat) : Except Nat (List Byte) → State
  | .ok bs => (s.setBytes (framePlace dst 0) bs).healed (framePlace dst 0) 65536
  | .error code => ((List.range 1024).foldl (fun u i => u.poisonGranule (framePlace dst (64 * i))) s).record (.decoderStop page code)

/-- Promote a compressed page, expanded so, into a free HBM5 frame and publish its mapping (R420); none when no frame is free. -/
def State.promoteAs (s : State) (page : Nat) (r : Except Nat (List Byte)) : Option State :=
  match s.device.freeHbm with
  | [] => none
  | f :: fs =>
    let old := s.frame page
    let t := { s with device := { s.device with freeHbm := fs } }.layInto page f r
    let u := { t with compressed := t.compressed.filter (fun e => e.1 != old),
                      device := { t.device with freeCap := old :: t.device.freeCap } }
    some ((u.release (framePlace old 0) 65536).remapPage page f)

/-- Promote a compressed page (R420). -/
def State.promotePage (s : State) (page : Nat) : Option State := s.promoteAs page (s.expanded (s.frame page))

/-- Whether a CP.M is promoting a page: accesses that meet it wait for it (R420). -/
def State.promoting (s : State) (page : Nat) : Bool := s.cmds.any (fun c => c.failed.isNone && c.moves.any (fun m => m.1 == page))

/-! ## The device's own accesses -/

/-- Bytes of one page as the device itself reads them, a compressed page expanded: none behind an isolated expander (R422), and of a
page that the decoder stops at. -/
def State.readPhys (s : State) (pa n : Nat) : Option (List Byte) :=
  let f := s.frame (pa / 2 ^ 16)
  if s.frameIsolated f then none
  else if s.isCompressed f then
    match s.expanded f with
    | .ok bs => some ((bs.drop (pa % 2 ^ 16)).take n)
    | .error _ => none
  else some (s.getBytes (s.physPlace pa) n)

/-- A page as the device itself finds it to write in place: promoted where it is compressed. DESIGN CHOICE (log 88): with no HBM5
frame free, the device takes a spare one. -/
def State.opened (s : State) (page : Nat) : State :=
  if s.isCompressed (s.frame page) then
    let t := if s.device.freeHbm.isEmpty then { s with nextFrame := s.nextFrame + 1, device := { s.device with freeHbm := [s.nextFrame] } } else s
    (t.promotePage page).getD t
  else s

/-- The device writes a byte; none is written behind an isolated expander (R422). -/
def State.writePhys (s : State) (pa : Nat) (b : Byte) : State :=
  if s.frameIsolated (s.frame (pa / 2 ^ 16)) then s
  else let t := s.opened (pa / 2 ^ 16); t.setByte (t.physPlace pa) b

/-- The device writes bytes of one page. -/
def State.writePage (s : State) (pa : Nat) (bs : List Byte) : State :=
  if s.frameIsolated (s.frame (pa / 2 ^ 16)) then s
  else let t := s.opened (pa / 2 ^ 16); (t.setBytes (t.physPlace pa) bs).healed (t.physPlace pa) bs.length

end Sys2Proof.Machine
end

