-- ==== Sys2Proof/Machine/Translate.lean ====
section
/-! DEFINITION. Composed translation (R397-R402): the stages of a region and its ancestors, the cache of the sluices, and the
physical address space (R406). -/

namespace Sys2Proof.Machine

/-- Kind of a data access. -/
inductive AccKind where
  | load | store | atomic
  deriving DecidableEq, Repr

/-- Permission bits a kind needs: bit 0 R, bit 1 W, bit 2 A (R399, R400). -/
def AccKind.needs : AccKind → Nat
  | .load => 1
  | .store => 2
  | .atomic => 7

/-- Why a translation fails: PAGE or PERM, at which stage, with the address in that stage's space (R400, R401). -/
structure XFault where
  perm : Bool
  stage : RegionId
  addr : Nat
  deriving DecidableEq, Repr

/-- A final translation: physical address, permissions, page size, and the stages with their addresses and permissions (R400). -/
structure XOk where
  pa : Nat
  perms : Nat
  size : Nat
  stages : List (RegionId × Nat × Nat)
  deriving DecidableEq, Repr

/-- A stage entry (R399): the address it holds, whether it is a leaf, its permissions; none when it is missing. -/
def stageEntry (level e : Nat) : Option (Nat × Bool × Nat) :=
  let leaf := e / 32 % 2 == 1
  if e % 2 == 1 && e / 2 ^ 48 == 0 && e / 64 % 2 ^ 10 == 0 && e / 16 % 2 == 0 &&
      (!(level == 2) || !leaf) && (!(level == 0) || leaf) &&
      (!(level == 1 && leaf) || e / 2 ^ 16 % 512 == 0) then
    some (e / 2 ^ 16 % 2 ^ 32 * 2 ^ 16, leaf, e / 2 % 8)
  else none

/-- Index into a table of a level (R398). -/
def stageIndex (level v : Nat) : Nat :=
  match level with
  | 2 => v / 2 ^ 36 % 4096
  | 1 => v / 2 ^ 25 % 2048
  | _ => v / 2 ^ 16 % 512

/-- Size of a leaf of a level. -/
def leafSize (level : Nat) : Nat := if level = 1 then 2 ^ 25 else 2 ^ 16

/-- The walk of one stage's tables, given the translation of the parent's space for reading. DESIGN CHOICE (log 88): an entry that
cannot be read is a missing one. -/
def walkStage (s : State) (q : RegionId) (v : Nat) (up : Nat → Except XFault XOk) :
    Nat → Nat → Except XFault (Nat × Nat × Nat)
  | 0, _ => .error ⟨false, q, v⟩
  | level + 1, t =>
    match up (t + 8 * stageIndex level v) with
    | .error f => .error f
    | .ok x =>
      match (s.readPhys x.pa 8).bind (fun bs => stageEntry level (leNat bs)) with
      | none => .error ⟨false, q, v⟩
      | some (a, true, perms) => .ok (a + v % leafSize level, perms, leafSize level)
      | some (a, false, _) => walkStage s q v up level a

/-- Translation of address v of region q for an access of kind k, without the cache (R400). The fuel bounds the stages; eight
suffice (R400). A leaf of the root that names no memory is a missing entry: it faults PAGE there, whatever its permissions
(R406). -/
def State.xlate (s : State) : Nat → RegionId → Nat → AccKind → Except XFault XOk
  | 0, q, v, _ => .error ⟨false, q, v⟩
  | fuel + 1, q, v, k =>
    match s.region? q with
    | none => .error ⟨false, q, v⟩
    | some r =>
      let up (u : Nat) (kk : AccKind) : Except XFault XOk :=
        if q = 1 then (if s.pageExists (u / 2 ^ 16) then .ok ⟨u, 7, 2 ^ 48, []⟩ else .error ⟨false, 1, v⟩)
        else s.xlate fuel r.parent u kk
      if r.xroot = 0 then up v k
      else
        match walkStage s q v (fun u => up u .load) 3 r.xroot with
        | .error f => .error f
        | .ok (u, perms, size) =>
          if q == 1 && !s.pageExists (u / 2 ^ 16) then .error ⟨false, q, v⟩
          else if (k.needs &&& perms) != k.needs then .error ⟨true, q, v⟩
          else match up u k with
            | .error f => .error f
            | .ok x => .ok ⟨x.pa, x.perms &&& perms, min x.size size, (q, v, perms) :: x.stages⟩

/-- Number of the sluice of a die that an address enters (R9). -/
def sluiceOf (v : Nat) : Nat := v / 2 ^ 16 % 16

/-- Home sluice of a physical page: its die, and its number there (R9). What it keeps of the page, its VERSION, its shadows and
the race records of its lines, stands in `State.versions`, `State.pubs` and `State.marks` under the page's number. -/
def homeSluice (page : Nat) : Nat × Nat := (page / 16 % 64, page % 16)

/-- The translations cached in the sluice of a die that cover an address of a region. -/
def State.cachedFor (s : State) (die : Nat) (q : RegionId) (v : Nat) : List Cached :=
  s.tcache.filter (fun c => c.die == die && c.sluice == sluiceOf v && c.region == q && decide (c.vbase ≤ v) &&
    decide (v < c.vbase + c.size))

/-- What a cached translation answers, as the walk that filled it would have: it faults at the first of its stages that lacks the
permission, with the address in that stage's space. -/
def Cached.answer (c : Cached) (v : Nat) (k : AccKind) : Except XFault XOk :=
  match c.stages.find? (fun e => (k.needs &&& e.2.2) != k.needs) with
  | some e => .error ⟨true, e.1, e.2.1 + (v - c.vbase)⟩
  | none => .ok ⟨c.pbase + (v - c.vbase), c.stages.foldl (fun p e => p &&& e.2.2) 7, c.size,
      c.stages.map (fun e => (e.1, e.2.1 + (v - c.vbase), e.2.2))⟩

/-- What an outcome of a translation amounts to. -/
def outcomeOf : Except XFault XOk → Option (Nat × Nat) × Option XFault
  | .ok x => (some (x.pa, x.perms), none)
  | .error f => (none, some f)

/-- Translation of an address by the sluice of a die that it enters. Where the cache holds something other than what the tables now give, a free value chooses
(R402). -/
def State.translate (s : State) (die : Nat) (q : RegionId) (v : Nat) (k : AccKind) : Except XFault XOk × State :=
  let fresh := s.xlate 8 q v k
  let old := (s.cachedFor die q v).map (fun c => c.answer v k)
  let differing := old.filter (fun o => outcomeOf o != outcomeOf fresh)
  let keep (t : State) (r : Except XFault XOk) : State :=
    match r with
    | .error _ => t
    | .ok x =>
      let size := if x.size ≤ 2 ^ 25 then x.size else 2 ^ 16
      let c : Cached := ⟨die, sluiceOf v, q, v / size * size, size, x.pa - v % size,
        x.stages.map (fun e => (e.1, e.2.1 - v % size, e.2.2))⟩
      if t.tcache.contains c then t else { t with tcache := c :: t.tcache }
  match differing with
  | [] => (fresh, keep s fresh)
  | _ =>
    let all := fresh :: differing
    let t := { s with free := s.free + 1 }
    let r := all.getD (Config.pick s.free % all.length) fresh
    (r, keep t r)

/-- Drop the cached translations of some regions (R403). -/
def State.dropCached (s : State) (rs : List RegionId) : State :=
  { s with tcache := s.tcache.filter (fun c => !rs.contains c.region) }

/-- Whether a region is q or below it. -/
def State.below (s : State) : Nat → RegionId → RegionId → Bool
  | 0, _, _ => false
  | fuel + 1, top, q => q == top ||
    match s.region? q with
    | some r => if q == 1 then false else s.below fuel top r.parent
    | none => false

/-- The regions of a subtree that are not retired. -/
def State.subtree (s : State) (top : RegionId) : List Region :=
  s.regions.filter (fun r => r.state != .retired && s.below 8 top r.id)

/-- The region whose lineage table a region uses: its own with OWNLNT, else its parent's (R18, R247). -/
def State.tableOwner (s : State) : Nat → RegionId → RegionId
  | 0, q => q
  | fuel + 1, q =>
    match s.region? q with
    | some r => if r.ownLnt || q == 1 then q else s.tableOwner fuel r.parent
    | none => q

/-- Whether every page of a span of a region's space translates for a kind (R343). The region may be a child yet to be refused
for its depth, one stage below the deepest. -/
def State.spanOk (s : State) (q : RegionId) (lo bytes : Nat) (k : AccKind) : Bool :=
  (List.range ((lo % 65536 + bytes + 65535) / 65536)).all (fun i =>
    let v := (lo / 65536 + i) * 65536
    decide (2 ^ 32 ≤ v) && decide (v < 2 ^ 48) && (s.xlate 9 q v k).isOk)

/-- Bytes of a region's space, read by the device itself; none where a page does not translate, or cannot be read. -/
def State.peek (s : State) (q : RegionId) (v n : Nat) : Option (List Byte) :=
  (List.range n).foldr (fun i acc => match s.xlate 8 q (v + i) .load, acc with
    | .ok x, some bs => (s.readPhys x.pa 1).map (fun b => b ++ bs)
    | _, _ => none) (some [])

/-- Bytes written into a region's space by the device itself; unchanged where a page does not translate. -/
def State.poke (s : State) (q : RegionId) (v : Nat) : List Byte → State
  | [] => s
  | b :: bs =>
    let t := match s.xlate 8 q v .store with
      | .ok x => s.writePhys x.pa b
      | .error _ => s
    t.poke q (v + 1) bs

/-- A little-endian number of a region's space. -/
def State.peekNat (s : State) (q : RegionId) (v n : Nat) : Nat := ((s.peek q v n).map leNat).getD 0

end Sys2Proof.Machine
end

