-- ==== Sys2Proof/Machine/Order.lean ====
section
/-! DEFINITION. The windows of an address (R150). Race detection (R325-R339): the marks of lines, the access tables, releases with a scope, and the check that
every core data access passes at R152 row 7. A line is a place divided by 64, a page counting under its own number whatever
frame holds it, so that the aliases of one physical line share a record (R337). -/

namespace Sys2Proof.Machine

/-- The window of an address. -/
inductive Win where
  | own
  | coreMem (pos : Nat)
  | spad (grp : Nat)
  | mailbox
  | virt
  | hole
  deriving DecidableEq, Repr

/-- The window that an address of the current core falls in (R150). -/
def State.window (s : State) (v : Nat) : Win :=
  let pos := s.core.pos
  if v < 0x20000 then .own
  else if 0x40000000 ≤ v ∧ v < 0x40000000 + 192 * 0x20000 then .coreMem (clusterCore pos ((v - 0x40000000) / 0x20000))
  else if 0x44000000 ≤ v ∧ v < 0x44000000 + 12 * 0x400000 then .spad (clusterGroup pos ((v - 0x44000000) / 0x400000))
  else if 0x60000000 + pos * 0x100 ≤ v ∧ v < 0x60000000 + pos * 0x100 + 0x100 then .mailbox
  else if 0x100000000 ≤ v ∧ v < 0x1000000000000 then .virt
  else .hole

/-- The line of an address of a core, where it names one that can be read, or written. -/
def State.lineAt (s : State) (pos v : Nat) (write : Bool) : Option Nat :=
  match (s.turn pos).window v with
  | .own => some (localPlace pos v / 64)
  | .coreMem p => some (localPlace p (v % 0x20000) / 64)
  | .spad g => some (spadPlace g ((v - 0x44000000) % 0x400000) / 64)
  | .virt => match s.xlate 8 (s.owner pos) v (if write then .store else .load) with
    | .ok x => some ((2 ^ 36 + x.pa) / 64)
    | .error _ => none
  | _ => none

/-- The lines of n bytes from v on. -/
def State.linesAt (s : State) (pos v n : Nat) (write : Bool) : List Nat :=
  (List.range ((v % 64 + n + 63) / 64)).filterMap (fun i => s.lineAt pos ((v / 64 + i) * 64) write)

/-- Elements of a stream (R165). -/
def Stream.count (t : Stream) : Nat := t.n0 * t.n1 * t.n2

/-- A write stream (R164). -/
def Stream.isWrite (t : Stream) : Bool := t.mode.toNat % 2 == 1

/-- Address of element p (R165). -/
def Stream.addr (t : Stream) (p : Nat) : Nat :=
  (t.base + BitVec.ofNat 64 (p % t.n0) * t.s0 + BitVec.ofNat 64 (p / t.n0 % t.n1) * t.s1 +
    BitVec.ofNat 64 (p / (t.n0 * t.n1)) * t.s2).toNat

/-- Whether a condition holds of a number below n. -/
def anyBelow : Nat → (Nat → Bool) → Bool
  | 0, _ => false
  | n + 1, f => f n || anyBelow n f

/-- Whether the engine region of a stream of a core reads or writes a line, from SBIND to SFREE: the lines of all its elements
(R328; log 19). -/
def Stream.onLine (t : Stream) (s : State) (pos line : Nat) (write : Bool) : Bool :=
  t.isWrite == write && anyBelow t.count (fun p => (s.linesAt pos (t.addr p) t.size write).contains line)

/-- The bound streams of a core. -/
def Core.streams (c : Core) : List Stream := (c.gs.toList ++ c.vs.toList).filterMap id

/-- A scope: none for the whole region, else the rectangle x0, y0, x1, y1 in the layout of R171. -/
abbrev Scope := Option (BitVec 32)

/-- x0, y0, x1, y1 of a rectangle. -/
def rectOf (q : BitVec 32) : Nat × Nat × Nat × Nat :=
  (q.toNat % 256, q.toNat / 256 % 256, q.toNat / 65536 % 256, q.toNat / 16777216)

/-- Whether a logical position lies in a rectangle. -/
def rectHas (q : BitVec 32) (p : Nat × Nat) : Bool :=
  let (x0, y0, x1, y1) := rectOf q
  decide (x0 ≤ p.1) && decide (p.1 ≤ x1) && decide (y0 ≤ p.2) && decide (p.2 ≤ y1)

/-- Number of positions in a rectangle. -/
def rectSize (q : BitVec 32) : Nat :=
  let (x0, y0, x1, y1) := rectOf q
  (x1 + 1 - x0) * (y1 + 1 - y0)

/-- Whether the first rectangle contains the second. An empty rectangle is contained in every one. -/
def rectContains (q r : BitVec 32) : Bool :=
  let (x0, y0, x1, y1) := rectOf q
  let (u0, v0, u1, v1) := rectOf r
  rectSize r == 0 || (decide (x0 ≤ u0) && decide (y0 ≤ v0) && decide (u1 ≤ x1) && decide (v1 ≤ y1))

/-- The scope that a scope operand names for a core of a region, none standing for the field C = 0: clipped, and whole when it
covers the region (R171). -/
def scopeOf (r : Region) : Option Word → Scope
  | none => none
  | some c =>
    let q := BitVec.ofNat 32 c.toNat
    let (x0, y0, x1, y1) := rectOf q
    let x1 := min x1 r.lw
    let y1 := min y1 r.lh
    if x0 = 0 ∧ y0 = 0 ∧ x1 = r.lw ∧ y1 = r.lh then none
    else some (BitVec.ofNat 32 (x0 + y0 * 256 + x1 * 65536 + y1 * 16777216))

/-- The region of the core whose turn it is. -/
def State.myRegion? (s : State) : Option Region := s.region? (s.owner s.core.pos)

/-- The scope of a scope operand of the current core. -/
def State.scope (s : State) (c : Option Word) : Scope := (s.myRegion?.map (fun r => scopeOf r c)).getD none

/-- Whether a write mark is active for a core (R337). -/
def LineMark.activeFor (s : State) (k : LineMark) (x : Nat) : Bool :=
  match k.wq, s.region? k.wreg with
  | some q, some r => !(s.owner x == k.wreg && rectHas q (r.logical x))
  | _, _ => true

/-- Apply a release of core p of region reg with a scope to a mark (R337); none when the mark ends. -/
def LineMark.release (p : Nat) (reg : RegionId) (q : Scope) (k : LineMark) : Option LineMark :=
  if k.wcore = p ∧ k.wreg = reg then
    match q with
    | none => none
    | some q =>
      match k.wq with
      | none => some { k with wq := some q }
      | some w =>
        if rectContains q w then some { k with wq := some q }
        else if rectContains w q then some k
        else some { k with wq := some (if rectSize q < rectSize w then w else q), wnn := true }
  else some k

/-- Lines of bytes at a place. -/
def placeLines (p n : Nat) : List Nat := (List.range ((p % 64 + n + 63) / 64)).map (fun i => p / 64 + i)

/-- A release made at a time by core p of region reg with a scope takes effect on the marks that its stores left by then. -/
def State.releaseNow (s : State) (p : Nat) (reg : RegionId) (q : Scope) (made : Nat) : State :=
  { s with marks := s.marks.filterMap (fun k => if made < k.since then some k else LineMark.release p reg q k) }

/-- A release joins the last of the stores that a core has under way. -/
def deferRelease (p : Nat) (q : Scope) (made : Nat) : List Later → List Later
  | [] => []
  | e :: r => if e.core = p && r.all (fun x => x.core != p) then { e with releases := e.releases ++ [(q, made)] } :: r
    else e :: deferRelease p q made r

/-- Whether a core has a store under way to a line: an engine access of the core to the line comes after it (R334). -/
def State.underWay (s : State) (pos line : Nat) : Bool :=
  s.later.any (fun e => e.core == pos && (placeLines e.place e.bytes.length).contains line)

/-- The release side of a synchronising operation of a core (R332, R337). It takes effect once every earlier access of the core
has been performed (R328): at once, or with the last of the stores that it has under way. -/
def State.releaseMarks (s : State) (p : Nat) (q : Scope) : State :=
  if s.later.all (fun e => e.core != p) then s.releaseNow p (s.owner p) q s.now
  else { s with later := deferRelease p q s.now s.later }

/-- The releases that awaited a store take effect. -/
def State.releaseLater (s : State) (e : Later) : State :=
  e.releases.foldl (fun t q => t.releaseNow e.core (s.owner e.core) q.1 q.2) s

/-- Any synchronising operation of a core ends its region: its read and atomic marks end in the issue cycle (R328, R338). -/
def State.endRegion (s : State) (p : Nat) : State := s.modCore p (fun c => { c with access := [] })

/-- Every engine region's lines: commands, remote operations, governor commands, streams, and whether it writes (R328, R363). -/
def State.engineMarks (s : State) (line : Nat) (write : Bool) : Bool :=
  s.cmds.any (fun c => c.marks.contains (line, write)) || s.remotes.any (fun r => r.marks.contains (line, write)) ||
  s.groups.any (fun g => g.queue.any (fun c => c.marks.contains (line, write))) ||
  s.cores.any (fun c => c.streams.any (fun t => t.onLine s c.pos line write))

/-- Unfinished commands, remote operations and streams whose engine region reads or writes a line, of commands those issued before
number `id` (R337). -/
def State.engineCount (s : State) (id line : Nat) (write : Bool) : Nat :=
  let has (ms : List (Nat × Bool)) : Bool := ms.contains (line, write)
  (s.cmds.filter (fun c => decide (c.id < id) && has c.marks)).length + (s.remotes.filter (fun r => has r.marks)).length +
  (s.groups.map (fun g => (g.queue.filter (fun c => decide (c.id < id) && has c.marks)).length)).sum +
  (s.cores.map (fun c => (c.streams.filter (fun t => t.onLine s c.pos line write)).length)).sum

/-- Whether a command would bring the count of one of its lines past 4,095: it waits then (R337). -/
def State.countFull (s : State) (id : Nat) (marks : List (Nat × Bool)) : Bool :=
  marks.any (fun m => decide (4095 ≤ s.engineCount id m.1 m.2))

/-- EWN of a line (R337). -/
def State.ewn (s : State) (line : Nat) : Bool := s.engineMarks line true
/-- ERN of a line. -/
def State.ern (s : State) (line : Nat) : Bool := s.engineMarks line false

/-- RCNT of a line without core x. -/
def State.rcnt (s : State) (line x : Nat) : Nat :=
  (s.cores.filter (fun c => c.pos != x && c.access.any (fun e => e.line == line && e.r))).length
/-- ACNT of a line without core x. -/
def State.acnt (s : State) (line x : Nat) : Nat :=
  (s.cores.filter (fun c => c.pos != x && c.access.any (fun e => e.line == line && e.a))).length

/-- Physical page of a line of physical memory. -/
def linePage (line : Nat) : Nat := (line * 64 - 2 ^ 36) / 2 ^ 16

/-- Whether a line lies in the visible range of a pending shadow (R320, R336). -/
def State.shadowPending (s : State) (line : Nat) : Bool :=
  s.pubs.any (fun p =>
    (decide (2 ^ 36 ≤ line * 64) && p.pages.any (fun e => e.2.1 == linePage line)) ||
    p.pairs.any (fun e =>
      let lo := spadPlace e.1 e.2
      let psz := ((s.groupAt e.1).pairs.find? (fun r => r.base == e.2)).map PairReg.psz |>.getD 0
      decide (lo ≤ line * 64) && decide (line * 64 < lo + 2 ^ psz)))

/-- Place of the barrier that a reference names, for a core (R282): none when it names none. -/
def State.barrierPlace (s : State) (pos : Nat) (k : Word) : Option Nat :=
  if k = 0 then none
  else if k.toNat < 2 ^ 63 then
    if k.toNat < 2 ^ 17 then some (localPlace pos k.toNat)
    else if 2 ^ 30 ≤ k.toNat ∧ k.toNat < 2 ^ 30 + 192 * 2 ^ 17 then
      some (localPlace (clusterCore pos ((k.toNat - 2 ^ 30) / 2 ^ 17)) (k.toNat % 2 ^ 17))
    else none
  else
    ((s.region? (s.owner pos)).bind (fun r => r.at? (k.toNat / 2 ^ 32 % 256) (k.toNat / 2 ^ 40 % 256))).map
      (fun q => localPlace q (k.toNat % 2 ^ 17))

/-- The barrier that a command names. -/
def EngCmd.bar (s : State) (c : EngCmd) : Option BarRef := (s.barrierPlace c.core c.k).map (BarRef.mk c.region c.launch)

/-- The barrier that a command of the governor names (R274). -/
def CubeCmd.barrier (s : State) (c : CubeCmd) : Option BarRef :=
  (s.barrierPlace c.core c.bar).map (BarRef.mk (s.owner c.core) (s.coreAt c.core).launch)

/-- Where the local memory of a core stands while its launch is suspended: the space and the address in SWAP of a place of that
memory (R309, R356); none while the memory is the launch's. -/
def State.savedAt (s : State) (q : RegionId) (seq place : Nat) : Option (RegionId × Nat) :=
  (s.region? q).bind (fun r => (r.launches.find? (fun l => l.seq == seq)).bind (fun l =>
    if l.state == .suspended && l.cores.contains (place / 2 ^ 17) then
      some (r.home, r.swap + 2 ^ 17 * r.indexOf (place / 2 ^ 17) + place % 2 ^ 17)
    else none))

/-- Whether a barrier stands in a line. -/
def State.barrierIn (s : State) (line : Nat) (b : BarRef) : Bool := b.place / 64 == line && (s.savedAt b.reg b.launch b.place).isNone

/-- Whether some unfinished command names a barrier in a line (R310). -/
def State.barrierNamed (s : State) (line : Nat) : Bool :=
  s.cmds.any (fun c => (c.bar s).any (s.barrierIn line)) ||
  s.groups.any (fun g => g.queue.any (fun c => (c.barrier s).any (s.barrierIn line)))

/-- The conflict of an access of core x with the marks of a line: subcode and OTHER (R336, R339). -/
def State.conflict (s : State) (x line : Nat) (k : AccKind) : Option (Nat × Nat) :=
  match s.marks.find? (fun m => m.line == line && m.wcore != x && m.activeFor s x) with
  | some m => some (if m.wnn then 3 else 1, m.wcore)
  | none =>
    let counts : Bool := match k with
      | .load => decide (0 < s.acnt line x)
      | .store => decide (0 < s.rcnt line x) || decide (0 < s.acnt line x)
      | .atomic => decide (0 < s.rcnt line x)
    if counts then some (2, 0xFFFF)
    else
      let engine : Bool := match k with
        | .load => s.ewn line
        | _ => s.ewn line || s.ern line || s.shadowPending line || s.barrierNamed line
      if engine then some (5, 0xFFFF) else none

/-- KIND of a RACE (R339). -/
def AccKind.code : AccKind → Nat
  | .load => 0
  | .store => 1
  | .atomic => 2

/-- XVAL of a RACE: the line as the access named it (R339). -/
def raceXval (other addr : Nat) (k : AccKind) (sub : Nat) : Word :=
  BitVec.ofNat 64 (other * 2 ^ 48 + addr % 2 ^ 48 / 64 * 64 + k.code * 16 + sub)

/-- The address of the first line that needs an entry of an access table when none is free, n entries being taken
(R338). -/
def noRoom (acc : List LineAccess) : Nat → List Nat → List (Nat × Nat) → Option Nat
  | _, _, [] => none
  | n, seen, e :: r =>
    if seen.contains e.1 || acc.any (fun a => a.line == e.1) then noRoom acc n seen r
    else if 2048 ≤ n then some e.2 else noRoom acc (n + 1) (e.1 :: seen) r

/-- The first conflict among the lines of an access, each with the address it was named by; then the room in the access
table (R336, R338). -/
def State.raceCheck (s : State) (x : Nat) (k : AccKind) (lines : List (Nat × Nat)) : Option Word :=
  match lines.findSome? (fun e => (s.conflict x e.1 k).map (fun c => raceXval c.2 e.2 k c.1)) with
  | some w => some w
  | none => (noRoom (s.coreAt x).access (s.coreAt x).access.length [] lines).map (fun a => raceXval 0xFFFF a k 4)

/-- Enter an access to a line into a core's table (R338). -/
def noteLine (k : AccKind) (line : Nat) : List LineAccess → List LineAccess
  | [] => [⟨line, k == .load, k == .store, k == .atomic⟩]
  | e :: r =>
    if e.line = line then { e with r := e.r || k == .load, w := e.w || k == .store, a := e.a || k == .atomic } :: r
    else e :: noteLine k line r

/-- The marks that an access leaves (R336-R338). -/
def State.mark (s : State) (x : Nat) (k : AccKind) (line : Nat) : State :=
  let t := s.modCore x (fun c => { c with access := noteLine k line c.access })
  match k with
  | .store => { t with marks := putBy LineMark.line ⟨line, s.owner x, x, none, false, s.now⟩ t.marks }
  | _ => t

/-- Leave the marks on several lines. -/
def State.markAll (s : State) (x : Nat) (k : AccKind) : List Nat → State
  | [] => s
  | l :: ls => (s.mark x k l).markAll x k ls

/-- A synchronising operation over a scope that releases and ends the core's region at once, every earlier access of the
core being performed (R327, R328). -/
def State.syncRelease (s : State) (p : Nat) (q : Scope) : State := (s.endRegion p).releaseMarks p q

end Sys2Proof.Machine
end

