-- ==== Sys2Proof/Machine/Workspace.lean ====
section
/-! DEFINITION. The workspace image (R76, R77, R169, R241): what a write-back writes and what a load takes from it, the arrival
logs (R316), and bytes as numbers. -/

namespace Sys2Proof.Machine

/-- CSEG as it stands (R29, R42). -/
def Core.csegNow (c : Core) (now : Nat) : Word :=
  if c.timed then c.cseg + BitVec.ofNat 64 ((now - c.segFrom) / 12) else c.cseg

/-- CSTAT (R74). -/
def Core.cstat (c : Core) : Word :=
  BitVec.ofNat 64 (c.timed.toNat + 2 * c.inh.toNat + 4 * c.dbg.toNat)

/-- CSUIT (R23). -/
def Suit.word (u : Suit) : Word :=
  BitVec.ofNat 64 (u.memb.toNat + u.spos.toNat * 2 ^ 16 + u.size.toNat * 2 ^ 20 + u.act.toNat * 2 ^ 24)

/-- A tag code that R82 assigns. -/
def tagAssigned (t : Nat) : Bool := t == 0 || t == 1 || (decide (4 ≤ t) && decide (t ≤ 9)) || (decide (12 ≤ t) && decide (t ≤ 22))

/-- A tag code that a vector register can carry (R82). -/
def vtagOk (t : Nat) : Bool := tagAssigned t && decide (t < 20)

/-- A stream's state slot (R169). -/
def streamImage : Option Stream → List Byte
  | none => zeros 32
  | some t =>
    leBytes 4 t.desc.toNat ++ leBytes 4 (t.next % t.n0) ++ leBytes 4 (t.next / t.n0 % t.n1) ++
    leBytes 4 (t.next / (t.n0 * t.n1)) ++ leBytes 2 t.mode.toNat ++ [1] ++ zeros 13

/-- A command entry of the sequencer save area (R241). For LPROD the C field carries the barrier reference (log 10). -/
def CubeCmd.image (c : CubeCmd) : List Byte :=
  leBytes 4 c.word.toNat ++ leBytes 2 c.step ++
  [BitVec.ofNat 8 (1 + 2 * c.begun.toNat + 4 * c.isFollow.toNat + 8 * c.held.toNat)] ++
  leBytes 1 c.crbv.toNat ++ leBytes 8 c.abase.toNat ++ leBytes 8 c.alay.toNat ++ leBytes 8 c.bbase.toNat ++
  leBytes 8 c.blay.toNat ++ leBytes 8 (if c.fam.isEmpty then c.cbase.toNat else c.bar.toNat) ++ leBytes 8 c.clay.toNat ++
  leBytes 8 c.b2base.toNat ++ leBytes 8 c.b2lay.toNat

/-- The ring word (R241). -/
def Core.ringWord (c : Core) : Nat := c.rfull.toNat + c.rtile.toNat * 2 ^ 16 + c.ract.toNat * 2 ^ 19

/-- The control-register save area (R77). -/
def Core.controlImage (c : Core) (now : Nat) (cstat resume : Word) : List Byte :=
  leBytes 8 cstat.toNat ++ leBytes 8 c.xpc.toNat ++ leBytes 8 c.xcause.toNat ++ leBytes 8 c.xval.toNat ++
  leBytes 8 c.xscratch.toNat ++ leBytes 8 (c.csegNow now).toNat ++ leBytes 8 c.crb.toNat ++ leBytes 8 c.csat.toNat ++
  leBytes 8 c.crnd.toNat ++ leBytes 8 c.suit.word.toNat ++ leBytes 8 c.cbatch.toNat ++ leBytes 8 resume.toNat ++ zeros 192

/-- The 16-KiB workspace image of a core, with the commands of its sequencer (R76). Reserved areas are zero (log 11). -/
def Core.image (c : Core) (now : Nat) (cstat resume : Word) (cmds : List CubeCmd) : List Byte :=
  (c.g.toList.flatMap (fun x => leBytes 8 x.toNat)) ++
  (c.v.toList.flatMap (fun x => leBytes 64 x.toNat)) ++
  (leBytes 8 (2 ^ 64 - 1) ++ (c.m.toList.drop 1).flatMap (fun x => leBytes 8 x.toNat)) ++
  (c.vtag.toList.flatMap (fun x => leBytes 1 x.toNat)) ++ (c.ttag.toList.flatMap (fun x => leBytes 1 x.toNat)) ++ zeros 8 ++
  (c.gs.toList.flatMap streamImage) ++ (c.vs.toList.flatMap streamImage) ++
  c.controlImage now cstat resume ++
  ((cmds.take 7).flatMap CubeCmd.image ++ zeros (504 - 72 * min 7 cmds.length) ++ leBytes 8 c.ringWord) ++
  (c.counters.toList.flatMap (fun x => leBytes 4 x.toNat)) ++ zeros 0x500 ++
  (c.t.toList.flatMap (fun x => leBytes 1024 x.toNat)) ++ zeros 0x1000

/-- Offset of the first tag byte of an image that holds a reserved code (R80). -/
def badTagOffset (img : List Byte) : Option Nat :=
  ((List.range 24).find? (fun i =>
    let t := slice img (0x540 + i) 1
    if i < 16 then !vtagOk t else !tagAssigned t)).map (fun i => 0x540 + i)

/-- The pattern of a descriptor in local memory (R165). -/
def readDescriptor (s : State) (pos : Nat) (desc : Nat) (mode : BitVec 13) (next : Nat → Nat → Nat) : Stream :=
  let p := localPlace pos desc
  let n0 := s.getNat (p + 8) 4
  let n1 := s.getNat (p + 12) 4
  { desc := BitVec.ofNat 32 desc, mode := mode, base := BitVec.ofNat 64 (s.getNat p 8), n0 := n0, n1 := n1,
    n2 := s.getNat (p + 16) 4, size := s.getNat (p + 20) 2, s0 := BitVec.ofNat 64 (s.getNat (p + 24) 8),
    s1 := BitVec.ofNat 64 (s.getNat (p + 32) 8), s2 := BitVec.ofNat 64 (s.getNat (p + 40) 8), next := next n0 n1,
    queue := [], landing := [], failed := none, due := 0
    after := (s.later.filter (fun e => e.core == pos)).foldl (fun m e => max m e.visible) 0 }

/-- A stream restored from its slot: the descriptor is read again (R169). DESIGN CHOICE (log 95): it is taken as it is, without the
checks of SBIND, from the low 17 bits of DESC, and the position is counted from the saved indices by its own counts. -/
def restoreStream (s : State) (pos : Nat) (img : List Byte) (off : Nat) : Option Stream :=
  if slice img (off + 18) 1 % 2 = 1 then
    some (readDescriptor s pos (slice img off 4 % 2 ^ 17) (BitVec.ofNat 13 (slice img (off + 16) 2))
      (fun n0 n1 => slice img (off + 4) 4 + n0 * (slice img (off + 8) 4 + n1 * slice img (off + 12) 4)))
  else none

/-- The registers of a core as loaded from an image (R80). CSTAT, CSEG, CSUIT and CWP are the core's own. DESIGN CHOICE (log 79): a
word that holds more than its register (R77) gives the register its low bits. The words fetched ahead are of the program left
behind (R91). -/
def Core.load (c : Core) (s : State) (img : List Byte) : Core :=
  { c with
    g := Vector.ofFn (fun i => if i = 0 then 0 else BitVec.ofNat 64 (slice img (8 * i) 8))
    v := Vector.ofFn (fun i => BitVec.ofNat 512 (slice img (0x100 + 64 * i) 64))
    m := Vector.ofFn (fun i => BitVec.ofNat 64 (slice img (0x500 + 8 * i) 8))
    vtag := Vector.ofFn (fun i => BitVec.ofNat 5 (slice img (0x540 + i) 1))
    ttag := Vector.ofFn (fun i => BitVec.ofNat 5 (slice img (0x550 + i) 1))
    gs := Vector.ofFn (fun i => restoreStream s c.pos img (0x560 + 32 * i))
    vs := Vector.ofFn (fun i => restoreStream s c.pos img (0x660 + 32 * i))
    xpc := BitVec.ofNat 64 (slice img 0x6E8 8)
    xcause := BitVec.ofNat 64 (slice img 0x6F0 8)
    xval := BitVec.ofNat 64 (slice img 0x6F8 8)
    xscratch := BitVec.ofNat 64 (slice img 0x700 8)
    crb := BitVec.ofNat 5 (slice img 0x710 8)
    csat := BitVec.ofNat 8 (slice img 0x718 8)
    crnd := BitVec.ofNat 2 (slice img 0x720 8)
    cbatch := BitVec.ofNat 32 (slice img 0x730 8)
    pc := BitVec.ofNat 64 (slice img 0x738 8) &&& ~~~1
    rfull := BitVec.ofNat 16 (slice img 0x9F8 2)
    rtile := BitVec.ofNat 3 (slice img 0x9FA 1)
    ract := slice img 0x9FA 1 / 8 % 2 == 1
    counters := Vector.ofFn (fun i => BitVec.ofNat 32 (slice img (0xA00 + 4 * i) 4))
    t := Vector.ofFn (fun i => BitVec.ofNat 8192 (slice img (0x1000 + 1024 * i) 1024))
    windows := []
    flagsDue := []
    refetch := none }

/-- A governor command from its saved entry (R241, R242). The family descriptor of LPROD is read again at BBASE (R277). -/
def loadCmd (s : State) (pos id : Nat) (img : List Byte) (off : Nat) : Option CubeCmd :=
  let fl := slice img (off + 6) 1
  if fl % 2 = 1 then
    let word := BitVec.ofNat 32 (slice img off 4)
    let lprod := word.toNat % 128 == 0x73
    let w8 (o : Nat) : Word := BitVec.ofNat 64 (slice img (off + o) 8)
    some { id := id, core := pos, word := word, crbv := BitVec.ofNat 5 (slice img (off + 7) 1), abase := w8 8, alay := w8 16,
           bbase := w8 24, blay := w8 32, cbase := w8 40, clay := w8 48, b2base := w8 56, b2lay := w8 64, emptyD := false,
           tags := if lprod then List.replicate 8 0 else [], total := 0,
           step := slice img (off + 4) 2, acc := [], block := [], started := false, isFollow := fl / 4 % 2 == 1,
           held := fl / 8 % 2 == 1, reloaded := true, due := s.now, metaPos := 0, codes := [], dense := [], fl := 0, blockFl := 0, rowFl := [], stepAt := 0,
           bankLoad := [], priorAt := 0, priorLoad := [], begun := fl / 2 % 2 == 1, undef := [], bar := if lprod then w8 40 else 0,
           fam := if lprod then s.getBytes (localPlace pos (slice img (off + 24) 8 % 2 ^ 17)) 128 else [], batch := 0, marks := [], rings := [] }
  else none

/-! ## Arrival logs (R316) -/

/-- Address of a log word in the region's space. -/
def Region.logAddr (r : Region) (pos : Nat) (idx : Nat) : Nat := r.alog + r.indexOf pos * 256 + idx * 4

/-- Sum of a root log word. -/
def rootLog (l : List (Nat × BitVec 6 × BitVec 32)) (pos : Nat) (idx : BitVec 6) : BitVec 32 :=
  ((l.find? (fun e => e.1 == pos && e.2.1 == idx)).map (fun e => e.2.2)).getD 0

/-- Whether a log can be reached. -/
def State.logReachable (s : State) (r : Region) (pos : Nat) (idx : Nat) : Bool :=
  r.id == 1 || (match s.xlate 8 r.id (r.logAddr pos idx) .store with | .ok _ => true | .error _ => false)

/-- The sum in a region's arrival log for a core's counter. -/
def State.logSum (s : State) (r : Region) (pos : Nat) (idx : BitVec 6) : BitVec 32 :=
  if r.id == 1 then rootLog s.rootLogs pos idx
  else BitVec.ofNat 32 (s.peekNat r.id (r.logAddr pos idx.toNat) 4)

/-- Set a log word. -/
def State.setLog (s : State) (r : Region) (pos : Nat) (idx : BitVec 6) (v : BitVec 32) : State :=
  if r.id == 1 then
    { s with rootLogs := (if v = 0 then [] else [(pos, idx, v)]) ++ s.rootLogs.filter (fun e => !(e.1 == pos && e.2.1 == idx)) }
  else s.poke r.id (r.logAddr pos idx.toNat) (leBytes 4 v.toNat)

/-- An increment is applied to a core's counter; on counter 63 it raises MAILBOX with the value (R315, R380). -/
def Core.increment (c : Core) (idx : BitVec 6) (x : BitVec 32) : Core :=
  let v := c.counters[idx.toNat] + x
  { c with
    counters := c.counters.set idx.toNat v
    pending := if idx = 63 then { c.pending with mailbox := some (BitVec.ofNat 64 v.toNat) } else c.pending }

/-- Move the logged sums of a context into its counters (R316). -/
def State.replayLog (s : State) (pos : Nat) : State :=
  match s.region? (s.owner pos) with
  | none => s
  | some r =>
    (List.range 64).foldl (fun t i =>
      let idx := BitVec.ofNat 6 i
      let sum := t.logSum r pos idx
      if sum = 0 then t else (t.setLog r pos idx 0).modCore pos (fun c => c.increment idx sum)) s

end Sys2Proof.Machine
end

