-- ==== Sys2Proof/Machine/Governor.lean ====
section
/-! DEFINITION. The governor's commands as a write-back meets them: their words and layouts, what a command writes when it
completes, and how one stops at a block boundary (R214-R215, R228-R242). -/

namespace Sys2Proof.Machine

/-! ## Words -/

/-- MAJ of a captured command word. -/
def CubeCmd.maj (c : CubeCmd) : Nat := c.word.toNat / 2 % 64
/-- FN4 of a captured FT word. -/
def CubeCmd.fn (c : CubeCmd) : Nat := c.word.toNat / 2 ^ 28
/-- Selectors of a captured FT word (R50). -/
def CubeCmd.asel (c : CubeCmd) : Nat := c.word.toNat / 2 ^ 10 % 32
/-- BSEL. -/
def CubeCmd.bsel (c : CubeCmd) : Nat := c.word.toNat / 2 ^ 15 % 32
/-- CSEL. -/
def CubeCmd.csel (c : CubeCmd) : Nat := c.word.toNat / 2 ^ 20 % 32
/-- TD. -/
def CubeCmd.td (c : CubeCmd) : Nat := c.word.toNat / 2 ^ 7 % 8

/-- A product command: TMUL, TMULS, TMULX, TPART. -/
def CubeCmd.isProduct (c : CubeCmd) : Bool := c.maj == 0x34

/-- LPROD. -/
def CubeCmd.isLprod (c : CubeCmd) : Bool := c.maj == 0x39

/-! ## Layout words and addresses (R214, R215) -/

/-- LC of a layout word (R214). -/
def layLC (w : Word) : Nat := w.toNat / 2 ^ 44 % 4
/-- KS. -/
def layKS (w : Word) : Nat := w.toNat / 2 ^ 32 % 4096
/-- TAG. -/
def layTag (w : Word) : Nat := w.toNat / 2 ^ 24 % 32
/-- ROT. -/
def layRot (w : Word) : Nat := w.toNat / 2 ^ 22 % 4
/-- TILEP. -/
def layTilep (w : Word) : Nat := w.toNat / 2 ^ 12 % 1024
/-- ROWP. -/
def layRowp (w : Word) : Nat := w.toNat % 4096

/-- Address of chunk q of row r (R215). -/
def chunkAddr (base lay : Word) (r q : Nat) : Nat :=
  let a := (base.toNat + q * 64 * layTilep lay + r * 16 * layRowp lay) % 2 ^ 64
  if layRot lay = 1 then a ^^^ (r % 16 * 64) else a

/-- First address of the own group's scratchpad in the cluster window (R150). -/
def spadBase (pos : Nat) : Nat := 0x44000000 + clusterGroupIndex pos * 0x400000

/-- Physical offset in a scratchpad of an offset as addressed: the visible half of a pair, none in its upper half (R318). -/
def Group.pairOffset (g : Group) (off : Nat) : Option Nat :=
  match g.pairs.find? (fun p => decide (p.base ≤ off) && decide (off < p.base + 2 ^ (p.psz + 1))) with
  | none => some off
  | some p =>
    if off < p.base + 2 ^ p.psz then some (if p.upper then off + 2 ^ p.psz else off) else none

/-- The place of a byte of the own scratchpad by its address, through the pair registers (R318). -/
def State.spadByte (s : State) (pos a : Nat) : Nat :=
  let off := a - spadBase pos
  spadPlace (groupOf pos) (((s.groupAt (groupOf pos)).pairOffset off).getD off)

/-! ## Results -/

/-- Flags are raised in CSAT in a cycle (R128). -/
def Core.raiseNow (c : Core) (now : Nat) (f : BitVec 8) : Core :=
  if f = 0 then c else { c with csat := c.csat ||| f, flagsDue := (now, f) :: c.flagsDue }

/-- The unfinished governor commands of a core. -/
def State.cubeCmds (s : State) (pos : Nat) : List CubeCmd :=
  (s.groupAt (groupOf pos)).queue.filter (fun c => c.core == pos)

/-- Accumulator tiles of a command, in the order of `CubeCmd.acc`: the tD of a product, TZERO or TLD, or LPROD's members. -/
def CubeCmd.tiles (c : CubeCmd) : List (BitVec 3) :=
  if c.word.toNat % 128 = 0x73 then
    (List.range (slice c.fam 0x28 1)).map (fun j => BitVec.ofNat 3 (slice c.fam (0x40 + 8 * j) 8 / 2 ^ 32))
  else [BitVec.ofNat 3 (c.word.toNat / 128)]

/-- Put values into tiles. An earlier result on its way to one is discarded (R89). -/
def Core.putTiles (c : Core) : List (BitVec 3) → List TWord → Core
  | d :: ds, x :: xs =>
    ({ c with t := c.t.set d.toNat x d.isLt, windows := c.windows.filter (fun w => w.dest != Dest.t d) }).putTiles ds xs
  | _, _ => c

/-- A trap that is raised at a core before its next instruction issues (R244). -/
def State.postTrap (s : State) (core cause : Nat) (xval : Word) : State :=
  s.modCore core (fun c => { c with posted := c.posted ++ [(cause, xval)] })

/-- The bytes of a tile register. -/
def tileBytes (x : TWord) : List Byte := leBytes 1024 x.toNat

/-- A row of TST, written in pieces of 16 bytes, which no boundary of the scratchpad cuts (R215, R318). -/
def State.storeRow (s : State) (c : CubeCmd) (r : Nat) (bs : List Byte) : State :=
  (List.range 4).foldl (fun t i =>
    let a := chunkAddr c.abase c.alay r 0 + 16 * i
    let u := t.setBytes (s.spadByte c.core a) ((bs.drop (16 * i)).take 16)
    if a % 64 = 48 then u.healed (s.spadByte c.core (a - 48)) 64 else u) s

/-- Whether a row of TST may be written now: the scratchpad is assigned to the core's region, and none of the row lies in the
upper half of a pair (R244, R318). -/
def State.rowOpen (s : State) (c : CubeCmd) (r : Nat) : Bool :=
  let grp := groupOf c.core
  s.assigned grp == s.owner c.core &&
  (List.range 4).all (fun i =>
    ((s.groupAt grp).pairOffset (chunkAddr c.abase c.alay r 0 + 16 * i - spadBase c.core)).isSome)

/-- TST writes n more rows from row r on, up to the first that may not be written, which raises PERM (R244). -/
def State.storeRows (s : State) (c : CubeCmd) : Nat → Nat → List Byte → State
  | 0, _, _ => s
  | n + 1, r, bs =>
    if s.rowOpen c r then (s.storeRow c r (bs.take 64)).storeRows c n (r + 1) (bs.drop 64)
    else s.postTrap c.core 6 (BitVec.ofNat 64 (chunkAddr c.abase c.alay r 0))

/-- Whether a row can be written now: its TPART is in the queue, its member's ring is bound (R228), and the row there is not FULL
(R229). -/
def State.ringTakes (s : State) (e : Delivery) : Bool :=
  let k := s.coreAt e.core
  e.cmd != 0 && k.launch == e.launch && k.cwp == e.ws && k.ract && !(k.rtile == e.tile && k.rfull.getLsbD e.row)

/-- Whether a TPART waits at a row that it cannot write (R229). -/
def State.ringWaits (s : State) (cmd : Nat) : Bool :=
  s.deliveries.any (fun e => e.cmd == cmd && decide (e.due ≤ s.now + 1) && !s.ringTakes e)

/-- A row of partial sums arrives in a ring; its flags are set in the leader's CSAT (R128, R229). -/
def State.deliver (s : State) (e : Delivery) : State :=
  (s.modCore (groupCore (groupOf e.core) 0) (fun k => k.raiseNow s.now e.fl)).modCore e.core (fun c =>
    if c.ract && c.rtile == e.tile then
      let old := c.t[e.tile.toNat].toNat
      let bit := 2 ^ (512 * e.row)
      let x := old - old / bit % 2 ^ 512 * bit + leNat e.bytes % 2 ^ 512 * bit
      { c with t := c.t.set e.tile.toNat (BitVec.ofNat 8192 x), rfull := c.rfull ||| (1 : BitVec 16) <<< e.row }
    else c)

/-- The rows under way to the rings of a group arrive, but for those that cannot be written yet. -/
def State.deliverGroup (s : State) (grp : Nat) : State :=
  s.deliveries.foldl (fun t e =>
    if groupOf e.core == grp && t.ringTakes e then t.deliver e else { t with deliveries := t.deliveries ++ [e] })
    { s with deliveries := [] }

/-- TPART. -/
def CubeCmd.isPart (c : CubeCmd) : Bool := c.isProduct && c.fn == 3

/-- A TPART completes: its rings are no longer bound (R228). -/
def State.unbindRings (s : State) (grp : Nat) (c : CubeCmd) : State :=
  (List.range 16).foldl (fun t q => t.modCore (groupCore grp q) (fun k =>
    if k.ract && k.rtile.toNat == c.td then { k with ract := false } else k)) s

/-- What a command writes when it completes (R211, R222, R229, R233, R234, R244). -/
def State.finishCmd (s : State) (c : CubeCmd) : State :=
  let grp := groupOf c.core
  if c.isPart then (s.deliverGroup grp).unbindRings grp c
  else if c.maj = 0x35 ∧ c.fn = 2 then s.storeRows c 16 0 (tileBytes (c.acc.headD 0))
  else if c.maj = 0x35 ∧ 3 ≤ c.fn then s
  else s.modCore c.core (fun k => (k.putTiles c.tiles c.acc).raiseNow s.now c.fl)

/-- Every slice of a command has been processed. -/
def CubeCmd.stepped (c : CubeCmd) : Bool := c.started && decide (c.total ≤ c.step)

/-- End of the last step begun (R218). -/
def CubeCmd.stepEnd (c : CubeCmd) (period : Nat) : Nat :=
  c.stepAt + (c.bankLoad.foldl (fun a e => max a e.2) 1) * period

/-- A command as it stops at its last block boundary (R242). -/
def CubeCmd.atBlock (c : CubeCmd) : CubeCmd :=
  { c with step := if c.started then c.step / 8 * 8 else c.step, acc := c.block, fl := c.blockFl, rowFl := [], codes := [], dense := [],
           reloaded := true }

/-- Tiles of a command that counted as EMPTY at issue (R222). -/
def CubeCmd.emptyTiles (c : CubeCmd) : List (BitVec 3) :=
  if c.isLprod then (c.tiles.zip c.tags).filterMap (fun e => if e.2 = 1 then some e.1 else none)
  else if c.emptyD then c.tiles else []

/-- A command's tiles and flags where it stops: as of the block boundary, or zero where an unstarted command would have started
from zero, unless an earlier TZERO of the core does it (R128, R222, R242; log 12). -/
def Core.stopTiles (k : Core) (now : Nat) (rest : List CubeCmd) (c : CubeCmd) : Core :=
  if c.isPart then k
  else if c.started then (k.putTiles c.tiles c.block).raiseNow now c.blockFl
  else
    let zeroed (d : BitVec 3) : Bool :=
      (rest.takeWhile (fun e => e.id != c.id)).any (fun e => e.maj == 0x35 && e.fn == 0 && e.td == d.toNat)
    let ds := c.emptyTiles.filter (fun d => !zeroed d)
    k.putTiles ds (ds.map (fun _ => 0))

/-- The metadata stream goes back to a position; its fetched codes are discarded (R244). -/
def Core.rewindMeta (k : Core) (pos : Nat) : Core :=
  { k with gs := k.gs.set 7 (k.gs[7].map (fun t => { t with next := pos, queue := [], failed := none })) }

/-- A sparse command that stops within a block gives its codes back. -/
def Core.stopMeta (k : Core) (c : CubeCmd) : Core :=
  if c.isProduct && c.fn == 1 && c.started && (c.step % 8 != 0 || !c.codes.isEmpty) then k.rewindMeta c.metaPos else k

/-! ## Stops -/

/-- The launch that is being loaded or runs. -/
def Region.current? (r : Region) : Option Launch := r.launches.find? (fun l => l.state == .loading || l.state == .running)

/-- The time by which a gang stop or a revocation stops a core of a launch (R391, R394); a broken core, and one that has returned
from its break, is stopped by no debug stop. -/
def stopTime (r : Region) (l : Launch) (c : Core) : Option Nat :=
  match r.revokeTs with
  | some ts => some ts
  | none => if c.broken || c.held then none else l.stopTs

/-- Whether the time of a stop of the launch placed on a core has come. -/
def State.stopping (s : State) (pos : Nat) : Bool :=
  let c := s.coreAt pos
  match (s.region? (s.owner pos)).bind (fun r => r.current?.map (fun l => (r, l))) with
  | some (r, l) =>
    c.launch == l.seq && l.cores.contains pos &&
      (match stopTime r l c with | some ts => decide (ts ≤ s.ticks) | none => false)
  | none => false

/-- Whether a command stands for a stop: it has come to a block boundary, and its core, or for a TPART any of the 16, is to be
stopped (R242). -/
def State.cubeStops (s : State) (c : CubeCmd) : Bool :=
  (!c.started || c.step % 8 == 0) && !c.stepped &&
  (s.stopping c.core || (c.isPart && (List.range 16).any (fun q => s.stopping (groupCore (groupOf c.core) q))))

/-- Whether the governor commands that a write-back of a core would stop stand at a block boundary, where alone they can stop
(R242). -/
def State.atBoundary (s : State) (pos : Nat) : Bool :=
  (s.groupAt (groupOf pos)).queue.all (fun c =>
    !(c.core == pos || c.isPart) || !c.started || c.stepped || c.step % 8 == 0 || s.ringWaits c.id)

/-- The governor commands of a core leave the queue for a write-back of its context (R242): the state without them, and the
entries. A command that has no slice left completes instead, but for a TPART whose rows wait (R229). A TPART led by
another core of the group stops at its block boundary, if it has started, and stays its leader's. A stopped LPROD keeps its snapshot (R277). -/
def State.pullCmds (s : State) (pos : Nat) : State × List CubeCmd :=
  let grp := groupOf pos
  let s := s.deliverGroup grp
  let (done, rest) := (s.cubeCmds pos).partition (fun c => c.stepped && s.deliveries.all (fun e => e.cmd != c.id))
  let s := done.foldl State.finishCmd s
  let t := s.modGroup grp (fun g => { g with
    queue := (g.queue.filter (fun c => c.core != pos)).map (fun c =>
      if c.isPart && !c.stepped then { c.atBlock with due := if c.started then s.now else c.due, started := false } else c) })
  let u := rest.foldl (fun u c => u.modCore pos (fun k => (k.stopTiles s.now rest c).stopMeta c)) t
  ({ u with
      snaps := u.snaps.map (fun x =>
        let e := rest.findIdx (fun c => c.isLprod && c.id == x.owner)
        if e < rest.length then
          { x with owner := 0, home := some (pos, (s.coreAt pos).launch, (s.coreAt pos).cwp, e) } else x)
      deliveries := u.deliveries.map (fun e => if rest.any (fun c => c.id == e.cmd) then { e with cmd := 0 } else e) },
    rest.map CubeCmd.atBlock)

end Sys2Proof.Machine
end

