-- ==== Sys2Proof/Machine/Ops.lean ====
section
/-! DEFINITION. The named operations that meanings are written from: issuing and stopping, taking a trap or an interrupt and
returning from one (R379-R389), the suits (R22-R27), landings (R87-R91). -/

namespace Sys2Proof.Machine

/-- Why an instruction does not issue. -/
inductive Stop where
  /-- a precise trap: cause, XVAL, and the region whose stage faulted, 0 for the core's own (R379, R401) -/
  | trap (cause : Nat) (xval : Word) (stage : RegionId)
  /-- a trap after a partial transfer (R158, R160) -/
  | trapHere (cause : Nat) (xval : Word) (stage : RegionId)
  /-- LOSTPAGE on the region's first access to a physical page since its retirement (R404) -/
  | lostPage (page : Nat) (xval : Word)
  /-- a block arrives with a guard tag that does not fit: its number, and XVAL (R324) -/
  | integrity (block : Nat) (xval : Word)
  /-- the failure of an element of a stream register of class v or g, raised at the instruction that pops it, or appends after
  it, or frees the register; the engine tries the element again (R166) -/
  | element (isV : Bool) (i : Nat) (cause : Nat) (xval : Word) (stage : RegionId)
  /-- it cannot issue in this cycle: the resource code of R32 -/
  | stall (code : Nat)
  /-- it issues in this cycle, but after other cores -/
  | late
  /-- a link does not answer: its number, the physical page, and whether the access is a write (R422) -/
  | silent (link page : Nat) (write : Bool)
  /-- the queue of a unit has no place for a request of so many bytes (R354) -/
  | queued (unit : EngineAt) (bytes : Nat)
  | fault (f : Fault)
  | refuse (r : Refusal)
  deriving DecidableEq, Repr

/-- The monad of meanings: the state is that at issue, changed step by step; a stop discards the changes unless it says
otherwise. -/
abbrev M := EStateM Stop State

/-- What `exec` answers. -/
abbrev Out := Host.Outcome State Fault Refusal

/-- Change the current core. -/
def modC (f : Core → Core) : M Unit := modify (fun s => { s with core := f s.core })

/-- The current core. -/
def getC : M Core := do return (← get).core

/-- Raise a precise trap. -/
def raise (cause : Nat) (xval : Word) : M α := throw (.trap cause xval 0)

/-- Raise a trap unless a check holds. -/
def check (ok : Bool) (cause : Nat) (xval : Word) : M Unit := if ok then pure () else raise cause xval

/-- Draw a free value (log 1). -/
def fresh : M Nat := fun s => .ok (Config.freeNat s.free) { s with free := s.free + 1 }

/-! ## Landings -/

/-- A stream to which the appended results that are due have landed (R85). -/
def Stream.land (now : Nat) (t : Stream) : Stream :=
  { t with queue := t.queue ++ (t.landing.filter (fun e => decide (e.1 ≤ now))).map Prod.snd,
           landing := t.landing.filter (fun e => decide (now < e.1)) }

/-- The element that lands last at a stream register by now: what it holds from then on (R78). -/
def Stream.lastLanded (now : Nat) (t : Stream) : Option Nat :=
  ((t.landing.filter (fun e => decide (e.1 ≤ now))).getLast?).map Prod.snd

/-- The appended results of a core that are due land: each joins its stream, and is what the register holds (R78, R85). -/
def Core.landStreams (c : Core) (now : Nat) : Core :=
  if (c.gs.toList ++ c.vs.toList).all (fun o => match o with | some t => t.landing.isEmpty | none => true) then c
  else
    { c with
      g := Vector.ofFn (fun i => match (c.gs.toList.getD (i.val - 24) none).bind (Stream.lastLanded now) with
        | some x => if 24 ≤ i.val then BitVec.ofNat 64 x else c.g[i.val]
        | none => c.g[i.val])
      v := Vector.ofFn (fun i => match (c.vs.toList.getD (i.val - 12) none).bind (Stream.lastLanded now) with
        | some x => if 12 ≤ i.val then BitVec.ofNat 512 x else c.v[i.val]
        | none => c.v[i.val])
      gs := c.gs.map (fun o => o.map (Stream.land now))
      vs := c.vs.map (fun o => o.map (Stream.land now)) }

/-- OR the flags that are due into CSAT (R128), forget closed windows, and let appended results land (R85). Flags that land in
this very cycle stay listed, for a CWR that meets them. -/
def Core.land (c : Core) (now : Nat) : Core :=
  let d : Core := { c with
    csat := (c.flagsDue.filter (fun e => decide (e.1 ≤ now))).foldl (fun a e => a ||| e.2) c.csat
    flagsDue := c.flagsDue.filter (fun e => decide (now ≤ e.1))
    windows := c.windows.filter (fun w => decide (now < w.closes)) }
  d.landStreams now

/-- When the last pending landing completes, or now. -/
def Core.drainTime (c : Core) (now : Nat) : Nat :=
  (c.gs.toList ++ c.vs.toList).foldl (fun a o => match o with
      | some (t : Stream) => t.landing.foldl (fun (a : Nat) (e : Nat × Nat) => max a e.1) a
      | none => a)
    (c.flagsDue.foldl (fun (a : Nat) (e : Nat × BitVec 8) => max a e.1) (c.windows.foldl (fun (a : Nat) (w : Window) => max a w.closes) now))

/-- Every pending landing completes (R90). -/
def Core.drain (c : Core) : Core :=
  { (c.landStreams (c.drainTime 0)) with
    csat := c.flagsDue.foldl (fun a (e : Nat × BitVec 8) => a ||| e.2) c.csat, flagsDue := [], windows := [] }

/-- Whether a register's landing window is open (R87). -/
def Core.windowOpen (c : Core) (now : Nat) (d : Dest) : Bool :=
  c.windows.any (fun w => w.dest == d && decide (now < w.closes))

/-- Open a register's window for l cycles; a later-issued write replaces an earlier one's (R89). -/
def Core.openWindow (c : Core) (d : Dest) (closes : Nat) (l : Nat) : Core :=
  let rest := c.windows.filter (fun w => w.dest != d)
  { c with windows := if l ≤ 1 then rest else ⟨d, closes⟩ :: rest }

/-- Raise flags that land with a result of latency l (R128). Until then CSAT is in its window (R87). DEDUCED (log 52): the flags of a
result that a later-issued write replaces (R89) land as if it had not been replaced. -/
def raiseFlags (f : BitVec 8) (l : Nat) : M Unit := do
  let s ← get
  if f = 0 then pure ()
  else modC (fun c => { c with flagsDue := (s.now + l * s.period c.pos, f) :: c.flagsDue })

/-- Memory as it stands once the timed stores visible by a time have landed. -/
def State.memoryAt (s : State) (at_ : Nat) : State :=
  (s.later.filter (fun e => decide (e.visible ≤ at_))).foldl (fun t e => t.setBytes e.place e.bytes) s

/-- The lanes of a gather as memory gives them, as one register value (R201). -/
def State.gathered (s : State) (g : Gather) : VWord :=
  BitVec.ofNat 512 (g.places.foldr (fun p acc => s.getNat p (g.width / 8) + acc * 2 ^ g.width) 0)

/-- The appended results of a stream, with the one of number n among those that land at a time replaced. -/
def amendLanding (lands x : Nat) : Nat → List (Nat × Nat) → List (Nat × Nat)
  | _, [] => []
  | n, e :: r =>
    if e.1 = lands then (match n with | 0 => (lands, x) :: r | k + 1 => e :: amendLanding lands x k r)
    else e :: amendLanding lands x n r

/-- A gather reads its elements and fills its register, or the strip that it has appended to a write stream (R201). -/
def State.fill (s : State) (g : Gather) : State :=
  let x := (s.memoryAt g.due).gathered g
  match g.append with
  | none => s.modCore g.core (fun c => { c with v := c.v.set g.dest.toNat x g.dest.isLt })
  | some (lands, n) => s.modCore g.core (fun c => { c with vs := c.vs.mapIdx (fun i o =>
      if i + 12 = g.dest.toNat then o.map (fun t => { t with landing := amendLanding lands x.toNat n t.landing }) else o) })

/-- The gathers of a core complete: its landings are drained (R90, R201; log 15). -/
def State.finishGathers (s : State) (pos : Nat) : State :=
  let mine := s.gathers.filter (fun g => g.core == pos)
  mine.foldl State.fill { s with gathers := s.gathers.filter (fun g => g.core != pos) }

/-! ## Suits -/

/-- Members of the suit a core belongs to that have not left it, by ascending group position (R22, R181). -/
def State.suitMembers (s : State) (pos : Nat) : List Nat :=
  let m := (s.coreAt pos).suit.memb
  (((List.range 16).filter (fun i => m.getLsbD i)).map (groupCore (groupOf pos))).filter (fun p =>
    p == pos || ((s.coreAt p).suit.act && (s.coreAt p).suit.memb == m))

/-- Dissolve the suit of a core: each member goes on alone after the last instruction it issued (R27). -/
def State.dissolve (s : State) (pos : Nat) : State :=
  if (s.coreAt pos).suit.act then
    (s.suitMembers pos).foldl (fun t p => t.modCore p (fun c =>
      { c with suit := Suit.idle, readyAt := max c.readyAt (c.follow.head?.map Queued.due |>.getD c.readyAt), follow := [],
               lead := none })) s
  else s

/-- Hold every other member of the suit for some time (R26). -/
def State.holdSuit (s : State) (pos d : Nat) : State :=
  if (s.coreAt pos).suit.act then
    ((s.suitMembers pos).filter (fun p => p != pos)).foldl (fun t p => t.modCore p (fun c =>
      { c with readyAt := c.readyAt + d, follow := c.follow.map (fun q => { q with due := q.due + d }) })) s
  else s

/-- The current core stalls for n cycles beyond the one of issue, and every member of its suit with it (R26, R90). -/
def stallFor (n : Nat) : M Unit :=
  modify (fun s =>
    let d := n * s.period s.core.pos
    ({ s with core := { s.core with readyAt := s.now + s.period s.core.pos + d } }).holdSuit s.core.pos d)

/-! ## Traps -/

/-- Whether a region handles a cause (R387); the root handles every cause. -/
def Region.handles (r : Region) (cause : Nat) : Bool := r.id == 1 || r.hmask.getLsbD cause

/-- The nearest region from q upward, q included, that handles a cause. -/
def State.handlerFrom (s : State) (cause : Nat) : Nat → RegionId → RegionId
  | 0, _ => 1
  | fuel + 1, q =>
    match s.region? q with
    | some r => if r.handles cause then q else s.handlerFrom cause fuel r.parent
    | none => 1

/-- An address carried forward through one region's stage into its parent's space (R388). -/
def State.stageUp (s : State) (r : Region) (v : Nat) : Option Nat :=
  if r.xroot = 0 then some v
  else
    match walkStage s r.id v (fun u => if r.id == 1 then .ok ⟨u, 7, 2 ^ 48, []⟩ else s.xlate 8 r.parent u .load) 3 r.xroot with
    | .ok (u, _, _) => some u
    | .error _ => none

/-- An address of region q's space carried forward up to the space of region h (R388). -/
def State.carryUp (s : State) (h : RegionId) : Nat → RegionId → Nat → Option Nat
  | 0, _, _ => none
  | fuel + 1, q, v =>
    if q = h then some v
    else match s.region? q with
      | some r => (s.stageUp r v).bind (fun u => s.carryUp h fuel r.parent u)
      | none => none

/-- Queue CHILDTRAP (false) or REVOKE (true) at a core (R380). -/
def State.queueTree (s : State) (pos : Nat) (revoke : Bool) (x : Word) : State :=
  s.modCore pos (fun c => { c with pending := { c.pending with trees := c.pending.trees ++ [(revoke, x)] } })

/-- Raise POSTREJECT at a core; the first address stays (R380). -/
def State.postReject (s : State) (pos : Nat) (x : Word) : State :=
  s.modCore pos (fun c => { c with pending := { c.pending with postReject := c.pending.postReject <|> some x } })

/-- Discard what streams hold beyond the program's position: fetched elements (R80); appended elements are written first by
the caller. -/
def Core.dropFetched (c : Core) : Core :=
  let f (o : Option Stream) : Option Stream := o.map (fun t => if t.isWrite then t else { t with queue := [], failed := none })
  { c with gs := c.gs.map f, vs := c.vs.map f }

/-- Write the workspace image of a core to its own local memory (R80, R386). -/
def State.writeBack (s : State) (pos : Nat) (cstat resume : Word) : State :=
  let (t, cmds) := s.pullCmds pos
  let c := t.coreAt pos
  (t.modCore pos Core.dropFetched).setBytes (localPlace pos c.cwp.toNat) (c.image t.now cstat resume cmds)

/-- Park the current core for a trap that goes to region h (R387, R388). The core has its XPC, XCAUSE and XVAL already; cstat is
CSTAT before the trap. One of the root parks the core, and the management class reports it. -/
def State.parkFor (s : State) (h : RegionId) (cstat : Word) : State :=
  let pos := s.core.pos
  let q := s.owner pos
  let s := s.syncRelease pos none
  let inPlace (t : State) : State :=
    let u := t.writeBack pos cstat t.core.xpc
    { u with core := { u.core with status := .parked none h } }
  match s.region? q with
  | none => inPlace s
  | some r =>
    let parent := r.parent
    let tell (t : State) (x : Nat) : State :=
      match t.region? h with
      | some hr => t.queueTree hr.supervisor false (BitVec.ofNat 64 (q.toNat * 2 ^ 48 + x))
      | none => t
    if q = 1 then (inPlace s).record (.rootTrap pos s.core.xcause s.core.xval)
    else
      let rec_ := r.swap + 2 ^ 17 * r.indexOf pos + s.core.cwp.toNat
      let up := s.carryUp h 9 parent rec_
      if r.swap != 0 && s.spanOk parent rec_ 0x4000 .store && up.isSome then
        let (t, cmds) := s.pullCmds pos
        let img := t.core.image t.now cstat t.core.xpc cmds
        let u := (t.poke parent rec_ img).modCore pos Core.dropFetched
        let a := up.getD 0
        tell { u with core := { u.core with status := .parked (some a) h, park := u.core.counters } } a
      else tell (inPlace s) (2 ^ 48 - 1)

/-- Whether appended elements of a core are still to be written. -/
def Core.appending (c : Core) : Bool := c.streams.any (fun t => t.isWrite && (!t.queue.isEmpty || !t.landing.isEmpty))

/-- Whether a write stream of a core stands at an element that has failed: what is appended to it is not written (R166). -/
def Core.appendStuck (c : Core) : Bool := c.streams.any (fun t => t.isWrite && t.failed.isSome)

/-- Reflect a trap of the current core to region h: its context is written back, and the core parks, once its appended elements are
written, as WSWP's drain has it (R80), and its governor commands stand at a block boundary (R242, R388). Until then it issues nothing,
and tries in every cycle. -/
def State.reflect (s : State) (h : RegionId) (cstat : Word) : State :=
  if s.atBoundary s.core.pos && (!s.core.appending || s.core.appendStuck) then { s with core := { s.core with reflecting := none } }.parkFor h cstat
  else { s with core := { s.core with reflecting := some (h, cstat), readyAt := s.now + s.period s.core.pos } }

/-- A taken BREAK in a region with DBGGANG: the core is broken, and the dealer stops the launch at Ts, 256 ticks on; one that comes
before Ts joins the stop, which ends when its core, too, has returned (R391). -/
def State.debugBreak (s : State) : State :=
  let q := s.owner s.core.pos
  match s.region? q with
  | none => s
  | some r =>
    if r.dbgGang then
      let t := s.modRegion q (fun r => { r with launches := r.launches.map (fun l =>
        if l.seq = s.core.launch then { l with stopTs := l.stopTs <|> some (s.ticks + 256), resumeTr := none } else l) })
      { t with core := { t.core with broken := true } }
    else s

/-- The pops of an abandoned wait count as not performed (R178, R385): the elements go back to the fronts of their streams. -/
def Core.unpop (c : Core) : Core :=
  let d := c.popped.foldl (fun (k : Core) e => { k with
    g := k.g.setIfInBounds (24 + e.1) e.2.2
    gs := k.gs.mapIdx (fun i o => if i = e.1 then
      o.map (fun t => { t with next := t.next - e.2.1.length, queue := e.2.1 ++ t.queue }) else o) }) c
  { d with popped := [] }

/-- A program counter is even (R47): an address that a handler or a saved context gives loses its bit 0 (log 69). -/
def evenPc (x : Word) : Word := x &&& ~~~1

/-- Taking a trap or an interrupt (R381): the pending landings drain; XPC, XCAUSE, XVAL are written; the suit dissolves; a
timed segment ends; the trap is reflected (R388), or INH is set and the handler at HVEC starts in the 8th cycle. `stage` is
the region whose stage faulted, 0 for none (R401). -/
def State.takeTrap (s : State) (interrupt : Bool) (cause : Nat) (xval : Word) (stage : RegionId) : State :=
  let pos := s.core.pos
  let done := s.core.drainTime s.now
  let cstat := s.core.cstat
  let s1 := (s.dissolve pos).finishGathers pos
  let c := s1.core.drain
  let c := match c.status with | .waiting _ => c.unpop | _ => c
  let c := { c with
    xpc := c.pc
    xcause := BitVec.ofNat 64 ((if interrupt then 2 ^ 63 else 0) + cause)
    xval := xval
    cseg := c.csegNow s.now
    timed := false
    status := .running
    refetch := none
    half := none
    draining := false
    late := 0
    popped := []
    lead := none
    readyAt := done + 8 * s.period pos }
  let s2 := { s1 with core := c }
  let s3 := if !interrupt && cause == 14 then s2.debugBreak else s2
  let q := s.owner pos
  let handles : Bool := match s.region? q with | some r => r.handles cause | none => true
  if stage != 0 && stage != q then s3.reflect (s.handlerFrom cause 9 stage) cstat
  else if !interrupt && (s.core.inh || !handles) then
    match s.region? q with
    | some r => s3.reflect (if q == 1 then 1 else s.handlerFrom cause 9 r.parent) cstat
    | none => s3.reflect 1 cstat
  else
    let hvec := match s.region? q with | some r => r.hvec | none => 0
    { s3 with core := { s3.core with inh := true, pc := evenPc hvec } }

/-! ## Issue -/

/-- The instruction of the current core has issued and the next one stands at pc + len (R30). -/
def State.advance (s : State) (len : Nat) : State :=
  { s with core := { s.core with
      pc := s.core.pc + BitVec.ofNat 64 len
      readyAt := max s.core.readyAt (s.now + s.period s.core.pos)
      dbg := false } }

/-- The instruction of the current core has issued and selects the next one (R147). The words fetched ahead stay while it is the
next in sequence. -/
def State.jump (s : State) (target : Word) : State :=
  { s with core := { s.core with
      pc := target
      readyAt := max s.core.readyAt (s.now + s.period s.core.pos)
      dbg := false
      refetch := if target - s.core.pc = 2 ∨ target - s.core.pc = 4 then s.core.refetch else none } }

/-- The instruction of the current core cannot issue in this cycle: a stall in free code (R28), TIMESLIP in timed code (R32). The
leader's target of a branch is set again at the next attempt. -/
def State.stallOn (s : State) (code : Nat) : State :=
  if s.core.timed then s.takeTrap false 8 (BitVec.ofNat 64 (code + s.core.suit.spos.toNat * 256)) 0
  else
    let d := s.period s.core.pos
    ({ s with core := { s.core with readyAt := s.now + d, draining := code == 8, lead := none } }).holdSuit s.core.pos d

/-- A request to a page behind a link is sent and not answered (R422). A write of the page is pending from now on (R423). -/
def State.unheard (s : State) (link page : Nat) (write : Bool) : State :=
  s.modLink link (fun k => { k with
    asked := k.asked <|> some s.now
    writing := (if write then [page] else []) ++ k.writing.filter (fun p => !(write && p == page)) })

/-- Whether an access to a link may find it silent: the next thing that the outside does is to let it time out (R422). -/
def State.mayBeSilent (s : State) (link : Nat) : Bool :=
  match s.inputs with
  | .expanderTimeout l :: _ => l == link && !(s.linkAt link).isolated
  | _ => false

/-- Whether an access to a frame behind a link is left unanswered: a free value chooses where its link may be silent (R422). DESIGN
CHOICE (log 61): an expander that has left one request unanswered answers none after it. -/
def State.unanswered (s : State) (frame : Nat) : Bool :=
  match linkOf frame with
  | some l => s.mayBeSilent l && ((s.linkAt l).asked.isSome || Config.pick s.free % 2 == 1)
  | none => false

/-- The engine tries the failed element of a stream register again (R166, R385). -/
def Core.retryElement (c : Core) (isV : Bool) (i : Nat) : Core :=
  let again (j : Nat) (o : Option Stream) : Option Stream := if j = i then o.map (fun t => { t with failed := none }) else o
  if isV then { c with vs := c.vs.mapIdx again } else { c with gs := c.gs.mapIdx again }

/-- Pops are not performed by an instruction that stops after a partial transfer (R158, R385): the streams of c that d still has
bound stand in d as they do in c. -/
def Core.withPops (d c : Core) : Core :=
  let kept (i : Nat) : Bool := (c.gs.toList.getD i none).isSome && (d.gs.toList.getD i none).isSome
  { d with
    g := Vector.ofFn (fun i => if 24 ≤ i.val && kept (i.val - 24) then c.g[i.val] else d.g[i.val])
    gs := Vector.ofFn (fun i => if kept i.val then c.gs[i.val] else d.gs[i.val]) }

/-! ## Requests that wait at a unit (R353, R354) -/

/-- A unit as it stands in the running window, the requests that are done left out. -/
def State.engineAt (s : State) (u : EngineAt) : MemEngine :=
  let e := (s.engines.find? (fun e => e.unit == u)).getD ⟨u, [], 0, [], [], 0⟩
  { e with
    waiting := e.waiting.filter (fun x => decide (s.now < x.2))
    window := s.ticks / 1024
    served := if e.window = s.ticks / 1024 then e.served else [] }

/-- The requests that wait at a unit, but for that of a core: those that were not tried in the last two cycles have been given up. -/
def MemEngine.otherAsks (e : MemEngine) (now pos : Nat) : List Ask :=
  e.asks.filter (fun a => a.core != pos && decide (now ≤ a.tried + 40))

/-- The request of a core as it waits: with its deficit, if it has waited before. -/
def MemEngine.askOf (e : MemEngine) (now pos n : Nat) : Ask :=
  match e.asks.find? (fun a => a.core == pos && decide (now ≤ a.tried + 40)) with
  | some a => { a with bytes := n, tried := now }
  | none => ⟨pos, n, 0, now⟩

/-- A request of the current core waits at a unit. -/
def State.ask (s : State) (u : EngineAt) (n : Nat) : State :=
  let e := s.engineAt u
  { s with engines := { e with asks := e.askOf s.now s.core.pos n :: e.otherAsks s.now s.core.pos } :: s.engines.filter (fun x => x.unit != u) }

/-- What a stop leads to: s is the state at issue, t the state where the meaning stopped. -/
def stopped (s t : State) : Stop → Out
  | .trap c x q => .next (s.takeTrap false c x q)
  | .trapHere c x q => .next ({ t with core := t.core.withPops s.core }.takeTrap false c x q)
  | .lostPage page x =>
    .next ((s.modRegion (s.owner s.core.pos) (fun r => { r with lost := r.lost.filter (fun p => p != page) })).takeTrap false 18 x 0)
  | .integrity b x => .next ((s.untear b).takeTrap false 13 x 0)
  | .element v i c x q =>
    .next ({ s with core := s.core.retryElement v i }.takeTrap false c x q)
  | .stall code => .next (s.stallOn code)
  | .late => .next { s with core := { s.core with late := 2 } }
  | .silent l p w => .next ({ s.unheard l p w with free := s.free + 1 }.stallOn 0)
  | .queued u n => .next (if s.core.timed then s.stallOn 7 else (s.ask u n).stallOn 7)
  | .fault f => .fault f
  | .refuse r => .refused r

/-- Issue an instruction of some length that goes on to the next one. -/
def issue (len : Nat) (body : M Unit) (s : State) : Out :=
  match body s with
  | .ok _ t => .next (t.advance len)
  | .error e t => stopped s t e

/-- Issue an instruction that names the next program counter. -/
def issueTo (body : M Word) (s : State) : Out :=
  match body s with
  | .ok target t => .next (t.jump target)
  | .error e t => stopped s t e

/-- Issue an instruction that sets the program counter and the time of the next issue itself. -/
def issueOwn (body : M Unit) (s : State) : Out :=
  match body s with
  | .ok _ t => .next t
  | .error e t => stopped s t e

/-- An event happens if it is enabled; otherwise it is refused by name. -/
def event (name : String) (enabled : State → Bool) (act : State → State) (s : State) : Out :=
  if enabled s then .next (act s) else .refused (.notEnabled name)

/-- Do what a body does, or, where it stops, stay as before. -/
def attempt (body : M Unit) (s : State) : State :=
  match body s with
  | .ok _ t => t
  | .error _ _ => s

/-! ## Interrupts -/

/-- The pending interrupt that is taken first: code, XVAL, and what stays pending (R380, R382). -/
def Pending.first (p : Pending) : Option (Nat × Word × Pending) :=
  match p.timer with
  | some x => some (1, x, { p with timer := none })
  | none => match p.mailbox with
    | some x => some (2, x, { p with mailbox := none })
    | none =>
      let tree5 : Option (Nat × Word × Pending) := match p.trees with
        | (true, x) :: r => some (5, x, { p with trees := r })
        | _ => none
      match p.trees with
      | (false, x) :: r => some (3, x, { p with trees := r })
      | _ => match p.switch with
        | some x => some (4, x, { p with switch := none })
        | none => match tree5 with
          | some e => some e
          | none => match p.postReject with
            | some x => some (6, x, { p with postReject := none })
            | none => match p.hostmsg with
              | x :: r => some (7, x, { p with hostmsg := r })
              | [] => none

/-- Whether the current core takes an interrupt before it issues or goes on waiting: none while a drain, or the parking for a trap,
is under way (R382). A core that awaits the dealer is not interruptible (R385). -/
def State.interruptible (s : State) : Bool :=
  !s.core.inh && !s.core.timed && !s.core.draining && s.core.reflecting.isNone && s.core.pending.first.isSome &&
  (match s.core.status with
   | .running => true
   | .waiting (.answer _) => false
   | .waiting _ => true
   | _ => false)

/-- Take the first pending interrupt: XPC is the instruction that has not issued (R382). -/
def State.takeInterrupt (s : State) : State :=
  match s.core.pending.first with
  | none => s
  | some (code, x, rest) =>
    ({ s with core := { s.core with pending := rest } }).takeTrap true code x 0

/-! ## Return -/

/-- ERET without an operand (R383): INH clears, the program goes on at XPC four cycles later, a command held by SPARSEMETA
re-enters the queue head (R244), a debug stop no longer waits for this core (R391). -/
def State.eret (s : State) : State :=
  let t := { s with core := { s.core with
      inh := false, pc := evenPc s.core.xpc, readyAt := s.now + 4 * s.period s.core.pos, dbg := false,
      broken := false, held := s.core.held || s.core.broken } }
  t.modGroup (groupOf s.core.pos) (fun g =>
    let mine (c : CubeCmd) : Bool := c.core == s.core.pos && c.held
    { g with queue := (g.queue.filter mine).map (fun c => { c with held := false, due := s.now }) ++
                      g.queue.filter (fun c => !mine c) })

end Sys2Proof.Machine
end

