-- ==== Sys2Proof/Machine/Operands.lean ====
section
/-! DEFINITION. Operand forms: scalar, vector, mask and tile registers with their hard-wired values, landing windows, stream
pops and appends (R69-R72, R82-R90, R166-R167), tile locks (R237-R239); data addresses, their checks in order, and single
accesses to memory (R150-R160). -/

namespace Sys2Proof.Machine

/-! ## Streams -/

/-- The binding of a g register, when it is a bound stream register. -/
def Core.gstream (c : Core) (i : BitVec 5) : Option Stream :=
  if h : 24 ≤ i.toNat then c.gs[i.toNat - 24]'(by omega) else none

/-- The binding of a v register. -/
def Core.vstream (c : Core) (i : BitVec 4) : Option Stream :=
  if h : 12 ≤ i.toNat then c.vs[i.toNat - 12]'(by omega) else none

/-- Replace the binding of a g stream register. -/
def Core.setGstream (c : Core) (i : BitVec 5) (t : Option Stream) : Core :=
  if h : 24 ≤ i.toNat then { c with gs := c.gs.set (i.toNat - 24) t (by omega) } else c

/-- Replace the binding of a v stream register. -/
def Core.setVstream (c : Core) (i : BitVec 4) (t : Option Stream) : Core :=
  if h : 12 ≤ i.toNat then { c with vs := c.vs.set (i.toNat - 12) t (by omega) } else c

/-- XVAL of a STREAM trap: register, class, subcode (R167). -/
def streamXval (reg : Nat) (isV : Bool) (sub : Nat) : Word :=
  BitVec.ofNat 64 (reg + 32 * isV.toNat + 256 * sub)

/-- Raise STREAM. -/
def raiseStream (reg : Nat) (isV : Bool) (sub : Nat) : M α := raise 17 (streamXval reg isV sub)

/-- Elements that the engine holds ahead of the program, at most (R323). -/
def streamDepth (isV : Bool) : Nat := if isV then 4 else 16

/-- The stream after a pop of its next element, and that element (R85, R86, R166, R167). -/
def popStream (reg : Nat) (isV : Bool) (t : Stream) : M (Nat × Stream) :=
  if t.isWrite then raiseStream reg isV 3
  else if t.count ≤ t.next then raiseStream reg isV 1
  else match t.queue with
    | x :: r => pure (x, { t with queue := r, next := t.next + 1 })
    | [] => match t.failed with
      | some (cause, xval, q) => throw (.element isV (reg - if isV then 12 else 24) cause xval q)
      | none => throw (.stall 3)

/-- Insert an appended result by its landing. -/
def insertLanding (e : Nat × Nat) : List (Nat × Nat) → List (Nat × Nat)
  | [] => [e]
  | x :: r => if x.1 ≤ e.1 then x :: insertLanding e r else e :: x :: r

/-- The stream after an append of a result that lands at a time (R85, R86, R166, R167). DESIGN CHOICE (log 96): an append past the
last element raises its STREAM trap, whether or not an earlier element has failed. -/
def appendStream (reg : Nat) (isV : Bool) (t : Stream) (x lands : Nat) : M Stream :=
  if !t.isWrite then raiseStream reg isV 3
  else if t.count ≤ t.next then raiseStream reg isV 2
  else match t.failed with
    | some (cause, xval, q) => throw (.element isV (reg - if isV then 12 else 24) cause xval q)
    | none =>
      if streamDepth isV ≤ t.queue.length + t.landing.length then throw (.stall 3)
      else pure { t with landing := insertLanding (lands, x % 2 ^ (8 * t.size)) t.landing, next := t.next + 1 }

/-- A fetched element as a g register holds it: extended as the binding states (R166). -/
def gElement (t : Stream) (x : Nat) : Word :=
  if t.mode.toNat / 2 % 2 = 1 then (BitVec.ofNat (8 * t.size) x).signExtend 64 else BitVec.ofNat 64 x

/-- Tag of a v stream (R164). -/
def Stream.tag (t : Stream) : Tag := BitVec.ofNat 5 (t.mode.toNat / 256)

/-! ## Scalar registers -/

/-- The bits of a g register, whatever window is open and whatever is bound. -/
def Core.rawG (c : Core) (i : BitVec 5) : Word := if i = 0 then 0 else c.g[i.toNat]

/-- A g register with new bits; g0 discards them (R69). -/
def Core.putG (c : Core) (i : BitVec 5) (x : Word) : Core :=
  if i = 0 then c else { c with g := c.g.set i.toNat x }

/-- Unfinished governor commands of the current core: those in the queue and the follow-ons of its copies (R210, R243). -/
def State.lockers (s : State) : List CubeCmd :=
  s.cubeCmds s.core.pos ++ (s.cmds.filter (fun e => e.core == s.core.pos)).filterMap EngCmd.follow

/-- A TMULS of the core is unfinished, so that g31 may not be popped (R226, R236). -/
def State.metaBusy (s : State) : Bool :=
  s.lockers.any (fun c => c.word.toNat % 128 == 0x69 && c.word.toNat / 2 ^ 28 == 1)

/-- gread (R51): g0 is zero; a bound stream pops; inside a landing window the value is undefined (R87). -/
def readG (i : BitVec 5) : M Word := do
  let s ← get
  if i = 0 then pure 0
  else match s.core.gstream i with
    | some t =>
      if i = 31 && s.metaBusy then throw (.stall 3)
      else
        let (x, t) ← popStream i.toNat false t
        let w := gElement t x
        modC (fun c => (c.putG i w).setGstream i (some t))
        pure w
    | none =>
      if s.core.windowOpen s.now (.g i) then return BitVec.ofNat 64 (← fresh)
      else pure (s.core.rawG i)

/-- gwrite with landing latency l (R51, R85, R87). -/
def writeG (i : BitVec 5) (x : Word) (l : Nat) : M Unit := do
  let s ← get
  if i = 0 then pure ()
  else match s.core.gstream i with
    | some t =>
      let t ← appendStream i.toNat false t x.toNat (s.now + l * s.period s.core.pos)
      modC (fun c => c.setGstream i (some t))
    | none => modC (fun c => (c.putG i x).openWindow (.g i) (s.now + l * s.period c.pos) l)

/-- A g register read without popping: a captured operand (R211), or a base. -/
def peekG (i : BitVec 5) : M Word := do
  let s ← get
  if i ≠ 0 && (s.core.gstream i).isNone && s.core.windowOpen s.now (.g i) then return BitVec.ofNat 64 (← fresh)
  else pure (s.core.rawG i)

/-! ## Vector registers and masks -/

/-- The tag that a vector register shows: a bound read stream's is that of its binding (R85). -/
def Core.tagV (c : Core) (i : BitVec 4) : Tag :=
  match c.vstream i with
  | some t => if t.isWrite then c.vtag[i.toNat] else t.tag
  | none => c.vtag[i.toNat]

/-- XVAL of a TAG trap: found tag, register, operand (R83). -/
def tagXval (found : Nat) (reg : Nat) (operand : Nat) : Word :=
  BitVec.ofNat 64 (found % 32 + reg % 32 * 256 + operand * 8192)

/-- Raise TAG for an operand. -/
def raiseTag (found reg operand : Nat) : M α := raise 2 (tagXval found reg operand)

/-- The bits of a vector register as a source (R85, R87). -/
def readV (i : BitVec 4) : M VWord := do
  let s ← get
  match s.core.vstream i with
  | some t =>
    let (x, t) ← popStream i.toNat true t
    let w := BitVec.ofNat 512 x
    modC (fun c => ({ c with v := c.v.set i.toNat w, vtag := c.vtag.set i.toNat t.tag }).setVstream i (some t))
    pure w
  | none =>
    if s.core.windowOpen s.now (.v i) then return BitVec.ofNat 512 (← fresh)
    else pure s.core.v[i.toNat]

/-- A vector register written with a tag; the tag stands at once, the bits land l cycles later (R84, R85, R87). -/
def writeV (i : BitVec 4) (x : VWord) (tag : Tag) (l : Nat) : M Unit := do
  let s ← get
  match s.core.vstream i with
  | some t =>
    let t ← appendStream i.toNat true t x.toNat (s.now + l * s.period s.core.pos)
    modC (fun c => { c with vtag := c.vtag.set i.toNat tag }.setVstream i (some t))
  | none =>
    set { s with gathers := s.gathers.filter (fun g => !(g.core == s.core.pos && g.dest == i && g.append.isNone)) }
    modC (fun c => ({ c with v := c.v.set i.toNat x, vtag := c.vtag.set i.toNat tag }).openWindow (.v i)
      (s.now + l * s.period c.pos) l)

/-- The bits of a mask; m0 is all ones (R71). -/
def Core.rawM (c : Core) (i : BitVec 3) : Word := if i = 0 then BitVec.allOnes 64 else c.m[i.toNat]

/-- A mask read. -/
def readM (i : BitVec 3) : M Word := do
  let s ← get
  if i ≠ 0 && s.core.windowOpen s.now (.m i) then return BitVec.ofNat 64 (← fresh)
  else pure (s.core.rawM i)

/-- A mask written with landing latency l; m0 discards it (R71). -/
def writeM (i : BitVec 3) (x : Word) (l : Nat) : M Unit := do
  let s ← get
  if i = 0 then pure ()
  else modC (fun c => ({ c with m := c.m.set i.toNat x }).openWindow (.m i) (s.now + l * s.period c.pos) l)

/-! ## Tiles -/

/-- Tiles fully locked by a command: the accumulator of a product, the destination of TZERO and TLD (R237, R277). A TPART's
tD is a ring, not locked so. -/
def CubeCmd.fullLocks (c : CubeCmd) : List Nat :=
  if c.isLprod then c.tiles.map BitVec.toNat
  else if c.isProduct then (if c.fn = 3 then [] else [c.td])
  else if c.fn ≤ 1 then [c.td] else []

/-- Tiles write-locked by a command: its tile sources, until the governor's last read of them (R237). -/
def CubeCmd.writeLocks (c : CubeCmd) : List Nat :=
  let tile (x : Nat) : List Nat := if x < 8 then [x] else []
  if c.isLprod || (c.started && decide (c.total ≤ c.step)) then []
  else if c.isProduct then
    tile c.asel ++ tile c.bsel ++ (if c.fn = 2 then tile (c.bsel + 1) else []) ++ tile c.csel
  else if c.fn = 2 then [c.td] else if c.fn = 3 then tile c.asel else []

/-- Whether a tile may not be written now (R239). -/
def State.writeLocked (s : State) (i : BitVec 3) : Bool :=
  s.lockers.any (fun c => c.fullLocks.contains i.toNat || c.writeLocks.contains i.toNat) ||
  (s.core.ract && s.core.rtile == i)

/-- Whether a tile may not be read now (R239). -/
def State.readLocked (s : State) (i : BitVec 3) : Bool := s.lockers.any (fun c => c.fullLocks.contains i.toNat)

/-- Whether a row of a tile may be read now: of a bound ring only one that is FULL (R231, R239). -/
def Core.rowReady (c : Core) (i : BitVec 3) (row : Nat) : Bool := !(c.ract && c.rtile == i) || c.rfull.getLsbD row

/-- The bits of a tile. -/
def readT (i : BitVec 3) : M TWord := do
  let s ← get
  if s.readLocked i || !(List.range 16).all (s.core.rowReady i) then throw (.stall 1)
  else if s.core.windowOpen s.now (.t i) then return BitVec.ofNat 8192 (← fresh)
  else pure s.core.t[i.toNat]

/-- The bits of one row of a tile. -/
def readRow (i : BitVec 3) (row : Nat) : M VWord := do
  let s ← get
  if s.readLocked i || !s.core.rowReady i row then throw (.stall 1)
  else if s.core.windowOpen s.now (.t i) then return BitVec.ofNat 512 (← fresh)
  else pure (BitVec.ofNat 512 (s.core.t[i.toNat].toNat / 2 ^ (512 * row)))

/-- A tile written with a tag. -/
def writeT (i : BitVec 3) (x : TWord) (tag : Tag) (l : Nat) : M Unit := do
  let s ← get
  if s.writeLocked i then throw (.stall 1)
  else modC (fun c => ({ c with t := c.t.set i.toNat x, ttag := c.ttag.set i.toNat tag }).openWindow (.t i)
    (s.now + l * s.period c.pos) l)

/-! ## Data addresses (R150) -/

/-- Own local memory of the core at a place, by either window (R150). -/
def Win.isOwn (w : Win) (pos : Nat) : Bool :=
  match w with
  | .own => true
  | .coreMem p => p == pos
  | _ => false

/-- An untranslated window. -/
def Win.plain : Win → Bool
  | .own | .coreMem _ | .spad _ => true
  | _ => false

/-- Landing latency of a load from a window (R88, R151). -/
def State.loadLatency (s : State) (w : Win) : Nat :=
  let pos := s.core.pos
  match w with
  | .own => 3
  | .mailbox => 3
  | .spad g => if g = groupOf pos then 6 else 8 + 2 * meshDist pos (groupCore g 0)
  | .coreMem p => 8 + 2 * meshDist pos p
  | .virt | .hole => 1

/-- Cycles after which a timed store is visible (R33, R151). -/
def State.storeDelay (s : State) (w : Win) : Nat :=
  let pos := s.core.pos
  match w with
  | .own => 1
  | .spad g => if g = groupOf pos then 5 else 7 + 2 * meshDist pos (groupCore g 0)
  | .coreMem p => 7 + 2 * meshDist pos p
  | _ => 1

/-- A piece of an access that lies in one page: its place, the place its line counts under, its length, the address it was
named by. -/
structure Seg where
  place : Nat
  home : Nat
  len : Nat
  addr : Nat
  deriving DecidableEq, Repr

/-- Rows 1 to 5 of R152 for an access of n bytes at v with alignment al; w is the instruction word. -/
def checkSpan (w : Nat) (v n al : Nat) (k : AccKind) : M Win := do
  let s ← get
  check (v % al == 0) 3 (BitVec.ofNat 64 v)
  let win := s.window v
  check (win != .hole && decide (v + n ≤ 2 ^ 64) && s.window (v + n - 1) == win) 4 (BitVec.ofNat 64 v)
  check (!(s.core.timed && win == .virt)) 1 (BitVec.ofNat 64 w)
  match win with
  | .mailbox => check (n == 4 && k == .load) 6 (BitVec.ofNat 64 v)
  | .coreMem p => check (s.owner p == s.owner s.core.pos) 6 (BitVec.ofNat 64 v)
  | .spad g =>
    let grp := s.groupAt g
    check (s.assigned g == s.owner s.core.pos) 6 (BitVec.ofNat 64 v)
    let off := (v - 0x44000000) % 0x400000
    check ((grp.pairOffset off).isSome && (grp.pairOffset (off + n - 1)).isSome) 6 (BitVec.ofNat 64 v)
  | _ => pure ()
  pure win

/-- Whether the page of address v in region q's space belongs to the node table that the region uses (R251). -/
def State.tablePage (s : State) (q : RegionId) (v : Nat) : Bool :=
  let t := s.tableOwner 8 q
  match s.region? t, s.carryUp t 9 q v with
  | some r, some u => decide (r.lntBase / 65536 ≤ u / 65536) && decide (u / 65536 * 65536 < r.lntBase + 64 * r.lntCap)
  | _, _ => false

/-- Whether the page of address v in region q's space is mapped read-only because it belongs to the node table that the region
uses, or to an image other than that of an OPEN DENSE node of its own (R251, R264). -/
def State.lineagePage (s : State) (q : RegionId) (v : Nat) : Bool :=
  s.tablePage q v ||
  let t := s.tableOwner 8 q
  match s.region? t, s.carryUp t 9 q v with
  | some r, some u =>
    let page := u / 65536
    match s.runs.find? (fun e => e.table == t && decide (r.poolBase / 65536 + e.first ≤ page) &&
          decide (page < r.poolBase / 65536 + e.first + e.len)) with
    | none => false
    | some e =>
      let at_ (off n : Nat) : Nat := s.peekNat t (r.lntBase + 64 * e.node + off) n
      !(at_ 0x05 1 == 0 && at_ 0x06 1 == 1 && at_ 0x24 2 == q.toNat && at_ 0x10 8 == r.poolBase + 65536 * e.first)
  | _, _ => false

/-- CRC-32C of bytes, bit by bit: Castagnoli, reflected, initial and final value all ones (R324). -/
def crc32c (bs : List Byte) : BitVec 32 :=
  let bit (c : BitVec 32) : BitVec 32 := if c.getLsbD 0 then (c >>> 1) ^^^ 0x82F63B78 else c >>> 1
  ~~~(bs.foldl (fun c b => (List.range 8).foldl (fun c _ => bit c) (c ^^^ b.zeroExtend 32)) (BitVec.allOnes 32))

/-- The guard tag of the bytes of a transfer in the block of a virtual address, in a page of some VERSION (R324). -/
def guardTag (version v : Nat) (bs : List Byte) : BitVec 80 :=
  BitVec.ofNat 80 (version * 2 ^ 64 + v / 256 % 2 ^ 32 * 2 ^ 32 + (crc32c bs).toNat)

/-- The blocks of a piece: offset and bytes of each (R324). -/
def Seg.blocks (g : Seg) : List (Nat × Nat) :=
  (List.range ((g.home % 256 + g.len + 255) / 256)).map (fun i =>
    let off := if i = 0 then 0 else 256 * i - g.home % 256
    (off, min (256 - (g.home + off) % 256) (g.len - off)))

/-- The first block of a piece whose bytes arrive with a guard tag that does not fit: its number, and the address of its first
granule in the piece (R324). The address of the tag is virtual for virtual memory, and else that of the cluster window; local memory
and scratchpads have no VERSION, which counts as 0 (log 70). -/
def State.tornBlock (s : State) (g : Seg) (window : Nat) (bs : List Byte) : Option (Nat × Nat) :=
  if s.corrupt.isEmpty then none
  else
    let virt := decide (2 ^ 36 ≤ g.home)
    let version := if virt then s.version ((g.home - 2 ^ 36) / 65536) else 0
    let first := if virt then g.addr else window
    g.blocks.findSome? (fun b =>
      (s.corrupt.find? (fun e => e.1 == (g.home + b.1) / 256 &&
          e.2 != guardTag version (first + b.1) ((bs.drop b.1).take b.2))).map
        (fun e => (e.1, (g.addr + b.1) / 64 * 64)))

/-- The block of a piece of virtual memory that is read and of which the guard tag does not fit at its consumer (R324). What a core
reads in its cluster crosses no die (R10). -/
def State.badBlock (s : State) (g : Seg) : Option (Nat × Nat) :=
  if s.corrupt.isEmpty ∨ g.home < 2 ^ 36 then none else s.tornBlock g 0 (s.getBytes g.place g.len)

/-- The block of a page as it crosses for a move or a promotion of which the guard tag does not fit, the page standing at a virtual
address (R324). -/
def State.pageTorn (s : State) (page v : Nat) : Option (Nat × Nat) :=
  if s.corrupt.isEmpty then none
  else
    let f := s.frame page
    s.badBlock ⟨framePlace f 0, 2 ^ 36 + 65536 * page, if s.isCompressed f then s.storedBytes f else 65536, v / 65536 * 65536⟩

/-- An access to a frame behind a link, which may stay unanswered (R422). -/
def answered (page : Nat) (write : Bool) : M Unit := do
  let s ← get
  match linkOf (s.frame page) with
  | none => pure ()
  | some l =>
    if s.unanswered (s.frame page) then throw (.silent l page write)
    if s.mayBeSilent l then set { s with free := s.free + 1 }

/-- Row 6 of R152 for the piece of an access in one page of virtual memory: where it lies, after an implicit promotion
(R420). An access behind an isolated expander goes on to row 8. -/
def resolvePage (v n : Nat) (k : AccKind) : M Seg := do
  let s ← get
  let q := s.owner s.core.pos
  let (r, s) := s.translate (dieOf s.core.pos) q v k
  set s
  match r with
  | .error f => throw (.trap (if f.perm then 6 else 5) (BitVec.ofNat 64 (f.addr / 65536 * 65536)) (if f.stage = q then 0 else f.stage))
  | .ok x =>
    if k != .load && s.lineagePage q v then throw (.trap 6 (BitVec.ofNat 64 (v / 65536 * 65536)) 0)
    let page := x.pa / 65536
    if s.frameIsolated (s.frame page) then pure ()
    else if s.isCompressed (s.frame page) then
      if s.promoting page then throw (.stall 0)
      answered page false
      match (← get).pageTorn page v with
      | some (b, a) => throw (.integrity b (BitVec.ofNat 64 a))
      | none => pure ()
      match (← get).promotePage page with
      | some t => set t
      | none => throw (.stall 0)
    else answered page (k != .load)
    let s ← get
    pure ⟨s.physPlace x.pa, 2 ^ 36 + x.pa, n, v⟩

/-- The pieces of a virtual access, page by page. -/
def resolvePages (k : AccKind) : Nat → Nat → Nat → M (List Seg)
  | 0, _, _ => pure []
  | fuel + 1, v, n =>
    if n = 0 then pure []
    else do
      let here := min n (65536 - v % 65536)
      let g ← resolvePage v here k
      let rest ← resolvePages k fuel (v + here) (n - here)
      pure (g :: rest)

/-- The pieces of an access in a window that has passed `checkSpan`. -/
def segments (win : Win) (v n : Nat) (k : AccKind) : M (List Seg) := do
  let s ← get
  match win with
  | .own => let p := localPlace s.core.pos v; pure [⟨p, p, n, v⟩]
  | .coreMem q => let p := localPlace q (v % 0x20000); pure [⟨p, p, n, v⟩]
  | .spad g =>
    let off := (v - 0x44000000) % 0x400000
    pure [⟨spadPlace g (((s.groupAt g).pairOffset off).getD off), spadPlace g off, n, v⟩]
  | .virt => resolvePages k (n / 65536 + 2) v n
  | .mailbox | .hole => pure []

/-- The lines of a piece with the addresses they are named by. -/
def Seg.lines (g : Seg) : List (Nat × Nat) :=
  (List.range ((g.home % 64 + g.len + 63) / 64)).map (fun i => (g.home / 64 + i, g.addr / 64 * 64 + 64 * i))

/-- The granules of a piece with their addresses. -/
def Seg.granules (g : Seg) : List (Nat × Nat) :=
  (List.range ((g.place % 64 + g.len + 63) / 64)).map (fun i => (g.place / 64 * 64 + 64 * i, g.addr / 64 * 64 + 64 * i))

/-- Whether an access is free of races: a timetable access, or one to a handler's own local memory (R326, R336). -/
def State.unraced (s : State) (win : Win) : Bool :=
  (s.core.timed && win.plain) || (win.isOwn s.core.pos && s.core.inh)

/-- Whether a load of a piece is no data access: it reads barriers or status objects, or a node record (R325). -/
def State.noData (s : State) (g : Seg) : Bool :=
  (!s.objects.isEmpty && (List.range ((g.home % 16 + g.len + 15) / 16)).all (fun i => s.objects.contains (g.home / 16 * 16 + 16 * i, 16))) ||
  (decide (2 ^ 36 ≤ g.home) && s.tablePage (s.owner s.core.pos) g.addr)

/-- The pieces of an access of a kind that are data accesses (R325). -/
def State.dataSegs (s : State) (segs : List Seg) (k : AccKind) : List Seg :=
  if k = .load then segs.filter (fun g => !s.noData g) else segs

/-- The race check of some pieces. -/
def raceSegs (segs : List Seg) (k : AccKind) : M Unit := do
  let s ← get
  match s.raceCheck s.core.pos k ((s.dataSegs segs k).flatMap Seg.lines) with
  | some x => raise 7 x
  | none => pure ()

/-- Row 7 of R152: the race check. -/
def raceRow (win : Win) (segs : List Seg) (k : AccKind) : M Unit := do
  if (← get).unraced win then pure () else raceSegs segs k

/-- The piece of an access in a page whose retirement lost bytes, on its region's first access to it (R404). -/
def State.lostIn (s : State) (segs : List Seg) : Option Seg :=
  segs.find? (fun g => decide (2 ^ 36 ≤ g.home) &&
    ((s.region? (s.owner s.core.pos)).any (fun r => r.lost.contains (linePage (g.home / 64)))))

/-- Row 8 of R152 for one piece that is read, and the granule that fails: the lower one of a poisoned granule and of a block with a
guard tag that does not fit, poison first where they are one (R324; log 70). -/
def State.badGranule (s : State) (g : Seg) : Option (Stop × Nat) :=
  let bad := (g.granules.find? (fun e => s.poisoned e.1)).map Prod.snd
  match bad, s.badBlock g with
  | none, none => none
  | some a, none => some (.trap 12 (BitVec.ofNat 64 a) 0, a)
  | none, some (b, a) => some (.integrity b (BitVec.ofNat 64 a), a)
  | some a, some (b, c) => if a ≤ c then some (.trap 12 (BitVec.ofNat 64 a) 0, a) else some (.integrity b (BitVec.ofNat 64 c), c)

/-- Whether a piece lies behind an isolated expander (R422). -/
def State.cutOff (s : State) (g : Seg) : Bool := decide (2 ^ 36 ≤ g.home) && s.frameIsolated (s.frame (linePage (g.home / 64)))

/-- Row 8 of R152 for one piece of an access, and the granule that fails: POISON behind an isolated expander, for a store too (R422);
else poison and guard tags of what is read. -/
def State.denied (s : State) (k : AccKind) (g : Seg) : Option (Stop × Nat) :=
  if s.cutOff g then some (.trap 12 (BitVec.ofNat 64 (g.addr / 64 * 64)) 0, g.addr / 64 * 64)
  else if k == .store then none
  else s.badGranule g

/-- Row 8 of R152: LOSTPAGE on a region's first access to a retired page (R404), then poison and guard tags. -/
def poisonRow (segs : List Seg) (k : AccKind) : M Unit := do
  let s ← get
  match s.lostIn segs with
  | some g => throw (.lostPage (linePage (g.home / 64)) (BitVec.ofNat 64 (g.addr / 65536 * 65536)))
  | none =>
    match segs.findSome? (s.denied k) with
    | some e => throw e.1
    | none => pure ()

end Sys2Proof.Machine
end

