-- ==== Sys2Proof/Machine/Access.lean ====
section
/-! DEFINITION. Loads, stores and atomic accesses of a core: the register areas of the active workspace (R78), the fence of
others' (R79), scratchpad banks (R219), landing of timed stores (R33). -/

namespace Sys2Proof.Machine

/-! ## Writing memory -/

/-- Words that a core has fetched ahead are written: from the lowest address written on, they must be fetched again (R91). The
first word fetched and not issued stands at pc, or `skip` bytes after it. A suit follower fetches nothing (R24). -/
def Core.touchFetched (c : Core) (skip : Nat) (a n : Nat) : Core :=
  let from_ := c.pc.toNat + skip
  if c.timed && !(c.suit.act && c.suit.spos != 0) && decide (from_ < a + n) && decide (a < from_ + Config.fetchAhead) then
    { c with refetch := some (match c.refetch with | some b => min b (max a from_) | none => max a from_) }
  else c

/-- How far after its pc a core's first word not issued stands: after the instruction that issues now, of two or four bytes, or after
the wait in which the core stands (R47, R91). -/
def State.issuedBytes (s : State) (issuing : Bool) (pos : Nat) : Nat :=
  let c := s.coreAt pos
  match c.status with
  | .waiting _ => 4
  | _ => if issuing && pos == s.core.pos then (if s.getNat (localPlace pos c.pc.toNat) 1 % 2 = 0 then 2 else 4) else 0

/-- Bytes land at a place, stored by the instruction that issues now or by anything else: memory changes, whole granules lose
their poison, and a core that has fetched words there fetches them again (R91). -/
def State.storeBy (s : State) (issuing : Bool) (p : Nat) (bs : List Byte) : State :=
  let t := (s.setBytes p bs).healed p bs.length
  if p < 2 ^ 34 then
    t.modCore (p / 2 ^ 17) (fun c => c.touchFetched (s.issuedBytes issuing (p / 2 ^ 17)) (p % 2 ^ 17) bs.length)
  else t

/-- Bytes land at a place. -/
def State.store (s : State) (p : Nat) (bs : List Byte) : State := s.storeBy false p bs

/-- Insert a timed store by its visibility. -/
def insertLater (e : Later) : List Later → List Later
  | [] => [e]
  | x :: r => if x.visible ≤ e.visible then x :: insertLater e r else e :: x :: r

/-- Bytes of a core's active workspace (R79). -/
def Core.hasWorkspace (c : Core) : Bool :=
  c.launch != 0 && (match c.status with | .idle | .halted | .parked _ _ => false | _ => true)

/-- Whether n bytes at local address a meet the active workspace of a core. -/
def Core.inWorkspace (c : Core) (a n : Nat) : Bool :=
  c.hasWorkspace && decide (a < c.cwp.toNat + 0x4000) && decide (c.cwp.toNat < a + n)

/-! ## The register areas of the own active workspace (R78) -/

/-- A local address in a register area: its offset in the workspace. -/
def Core.areaOffset (c : Core) (a : Nat) : Option Nat :=
  if c.cwp.toNat ≤ a then
    let off := a - c.cwp.toNat
    if off < 0x560 ∨ (0x1000 ≤ off ∧ off < 0x3000) then some off else none
  else none

/-- Whether n bytes at a meet none of the register areas. -/
def Core.noArea (c : Core) (a n : Nat) : Bool :=
  let w := c.cwp.toNat
  (decide (a + n ≤ w) || decide (w + 0x560 ≤ a)) && (decide (a + n ≤ w + 0x1000) || decide (w + 0x3000 ≤ a))

/-- Whether n bytes at a lie wholly in a register area: no data access (R78, R325). -/
def Core.allArea (c : Core) (a n : Nat) : Bool :=
  let w := c.cwp.toNat
  (decide (w ≤ a) && decide (a + n ≤ w + 0x560)) || (decide (w + 0x1000 ≤ a) && decide (a + n ≤ w + 0x3000))

/-- Byte k of a value. -/
def byteAt (x : BitVec n) (k : Nat) : Byte := BitVec.ofNat 8 (x.toNat / 2 ^ (8 * k))

/-- A value with byte k replaced. -/
def setByteAt (x : BitVec n) (k : Nat) (b : Byte) : BitVec n :=
  BitVec.ofNat n (x.toNat - x.toNat / 2 ^ (8 * k) % 256 * 2 ^ (8 * k) + b.toNat * 2 ^ (8 * k))

/-- The register that an offset belongs to; none for tags. -/
def areaDest (off : Nat) : Option Dest :=
  if off < 0x100 then some (.g (BitVec.ofNat 5 (off / 8)))
  else if off < 0x500 then some (.v (BitVec.ofNat 4 ((off - 0x100) / 64)))
  else if off < 0x540 then some (.m (BitVec.ofNat 3 ((off - 0x500) / 8)))
  else if 0x1000 ≤ off then some (.t (BitVec.ofNat 3 ((off - 0x1000) / 1024)))
  else none

/-- The byte of a register area. DESIGN CHOICE (log 11): the reserved bytes 0x558 to 0x55F read as zero, and a store to them
changes nothing. -/
def Core.areaByte (c : Core) (off : Nat) : Byte :=
  match areaDest off with
  | some (.g i) => byteAt (c.rawG i) (off % 8)
  | some (.v i) => byteAt c.v[i.toNat] (off % 64)
  | some (.m i) => byteAt (c.rawM i) (off % 8)
  | some (.t i) => byteAt c.t[i.toNat] (off % 1024)
  | none =>
    if off < 0x550 then BitVec.ofNat 8 (c.vtag.toList.getD (off - 0x540) 0).toNat
    else if off < 0x558 then BitVec.ofNat 8 (c.ttag.toList.getD (off - 0x550) 0).toNat
    else 0

/-- A byte stored into a register area; the register's window closes with it (R78, R89). DESIGN CHOICE (log 72): the bytes that a
partial store leaves of a register whose earlier result has not landed are that result's. -/
def Core.putAreaByte (c : Core) (off : Nat) (b : Byte) : Core :=
  let close (d : Dest) (k : Core) : Core := { k with windows := k.windows.filter (fun w => w.dest != d) }
  match areaDest off with
  | some (.g i) => close (.g i) (c.putG i (setByteAt (c.rawG i) (off % 8) b))
  | some (.v i) => close (.v i) { c with v := c.v.set i.toNat (setByteAt c.v[i.toNat] (off % 64) b) }
  | some (.m i) => if i = 0 then c else close (.m i) { c with m := c.m.set i.toNat (setByteAt c.m[i.toNat] (off % 8) b) }
  | some (.t i) => close (.t i) { c with t := c.t.set i.toNat (setByteAt c.t[i.toNat] (off % 1024) b) }
  | none =>
    if off < 0x550 then { c with vtag := c.vtag.setIfInBounds (off - 0x540) (BitVec.ofNat 5 b.toNat) }
    else if off < 0x558 then { c with ttag := c.ttag.setIfInBounds (off - 0x550) (BitVec.ofNat 5 b.toNat) }
    else c

/-! ## Landing -/

/-- A store of core p lands in its own local memory: bytes in the register areas of its active workspace change its registers
(R78, R151). -/
def State.landOwn (s : State) (p a : Nat) : List Byte → State
  | [] => s
  | b :: bs =>
    let t := match (s.coreAt p).areaOffset a with
      | none => s.store (localPlace p a) [b]
      | some off =>
        let u : State := match areaDest off with
          | some (.v i) => { s with gathers := s.gathers.filter (fun g => !(g.core == p && g.dest == i && g.append.isNone)) }
          | _ => s
        u.modCore p (fun c => c.putAreaByte off b)
    t.landOwn p (a + 1) bs

/-- The pieces of bytes at local address a of a core that lie outside its active workspace, each with its offset (R79). -/
def Core.outsideWorkspace (c : Core) (a : Nat) (bs : List Byte) : List (Nat × List Byte) :=
  let lo := c.cwp.toNat - a
  let hi := c.cwp.toNat + 0x4000 - a
  [(0, bs.take lo), (hi, bs.drop hi)].filter (fun e => !e.2.isEmpty)

/-- Bytes of core `by_` land at a place of another core's local memory: those that meet its active workspace are not written, and
POSTREJECT is raised at the writer with address v (R79). DESIGN CHOICE (log 86): the bytes of a store that lie outside it are
written. -/
def State.storeOther (s : State) (issuing : Bool) (by_ v p : Nat) (bs : List Byte) : State :=
  let c := s.coreAt (p / 2 ^ 17)
  if c.inWorkspace (p % 2 ^ 17) bs.length then
    ((c.outsideWorkspace (p % 2 ^ 17) bs).foldl (fun t e => t.storeBy issuing (p + e.1) e.2) s).postReject by_ (BitVec.ofNat 64 v)
  else s.storeBy issuing p bs

/-- The address of a byte of a core's local memory in the cluster window (R150). -/
def clusterAddr (p : Nat) : Nat := 0x40000000 + clusterIndex (p / 2 ^ 17) * 0x20000 + p % 2 ^ 17

/-- A store that has become visible lands. -/
def State.landLater (s : State) (e : Later) : State :=
  if e.place < 2 ^ 34 then
    if e.place / 2 ^ 17 ≠ e.core then s.storeOther false e.core (clusterAddr e.place) e.place e.bytes
    else if (s.coreAt e.core).noArea (e.place % 2 ^ 17) e.bytes.length then s.store e.place e.bytes
    else s.landOwn e.core (e.place % 2 ^ 17) e.bytes
  else s.store e.place e.bytes

/-- Apply the stores that have become visible (R33), with the releases that awaited them (R328). -/
def settleList (s : State) : List Later → State
  | [] => { s with later := [] }
  | e :: r =>
    if e.visible ≤ s.now then
      let t := settleList (s.landLater e) r
      if e.releases.isEmpty then t else t.releaseLater e
    else { s with later := e :: r }

/-- Perform the gathers that are due, each on the memory of its own time (R201). -/
def fillDue (s : State) : List Gather → State
  | [] => { s with gathers := [] }
  | g :: r => if g.due ≤ s.now then fillDue (s.fill g) r else { s with gathers := g :: r }

/-- The rows whose time has come arrive in their rings in order. A TPART waits at a row that cannot be written yet, and so do its
later rows (R229, R230). -/
def deliverDue (s : State) (held : List Nat) : List Delivery → State
  | [] => { s with deliveries := [] }
  | e :: r =>
    if decide (e.due ≤ s.now) && s.ringTakes e && !held.contains e.cmd then deliverDue (s.deliver e) held r
    else
      let t := deliverDue s (if e.due ≤ s.now then e.cmd :: held else held) r
      { t with deliveries := e :: t.deliveries }

/-- Everything that becomes visible by now: gathers, ring rows, timed stores, and the landings of the current core. -/
def State.settle (s : State) : State :=
  let s := fillDue s s.gathers
  let s := deliverDue s [] s.deliveries
  let t := settleList s s.later
  { t with core := t.core.land t.now }

/-- Whether a byte may be stored at an offset: a tag byte takes only a code that its register may carry (R78). -/
def tagByteOk (off : Nat) (b : Byte) : Bool :=
  if 0x540 ≤ off ∧ off < 0x550 then vtagOk b.toNat
  else if 0x550 ≤ off ∧ off < 0x558 then tagAssigned b.toNat
  else true

/-- A byte of local memory as its owner loads it. -/
def loadOwnByte (a : Nat) : M Byte := do
  let s ← get
  match s.core.areaOffset a with
  | none => pure (s.getByte (localPlace s.core.pos a))
  | some off =>
    match areaDest off with
    | some d => if s.core.windowOpen s.now d then return BitVec.ofNat 8 (← fresh) else pure (s.core.areaByte off)
    | none => pure (s.core.areaByte off)

/-- Bytes of local memory, some in a register area, as their owner loads them. -/
def loadMixed : Nat → Nat → M (List Byte)
  | 0, _ => pure []
  | n + 1, a => do
    let b ← loadOwnByte a
    let r ← loadMixed n (a + 1)
    pure (b :: r)

/-- Bytes of local memory as their owner loads them. -/
def loadOwn (n a : Nat) : M (List Byte) := do
  let s ← get
  if s.core.noArea a n then pure (s.getBytes (localPlace s.core.pos a) n) else loadMixed n a

/-- Locks on the tiles that an access to the register areas touches, and rows of a ring that are not FULL (R239). -/
def areaLocks (a n : Nat) (write : Bool) : M Unit := do
  let s ← get
  if s.core.noArea a n then return ()
  let bytes := ((List.range n).filterMap (fun i => s.core.areaOffset (a + i))).filterMap (fun off =>
    match areaDest off with | some (.t i) => some (i, off % 1024 / 64) | _ => none)
  if bytes.any (fun e => s.readLocked e.1 || (if write then s.writeLocked e.1 else !s.core.rowReady e.1 e.2)) then throw (.stall 1)
  else pure ()

/-- Bytes of own ordinary memory change: at once in free code and by an atomic, a cycle later in timed code (R33). -/
def storePlain (atOnce : Bool) (a : Nat) (bs : List Byte) : M Unit := do
  let s ← get
  let p := localPlace s.core.pos a
  if s.core.timed && !atOnce then set { s with later := insertLater ⟨s.now + s.period s.core.pos, s.core.pos, p, bs, []⟩ s.later }
  else set (s.storeBy true p bs)

/-- Bytes of local memory, some in a register area, stored by their owner. -/
def storeMixed (atOnce : Bool) (a : Nat) : List Byte → M Unit
  | [] => pure ()
  | b :: bs => do
    let s ← get
    match s.core.areaOffset a with
    | some off =>
      match areaDest off with
      | some (.v i) => set { s with gathers := s.gathers.filter (fun g => !(g.core == s.core.pos && g.dest == i && g.append.isNone)) }
      | _ => pure ()
      modC (fun c => c.putAreaByte off b)
    | none => storePlain atOnce a [b]
    storeMixed atOnce (a + 1) bs

/-- Bytes of local memory stored by their owner. -/
def storeOwn (atOnce : Bool) (a : Nat) (bs : List Byte) : M Unit := do
  if (← getC).noArea a bs.length then storePlain atOnce a bs else storeMixed atOnce a bs

/-! ## Banks (R218, R219) -/

/-- Number of a core's cluster over the package (R10). -/
def clusterOf (pos : Nat) : Nat := meshY pos / 12 * 16 + meshX pos / 16

/-- The banks of the 32-byte words of a piece of scratchpad, by offset. -/
def banksOf (off n : Nat) : List Nat := (List.range ((off % 32 + n + 31) / 32)).map (fun i => (off / 32 + i) % 32)

/-- Whether a bank serves a core at a time. -/
def bankHeld (banks : List (Nat × Nat)) (now b : Nat) : Bool := banks.any (fun e => e.1 == b && decide (now < e.2))

/-- A command whose running step a core access delays: the cycles in which a bank serves the core add to the step's (R218). -/
def CubeCmd.delayed (c : CubeCmd) (now period : Nat) (bs : List Nat) : CubeCmd :=
  if c.started && c.bankLoad.any (fun e => bs.contains e.1) && decide (c.stepAt ≤ now) && decide (now < c.due) then
    let d := { c with bankLoad := c.bankLoad.map (fun (e : Nat × Nat) => (e.1, e.2 + bs.count e.1)) }
    { d with due := d.stepEnd period }
  else c

/-- The banks that an access to the scratchpad of a group needs, one entry a word. -/
def bankWords (grp : Nat) (segs : List Seg) : List Nat :=
  segs.flatMap (fun e => banksOf ((e.place - spadPlace grp 0) % 2 ^ 22) e.len)

/-- Banks of a group's scratchpad serve a core: each for as many cycles as the access has words there, and a running step of the
governor that needs them takes as much longer (R218, R219). What a bank served in the cycle before is kept for the copy engine. -/
def State.holdBanks (s : State) (grp : Nat) (bs : List Nat) : State :=
  let p := s.period s.core.pos
  s.modGroup grp (fun k => { k with
    banks := bs.eraseDups.map (fun b => (b, s.now + p * bs.count b)) ++ k.banks.filter (fun e => decide (s.now < e.2 + p))
    queue := k.queue.map (fun c => c.delayed s.now p bs) })

/-- Whether a core is still to issue in this cycle. -/
def State.toIssue (s : State) (c : Core) : Bool := c.launch != 0 && c.status == .running && decide (c.readyAt ≤ s.now)

/-- Whether an access of the current core to the scratchpad of another group comes later in this cycle: a core of that group, or one
of lower index that has put its issue off, is still to issue (R219). -/
def State.servedLater (s : State) (grp : Nat) : Bool :=
  s.cores.any (fun c => s.toIssue c && (groupOf c.pos == grp ||
    (c.late != 0 && clusterOf c.pos == clusterOf s.core.pos && decide (c.pos < s.core.pos))))

/-- Take the banks of a core access: it waits while one is held, and then holds each as many cycles as it has words there. A core
of another group comes after those of the scratchpad's own, by ascending cluster core index (R219). -/
def takeBanks (win : Win) (segs : List Seg) : M Unit := do
  match win with
  | .spad g =>
    let s ← get
    let bs := bankWords g segs
    if g ≠ groupOf s.core.pos && decide (s.core.late < 2) && s.servedLater g then throw .late
    if bs.any (bankHeld (s.groupAt g).banks s.now) then throw (.stall 4)
    else set (s.holdBanks g bs)
  | _ => pure ()

/-! ## Memory engines and sluices (R354) -/

/-- The physical page of an address of virtual memory that the current core may use. -/
def State.pageAt (s : State) (v : Nat) : Nat :=
  let q := s.owner s.core.pos
  match s.xlate 8 q v .load, s.xlate 8 q v .store with
  | .ok x, _ | _, .ok x => x.pa / 65536
  | _, _ => 0

/-- The unit that serves a request of the current core to a window, if any: the memory engine of its cluster for the cluster
window, but for the scratchpad of its own group; for virtual memory the home sluice of the physical page (R7, R9). -/
def State.unitFor (s : State) (win : Win) (page : Nat) : Option EngineAt :=
  match win with
  | .coreMem _ => some (.cluster (clusterOf s.core.pos))
  | .spad g => if g = groupOf s.core.pos then none else some (.cluster (clusterOf s.core.pos))
  | .virt => some (.sluice (homeSluice page).1 (homeSluice page).2)
  | _ => none

/-- Bytes served to a region in the running window. -/
def MemEngine.servedTo (e : MemEngine) (q : RegionId) : Nat :=
  ((e.served.find? (fun x => x.1 == q)).map Prod.snd).getD 0

/-- Whether a unit still owes a region its reserved share of the running window: RES of 10,000 of the unit's bytes, while the
region has tokens or a deadline launch runs in it (R354). -/
def State.owed (s : State) (e : MemEngine) (q : RegionId) : Bool :=
  match s.region? q with
  | none => false
  | some r =>
    decide (e.servedTo q * 10000 < r.res * Config.engineBytes) &&
    (decide (0 < r.balance - r.earmark) || r.launches.any (fun l => l.state == .running && l.deadline.isSome))

/-- A request of a region for n bytes takes a place of a unit's queue until a time. -/
def State.request (s : State) (u : EngineAt) (q : RegionId) (n until_ : Nat) : State :=
  let e := s.engineAt u
  let e := { e with waiting := (q, until_) :: e.waiting,
                    served := (q, e.servedTo q + n) :: e.served.filter (fun x => x.1 != q) }
  { s with engines := e :: s.engines.filter (fun x => x.unit != u) }

/-! ### The remainder (R353, R354) -/

/-- WEIGHT of a core: that of its region (log 71). -/
def State.shareOf (s : State) (pos : Nat) : Nat := max 1 (((s.region? (s.owner pos)).map Region.weight).getD 1)

/-- The round of the pseudocode of R353, with Q = 64, in which the deficit of a core has grown to the cost of its request. -/
def Ask.round (a : Ask) (weight : Nat) : Nat := max 1 ((a.bytes - a.deficit + 64 * weight - 1) / (64 * weight))

/-- How far a core comes after the last one served. -/
def afterLast (last pos : Nat) : Nat := (pos + meshSize - (last + 1) % meshSize) % meshSize

/-- Whether a request is served before another. -/
def State.askBefore (s : State) (last : Nat) (a b : Ask) : Bool :=
  let x := a.round (s.shareOf a.core)
  let y := b.round (s.shareOf b.core)
  decide (x < y) || (x == y && decide (afterLast last a.core < afterLast last b.core))

/-- Whether a request of n bytes of a core is the next one that is served from the remainder. -/
def State.isNext (s : State) (e : MemEngine) (pos n : Nat) : Bool :=
  (e.otherAsks s.now pos).all (fun a => s.askBefore e.last (e.askOf s.now pos n) a)

/-- The request of a core is served from the remainder: the others' deficits grow as in the rounds that this took, and a core without
a request has none (R353). -/
def State.serveAsk (s : State) (u : EngineAt) (pos n : Nat) : State :=
  let e := s.engineAt u
  let a := e.askOf s.now pos n
  let r := a.round (s.shareOf pos)
  let grown (b : Ask) : Ask :=
    { b with deficit := b.deficit +
        64 * s.shareOf b.core * (if afterLast e.last b.core < afterLast e.last pos then r else r - 1) }
  { s with engines := { e with asks := (e.otherAsks s.now pos).map grown, last := pos } :: s.engines.filter (fun x => x.unit != u) }

/-- The request of a core waits no longer. -/
def State.dropAsk (s : State) (u : EngineAt) (pos : Nat) : State :=
  let e := s.engineAt u
  { s with engines := { e with asks := e.otherAsks s.now pos } :: s.engines.filter (fun x => x.unit != u) }

/-- A request of n bytes passes the unit that serves it, where it takes a place of the queue until a time. What the unit owes its region
passes at once; any other request waits where the queue is full, or where another comes before it in the division of the remainder
(R32, R353, R354; log 71). -/
def passUnit (u : EngineAt) (n until_ : Nat) : M Unit := do
  let s ← get
  let pos := s.core.pos
  let q := s.owner pos
  let e := s.engineAt u
  let room := match u with | .cluster _ => Config.clusterQueue | .sluice _ _ => Config.sluiceQueue
  if (decide (room < e.waiting.length) || !s.isNext e pos n) && !s.owed e q then throw (.queued u n)
  else set ((if e.asks.isEmpty then s else if s.owed e q then s.dropAsk u pos else s.serveAsk u pos n).request u q n until_)

/-- A request of the current core, of n bytes in a window, that takes so many cycles. -/
def takeEngine (win : Win) (page n cycles : Nat) : M Unit := do
  let s ← get
  match s.unitFor win page with
  | none => pure ()
  | some u => passUnit u n (s.now + cycles * s.period s.core.pos)

/-! ## Whole accesses -/

/-- A translated access of n bytes at v stalls its core for a time without a figure, in which it takes a place at its sluice
(R90, R438). -/
def slow (win : Win) (v n : Nat) : M Unit := do
  if win == .virt then
    let k ← fresh
    takeEngine win ((← get).pageAt v) n (k + 1)
    stallFor k
  else pure ()

/-- The local address of an access to the core's own local memory, by either window (R151). -/
def State.ownAddr (s : State) (win : Win) (v : Nat) : Option Nat :=
  match win with
  | .own => some v
  | .coreMem p => if p = s.core.pos then some (v % 0x20000) else none
  | _ => none

/-- The pieces of one part of an access, n bytes at v: none where it lies wholly in a register area. -/
def partSegs (win : Win) (k : AccKind) (v n : Nat) : M (List Seg) := do
  let s ← get
  match s.ownAddr win v with
  | some a =>
    areaLocks a n (k != .load)
    if s.core.allArea a n then pure [] else segments win v n k
  | none => segments win v n k

/-- The pieces of each part of an access. -/
def partsSegs (win : Win) (k : AccKind) : List (Nat × Nat) → M (List (List Seg))
  | [] => pure []
  | e :: r => do
    let here ← partSegs win k e.1 e.2
    let rest ← partsSegs win k r
    pure (here :: rest)

/-- Rows 6 to 8 of R152, the banks and the memory engine, for the parts of an access that passed rows 1 to 5, each n bytes at an
address. Answers the pieces of each. -/
def passParts (win : Win) (parts : List (Nat × Nat)) (k : AccKind) : M (List (List Seg)) := do
  let all ← partsSegs win k parts
  raceRow win all.flatten k
  poisonRow all.flatten k
  takeBanks win all.flatten
  match parts with
  | _ :: _ => if win == .virt then pure () else takeEngine win 0 ((parts.map Prod.snd).sum) ((← get).loadLatency win)
  | [] => pure ()
  pure all

/-- The same for one span. -/
def passRows (win : Win) (v n : Nat) (k : AccKind) : M (List Seg) := do
  return (← passParts win [(v, n)] k).flatten

/-- Leave the marks of an access, unless it is free of races (R326, R336); a store makes its bytes ordinary again (R325). -/
def leaveMarks (win : Win) (segs : List Seg) (k : AccKind) : M Unit := do
  let s ← get
  let s := if k = .store ∧ !s.objects.isEmpty then
      { s with objects := s.objects.filter (fun e => !segs.any (fun g => decide (e.1 < g.home + g.len) && decide (g.home < e.1 + e.2))) }
    else s
  if s.unraced win then set s
  else set (s.markAll s.core.pos k (((s.dataSegs segs k).flatMap Seg.lines).map Prod.fst).eraseDups)

/-- The bytes of admitted pieces. -/
def fetchBytes (win : Win) (v n : Nat) (segs : List Seg) : M (List Byte) := do
  let s ← get
  match s.ownAddr win v with
  | some a => loadOwn n a
  | none => pure (segs.flatMap (fun e => s.getBytes e.place e.len))

/-- Write bytes into admitted pieces: not into another core's active workspace (R79), later in timed code (R33) unless at once. -/
def putBytes (atOnce : Bool) (win : Win) (v : Nat) (bs : List Byte) : List Seg → M Unit
  | [] => pure ()
  | e :: r => do
    let s ← get
    let here := bs.take e.len
    if s.core.timed && win.plain && !atOnce then
      set { s with later := insertLater ⟨s.now + s.storeDelay win * s.period s.core.pos, s.core.pos, e.place, here, []⟩ s.later }
    else match win with
      | .coreMem _ => set (s.storeOther true s.core.pos v e.place here)
      | _ => set (s.storeBy true e.place here)
    putBytes atOnce win v (bs.drop e.len) r

/-- Store bytes into a span that has been admitted. Own local memory through the cluster window is stored to as by a local
access, in timed code by the cluster-window row of R33: its bytes land later, those of the register areas too (R151). -/
def depositBytes (atOnce : Bool) (win : Win) (v : Nat) (bs : List Byte) (segs : List Seg) : M Unit := do
  let s ← get
  match s.ownAddr win v with
  | some a =>
    match ((List.range bs.length).filterMap (fun i => (s.core.areaOffset (a + i)).map (fun o => (o, bs.getD i 0)))).find?
        (fun e => !tagByteOk e.1 e.2) with
    | some e => raise 2 (BitVec.ofNat 64 e.1)
    | none =>
      if win == .own || atOnce || !s.core.timed then storeOwn atOnce a bs
      else
        let at_ := s.now + s.storeDelay win * s.period s.core.pos
        set { s with later := insertLater ⟨at_, s.core.pos, localPlace s.core.pos a, bs, []⟩ s.later }
  | none => putBytes atOnce win v bs segs

/-- Load n bytes at v: the bytes, and the landing latency (R152, R153, R88). A mailbox load reads the own counters. -/
def loadAccess (w v n al : Nat) : M (List Byte × Nat) := do
  let win ← checkSpan w v n al .load
  let s ← get
  let l := s.loadLatency win
  match win with
  | .mailbox => pure (leBytes 4 (s.core.counters.toList.getD (v % 0x100 / 4) 0).toNat, l)
  | _ =>
    let segs ← passRows win v n .load
    let bs ← fetchBytes win v n segs
    leaveMarks win segs .load
    slow win v n
    pure (bs, l)

/-- Store bytes at v (R152, R153). -/
def storeAccess (w v al : Nat) (bs : List Byte) : M Unit := do
  let win ← checkSpan w v bs.length al .store
  let segs ← passRows win v bs.length .store
  depositBytes false win v bs segs
  leaveMarks win segs .store
  slow win v bs.length

/-- One indivisible read and write of n bytes at v: the old value, and the landing latency (R172, R173). The new value is none
where nothing is written. -/
def atomicAccess (w v n : Nat) (f : Nat → Option Nat) : M (Nat × Nat) := do
  let win ← checkSpan w v n n .atomic
  let s ← get
  let l := s.loadLatency win
  let segs ← passRows win v n .atomic
  let old := leNat (← fetchBytes win v n segs)
  match f old with
  | none => pure ()
  | some x => depositBytes true win v (leBytes n x) segs
  leaveMarks win segs .atomic
  slow win v n
  pure (old, l)

end Sys2Proof.Machine
end

