-- ==== Sys2Proof/Machine/Flags.lean ====
section
/-! DEFINITION. Number formats, rounding and the sticky flags (R114-R128): every float operation computes exactly and rounds
once; every result comes with the flags it raises. -/

namespace Sys2Proof.Machine

/-- CSAT flags (R127). -/
abbrev Fl := BitVec 8
/-- An invalid result, a signalling NaN source, an infinity or a NaN converted to an integer. -/
def flNV : Fl := 1
/-- A finite non-zero float divided by zero. -/
def flDZ : Fl := 2
/-- Overflow. -/
def flOF : Fl := 4
/-- Underflow. -/
def flUF : Fl := 8
/-- Inexact. -/
def flNX : Fl := 16
/-- sat changed a value. -/
def flISAT : Fl := 32
/-- The cube clamped an integer. -/
def flACCS : Fl := 64
/-- A conversion to F8 saturated. -/
def flF8S : Fl := 128

/-- A floating-point format (R114): width, exponent bits, fraction bits, bias, and whether it is F8 (R116). -/
structure Fmt where
  w : Nat
  eb : Nat
  fb : Nat
  bias : Nat
  f8 : Bool
  deriving DecidableEq, Repr

/-- FP64. -/
def fp64 : Fmt := ⟨64, 11, 52, 1023, false⟩
/-- FP32. -/
def fp32 : Fmt := ⟨32, 8, 23, 127, false⟩
/-- F16. -/
def f16 : Fmt := ⟨16, 5, 10, 15, false⟩
/-- BF16. -/
def bf16 : Fmt := ⟨16, 8, 7, 127, false⟩
/-- F8. -/
def f8 : Fmt := ⟨8, 4, 3, 7, true⟩

/-- What a code stands for (R115, R116): a NaN with its sign, its fraction scaled to 52 bits and whether it signals; an
infinity; or (−1)^neg · m · 2^e. -/
inductive Num where
  | nan (neg : Bool) (frac : Nat) (signals : Bool)
  | inf (neg : Bool)
  | fin (neg : Bool) (m : Nat) (e : Int)
  deriving DecidableEq, Repr

/-- The value of a code. -/
def decodeF (F : Fmt) (x : Nat) : Num :=
  let s := x / 2 ^ (F.w - 1) % 2 == 1
  let E := x / 2 ^ F.fb % 2 ^ F.eb
  let f := x % 2 ^ F.fb
  if F.f8 && x % 2 ^ F.w == 0x80 then .nan false (2 ^ 51) false
  else if E = 0 then .fin s f (1 - (F.bias : Int) - F.fb)
  else if E = 2 ^ F.eb - 1 && !F.f8 then
    if f = 0 then .inf s else .nan s (f * 2 ^ (52 - F.fb)) (f / 2 ^ (F.fb - 1) == 0)
  else .fin s (2 ^ F.fb + f) ((E : Int) - F.bias - F.fb)

/-- Canonical NaN (R114). -/
def canonical (F : Fmt) : Nat := if F.f8 then 0x80 else (2 ^ F.eb - 1) * 2 ^ F.fb + 2 ^ (F.fb - 1)

/-- Code of an infinity; F8 has none and takes its largest value. -/
def infCode (F : Fmt) (neg : Bool) : Nat :=
  (if neg then 2 ^ (F.w - 1) else 0) + (if F.f8 then 0x7F else (2 ^ F.eb - 1) * 2 ^ F.fb)

/-- Code of the largest finite value. -/
def maxCode (F : Fmt) (neg : Bool) : Nat :=
  (if neg then 2 ^ (F.w - 1) else 0) + (if F.f8 then 0x7F else (2 ^ F.eb - 2) * 2 ^ F.fb + (2 ^ F.fb - 1))

/-- Code of a zero (R116). -/
def zeroCode (F : Fmt) (neg : Bool) : Nat := if neg && !F.f8 then 2 ^ (F.w - 1) else 0

/-- quiet(a, F) of R122, for a NaN. -/
def quietNaN (F : Fmt) (neg : Bool) (frac : Nat) : Nat :=
  if F.f8 then 0x80
  else (if neg then 2 ^ (F.w - 1) else 0) + (2 ^ F.eb - 1) * 2 ^ F.fb + (frac / 2 ^ (52 - F.fb) ||| 2 ^ (F.fb - 1))

/-- Rounding modes (R119). -/
inductive Mode where
  | rne | rtz | rup | rdn
  deriving DecidableEq, Repr

/-- Mode of CRND or of a rounding code (R63, R73). -/
def modeOf (crnd : BitVec 2) : Mode :=
  match crnd.toNat with
  | 0 => .rne
  | 1 => .rtz
  | 2 => .rup
  | _ => .rdn

/-- n / 2^k rounded to an integer, with a further fraction below when `sticky`; and whether that is inexact. -/
def roundShift (mode : Mode) (neg : Bool) (n k : Nat) (sticky : Bool) : Nat × Bool :=
  let q := n / 2 ^ k
  let r := n % 2 ^ k
  let inexact := r != 0 || sticky
  let half := 2 ^ k / 2
  let up := match mode with
    | .rtz => false
    | .rup => inexact && !neg
    | .rdn => inexact && neg
    | .rne => if k = 0 then false else decide (half < r) || (r == half && (sticky || q % 2 == 1))
  (if up then q + 1 else q, inexact)

/-- Number of bits of a natural number. -/
def bitLen (n : Nat) : Nat := if n = 0 then 0 else Nat.log2 n + 1

/-- The code of the selected value q · 2^qe, which is not above the largest finite value. -/
def packF (F : Fmt) (neg : Bool) (q : Nat) (qe : Int) : Nat :=
  let s := if neg then 2 ^ (F.w - 1) else 0
  if q = 0 then zeroCode F neg
  else if q < 2 ^ F.fb then s + q
  else
    let (q, qe) := if q = 2 ^ (F.fb + 1) then (2 ^ F.fb, qe + 1) else (q, qe)
    s + (qe + F.fb + F.bias).toNat * 2 ^ F.fb + (q - 2 ^ F.fb)

/-- rnd of R121 on (−1)^neg · (m + a fraction when sticky) · 2^e. Where sticky, m has bits enough that the fraction lies below
the rounding position. -/
def rnd (F : Fmt) (mode : Mode) (neg : Bool) (m : Nat) (e : Int) (sticky : Bool) : Nat × Fl :=
  if m = 0 && !sticky then (zeroCode F neg, 0)
  else
    let emin : Int := 1 - (F.bias : Int)
    let E : Int := (bitLen m : Int) - 1 + e
    let qe : Int := max (E - F.fb) (emin - F.fb)
    let (q, inexact) := if qe ≤ e then (m * 2 ^ (e - qe).toNat, sticky) else roundShift mode neg m (qe - e).toNat sticky
    let top : Int := ((2 ^ F.eb - (if F.f8 then 1 else 2) : Nat) : Int) - F.bias - F.fb
    let largest : Nat := 2 ^ (F.fb + 1) - 1
    let tooBig := decide (top < qe) || (qe == top && decide (largest < q))
    if tooBig then
      if F.f8 then (maxCode F neg, flF8S ||| flOF ||| flNX)
      else
        let toInf := match mode with
          | .rne => true
          | .rtz => false
          | .rup => !neg
          | .rdn => neg
        (if toInf then infCode F neg else maxCode F neg, flOF ||| flNX)
    else
      let fl : Fl := if inexact then (if E < emin then flNX ||| flUF else flNX) else 0
      (packF F neg q qe, fl)

/-- A signalling NaN (R122). -/
def Num.signals : Num → Bool
  | .nan _ _ s => s
  | _ => false

/-- A NaN. -/
def Num.isNan : Num → Bool
  | .nan _ _ _ => true
  | _ => false

/-- NV for signalling sources (R122). -/
def nvOf (xs : List Num) : Fl := if xs.any Num.signals then flNV else 0

/-- prop of R122: the first NaN, quiet. -/
def propNaN (F : Fmt) : List Num → Nat
  | .nan s f _ :: _ => quietNaN F s f
  | _ :: r => propNaN F r
  | [] => canonical F

/-- The canonical NaN of an invalid operation. -/
def invalid (F : Fmt) : Nat × Fl := (canonical F, flNV)

/-- A signed magnitude as an integer over a power of two. -/
def scaled (neg : Bool) (m : Nat) (k : Nat) : Int := if neg then -((m * 2 ^ k : Nat) : Int) else ((m * 2 ^ k : Nat) : Int)

/-- Exact sum of two finite values; a zero of opposite signs is −0 only under RDN (R123). -/
def addFin (mode : Mode) (s1 : Bool) (m1 : Nat) (e1 : Int) (s2 : Bool) (m2 : Nat) (e2 : Int) : Bool × Nat × Int :=
  let e := min e1 e2
  let x := scaled s1 m1 (e1 - e).toNat + scaled s2 m2 (e2 - e).toNat
  let neg := if x = 0 then (if s1 == s2 then s1 else mode == .rdn) else decide (x < 0)
  (neg, x.natAbs, e)

/-- a + b as a number: invalid operands answer none (R123). NaNs are the caller's. -/
def addNum (mode : Mode) : Num → Num → Option Num
  | .inf s, .inf t => if s == t then some (.inf s) else none
  | .inf s, _ => some (.inf s)
  | _, .inf t => some (.inf t)
  | .fin s m e, .fin t n f => let (u, k, g) := addFin mode s m e t n f; some (.fin u k g)
  | _, _ => none

/-- a · b as a number: 0 · ∞ answers none. -/
def mulNum : Num → Num → Option Num
  | .inf s, .inf t => some (.inf (s != t))
  | .inf s, .fin t n _ => if n = 0 then none else some (.inf (s != t))
  | .fin s m _, .inf t => if m = 0 then none else some (.inf (s != t))
  | .fin s m e, .fin t n f => some (.fin (s != t) (m * n) (e + f))
  | _, _ => none

/-- Round a number to a format; an infinity of F8 saturates (R126). -/
def roundNum (F : Fmt) (mode : Mode) : Num → Nat × Fl
  | .nan s f sig => (quietNaN F s f, if sig then flNV else 0)
  | .inf s => (infCode F s, if F.f8 then flF8S else 0)
  | .fin s m e => rnd F mode s m e false

/-- −x. -/
def Num.neg : Num → Num
  | .nan s f g => .nan s f g
  | .inf s => .inf (!s)
  | .fin s m e => .fin (!s) m e

/-- FADD (R141). -/
def fadd (F : Fmt) (a b : Nat) : Nat × Fl :=
  let x := decodeF F a
  let y := decodeF F b
  if x.isNan || y.isNan then (propNaN F [x, y], nvOf [x, y])
  else match addNum .rne x y with
    | some z => roundNum F .rne z
    | none => invalid F

/-- FSUB (R141): a NaN operand propagates as it is. -/
def fsub (F : Fmt) (a b : Nat) : Nat × Fl :=
  let x := decodeF F a
  let y := decodeF F b
  if x.isNan || y.isNan then (propNaN F [x, y], nvOf [x, y])
  else match addNum .rne x y.neg with
    | some z => roundNum F .rne z
    | none => invalid F

/-- FMUL (R141). -/
def fmul (F : Fmt) (a b : Nat) : Nat × Fl :=
  let x := decodeF F a
  let y := decodeF F b
  if x.isNan || y.isNan then (propNaN F [x, y], nvOf [x, y])
  else match mulNum x y with
    | some z => roundNum F .rne z
    | none => invalid F

/-- FFMA (R141): a·b + d with one rounding; 0·∞ sets NV even beside a NaN d. -/
def ffma (F : Fmt) (a b d : Nat) : Nat × Fl :=
  let x := decodeF F a
  let y := decodeF F b
  let z := decodeF F d
  let bad := !x.isNan && !y.isNan && (mulNum x y).isNone
  let nv : Fl := if bad then flNV else 0
  if x.isNan || y.isNan || z.isNan then (propNaN F [x, y, z], nv ||| nvOf [x, y, z])
  else match (mulNum x y).bind (fun p => addNum .rne p z) with
    | some r => roundNum F .rne r
    | none => invalid F

/-- FDIV (R141). -/
def fdiv (F : Fmt) (a b : Nat) : Nat × Fl :=
  let x := decodeF F a
  let y := decodeF F b
  if x.isNan || y.isNan then (propNaN F [x, y], nvOf [x, y])
  else match x, y with
    | .inf _, .inf _ => invalid F
    | .inf s, .fin t _ _ => (infCode F (s != t), 0)
    | .fin s _ _, .inf t => (zeroCode F (s != t), 0)
    | .fin s m e, .fin t n f =>
      if n = 0 then (if m = 0 then invalid F else (infCode F (s != t), flDZ))
      else
        let k := bitLen n + F.fb + 4 - bitLen m
        rnd F .rne (s != t) (m * 2 ^ k / n) (e - f - k) (m * 2 ^ k % n != 0)
    | _, _ => invalid F

/-- Bits b − 1 to 0 of the integer square root of n, given the bits r above them. -/
def isqrtFrom (n : Nat) : Nat → Nat → Nat
  | 0, r => r
  | b + 1, r => if (r + 2 ^ b) * (r + 2 ^ b) ≤ n then isqrtFrom n b (r + 2 ^ b) else isqrtFrom n b r

/-- Integer square root. -/
def isqrt (n : Nat) : Nat := isqrtFrom n (bitLen n / 2 + 1) 0

/-- √ of a finite positive m · 2^e, with at least p bits: (root, exponent, sticky). -/
def sqrtFin (p m : Nat) (e : Int) : Nat × Int × Bool :=
  let k0 := 2 * p + 8 - bitLen m
  let k := if (e - k0) % 2 = 0 then k0 else k0 + 1
  let n := m * 2 ^ k
  let r := isqrt n
  (r, (e - k) / 2, r * r != n)

/-- FSQRT (R141). -/
def fsqrt (F : Fmt) (a : Nat) : Nat × Fl :=
  match decodeF F a with
  | .nan s f g => (quietNaN F s f, if g then flNV else 0)
  | .inf s => if s then invalid F else (infCode F false, 0)
  | .fin s m e =>
    if m = 0 then (zeroCode F s, 0)
    else if s then invalid F
    else
      let (r, f, sticky) := sqrtFin F.fb m e
      rnd F .rne false r f sticky

/-- Order of two numbers that are no NaN, −0 and +0 equal. -/
def cmpNum : Num → Num → Ordering
  | .inf s, .inf t => if s == t then .eq else if s then .lt else .gt
  | .inf s, _ => if s then .lt else .gt
  | _, .inf t => if t then .gt else .lt
  | .fin s m e, .fin t n f =>
    let g := min e f
    compare (scaled s m (e - g).toNat) (scaled t n (f - g).toNat)
  | _, _ => .eq

/-- Sign of a number. -/
def Num.isNeg : Num → Bool
  | .nan s _ _ => s
  | .inf s => s
  | .fin s _ _ => s

/-- a before b in the order of R124, −0 below +0. -/
def beforeNum (x y : Num) : Bool :=
  match cmpNum x y with
  | .lt => true
  | .gt => false
  | .eq => x.isNeg && !y.isNeg

/-- fmin and fmax (R124). -/
def fminmax (F : Fmt) (isMax : Bool) (a b : Nat) : Nat × Fl :=
  let x := decodeF F a
  let y := decodeF F b
  let nv := nvOf [x, y]
  if x.isNan && y.isNan then (propNaN F [x, y], nv)
  else if x.isNan then (b, nv)
  else if y.isNan then (a, nv)
  else if isMax then (if beforeNum x y then b else a, nv)
  else (if beforeNum y x then b else a, nv)

/-- Comparisons (R141, R192). -/
inductive Cmp where
  | eq | ne | lt | le | gt | ge | un
  deriving DecidableEq, Repr

/-- A comparison of floats: the relation, and NV: on any NaN for the orderings, on a signalling one otherwise. -/
def fcmp (F : Fmt) (c : Cmp) (a b : Nat) : Bool × Fl :=
  let x := decodeF F a
  let y := decodeF F b
  let nan := x.isNan || y.isNan
  let ord := match c with | .lt | .le | .gt | .ge => true | _ => false
  let fl : Fl := if nan && ord then flNV else nvOf [x, y]
  let o := cmpNum x y
  let r := match c with
    | .eq => !nan && o == .eq
    | .ne => nan || o != .eq
    | .lt => !nan && o == .lt
    | .le => !nan && o != .gt
    | .gt => !nan && o == .gt
    | .ge => !nan && o != .lt
    | .un => nan
  (r, fl)

/-- Range of an integer type of w bits (R118). -/
def intMin (signed : Bool) (w : Nat) : Int := if signed then -(2 ^ (w - 1) : Int) else 0
/-- Its maximum. -/
def intMax (signed : Bool) (w : Nat) : Int := if signed then 2 ^ (w - 1) - 1 else 2 ^ w - 1

/-- sat of R125, with ISAT. -/
def satInt (signed : Bool) (w : Nat) (x : Int) : Int × Fl :=
  if x < intMin signed w then (intMin signed w, flISAT)
  else if intMax signed w < x then (intMax signed w, flISAT)
  else (x, 0)

/-- The code of an integer in w bits: wrap of R125. -/
def intCode (w : Nat) (x : Int) : Nat := (x % 2 ^ w).toNat

/-- The integer that a code of w bits stands for (R118). -/
def intVal (signed : Bool) (w : Nat) (x : Nat) : Int :=
  let y := x % 2 ^ w
  if signed && decide (2 ^ (w - 1) ≤ y) then (y : Int) - 2 ^ w else y

/-- Float to integer (R126). -/
def floatToInt (signed : Bool) (w : Nat) (mode : Mode) : Num → Int × Fl
  | .nan _ _ _ => (0, flNV)
  | .inf s => (if s then intMin signed w else intMax signed w, flNV)
  | .fin s m e =>
    let (q, inexact) := if 0 ≤ e then (m * 2 ^ e.toNat, false) else roundShift mode s m (-e).toNat false
    let (r, fl) := satInt signed w (if s then -(q : Int) else q)
    (r, fl ||| (if inexact then flNX else 0))

/-- Integer to float (R126). -/
def intToFloat (F : Fmt) (mode : Mode) (x : Int) : Nat × Fl := rnd F mode (decide (x < 0)) x.natAbs 0 false

/-- Float to float (R126). -/
def floatToFloat (F G : Fmt) (mode : Mode) (a : Nat) : Nat × Fl := roundNum G mode (decodeF F a)

/-! ## Exact sums (R130, R135, R136) -/

/-- Exact sum of a list of numbers, none when it is a NaN or invalid; an exact zero is +0. -/
def sumNums (xs : List Num) : Option Num :=
  xs.foldl (fun acc x => acc.bind (fun a => if x.isNan then none else
    match addNum .rne a x with
    | some (.fin _ 0 e) => some (.fin false 0 e)
    | r => r)) (some (.fin false 0 0))

/-- Exact product of a list of numbers, none when it is a NaN or 0 · ∞. -/
def prodNums (xs : List Num) : Option Num :=
  xs.foldl (fun acc x => acc.bind (fun a => if x.isNan then none else mulNum a x)) (some (.fin false 1 0))

end Sys2Proof.Machine
end

