-- ==== Sys2Proof/Machine/Scalar.lean ====
section
/-! DEFINITION. Scalar integer instructions (R139, R140) and their compact forms (R58). -/

namespace Sys2Proof.Machine

/-! ## What the registers receive -/

/-- Shift amount of a register value (R138). -/
def shamt (b : Word) : Nat := b.toNat % 64

/-- Carry-less product of a value by the low n bits of another (R139). -/
def clmulFrom (x y : Nat) : Nat → Nat
  | 0 => 0
  | n + 1 => (if y.testBit n then x * 2 ^ n else 0) ^^^ clmulFrom x y n

/-- Number of one bits among the low n. -/
def popFrom (x : Nat) : Nat → Nat
  | 0 => 0
  | n + 1 => (if x.testBit n then 1 else 0) + popFrom x n

/-- Number of zero bits below the lowest one, among n bits from bit i on. -/
def ctzFrom (x : Nat) : Nat → Nat → Nat
  | 0, _ => 0
  | n + 1, i => if x.testBit i then 0 else 1 + ctzFrom x n (i + 1)

/-- SLT, SLTU as a register value. -/
def ofBool (b : Bool) : Word := if b then 1 else 0

/-- DIV (R139). -/
def divS (a b : Word) : Word := if b = 0 then BitVec.allOnes 64 else BitVec.ofInt 64 (a.toInt.tdiv b.toInt)
/-- DIVU (R139). -/
def divU (a b : Word) : Word := if b = 0 then BitVec.allOnes 64 else BitVec.ofNat 64 (a.toNat / b.toNat)
/-- REM (R139). -/
def remS (a b : Word) : Word := if b = 0 then a else BitVec.ofInt 64 (a.toInt.tmod b.toInt)
/-- REMU (R139). -/
def remU (a b : Word) : Word := if b = 0 then a else BitVec.ofNat 64 (a.toNat % b.toNat)
/-- MULH (R139). -/
def mulhS (a b : Word) : Word := BitVec.ofInt 64 (a.toInt * b.toInt / 2 ^ 64)
/-- MULHU (R139). -/
def mulhU (a b : Word) : Word := BitVec.ofNat 64 (a.toNat * b.toNat / 2 ^ 64)

/-- Position and size of a bit field operand (R139). -/
def fieldPos (b : Word) : Nat := b.toNat % 64
/-- n of BEXT and BINS. -/
def fieldLen (b : Word) : Nat := min (b.toNat / 256 % 128) 64
/-- BEXT (R139). -/
def bitExtract (a b : Word) : Word := BitVec.ofNat 64 (a.toNat / 2 ^ fieldPos b % 2 ^ fieldLen b)
/-- BINS (R139). -/
def bitInsert (a b d : Word) : Word :=
  let mask := BitVec.ofNat 64 ((2 ^ fieldLen b - 1) * 2 ^ fieldPos b)
  (d &&& ~~~mask) ||| (BitVec.ofNat 64 (a.toNat * 2 ^ fieldPos b) &&& mask)
/-- FSHL (R139). -/
def funnelLeft (a b d : Word) : Word := BitVec.ofNat 64 ((d.toNat * 2 ^ 64 + a.toNat) * 2 ^ shamt b / 2 ^ 64)
/-- FSHR (R139). -/
def funnelRight (a b d : Word) : Word := BitVec.ofNat 64 ((a.toNat * 2 ^ 64 + d.toNat) / 2 ^ shamt b)
/-- BSWAP (R139). -/
def byteSwap (a : Word) : Word := BitVec.ofNat 64 (leNat (leBytes 8 a.toNat).reverse)

/-! ## Shapes -/

/-- gD from one source. -/
def scalar1 (len l : Nat) (f : Word → Word) (d a : BitVec 5) : State → Out :=
  issue len do
    let x ← readG a
    writeG d (f x) l

/-- gD from two sources, popped in the order A, B (R85). -/
def scalar2 (len l : Nat) (f : Word → Word → Word) (d a b : BitVec 5) : State → Out :=
  issue len do
    let x ← readG a
    let y ← readG b
    writeG d (f x y) l

/-- gD from three sources, popped in the order A, B, D. -/
def scalar3 (len l : Nat) (f : Word → Word → Word → Word) (d a b : BitVec 5) : State → Out :=
  issue len do
    let x ← readG a
    let y ← readG b
    let z ← readG d
    writeG d (f x y z) l

/-- A compact register field names g0-g15 (R58). -/
def cg (i : BitVec 4) : BitVec 5 := i.zeroExtend 5

/-! ## MAJ 0x00-0x02 (R139) -/

/-- ADD (R139, R88). -/
def execAdd (d a b : BitVec 5) : State → Out := scalar2 4 1 (fun x y => x + y) d a b

/-- SUB (R139, R88). -/
def execSub (d a b : BitVec 5) : State → Out := scalar2 4 1 (fun x y => x - y) d a b

/-- AND (R139, R88). -/
def execAnd (d a b : BitVec 5) : State → Out := scalar2 4 1 (fun x y => x &&& y) d a b

/-- OR (R139, R88). -/
def execOr (d a b : BitVec 5) : State → Out := scalar2 4 1 (fun x y => x ||| y) d a b

/-- XOR (R139, R88). -/
def execXor (d a b : BitVec 5) : State → Out := scalar2 4 1 (fun x y => x ^^^ y) d a b

/-- ANDN (R139, R88). -/
def execAndn (d a b : BitVec 5) : State → Out := scalar2 4 1 (fun x y => x &&& ~~~y) d a b

/-- SLL (R139, R88). -/
def execSll (d a b : BitVec 5) : State → Out := scalar2 4 1 (fun x y => x <<< shamt y) d a b

/-- SRL (R139, R88). -/
def execSrl (d a b : BitVec 5) : State → Out := scalar2 4 1 (fun x y => x >>> shamt y) d a b

/-- SRA (R139, R88). -/
def execSra (d a b : BitVec 5) : State → Out := scalar2 4 1 (fun x y => x.sshiftRight (shamt y)) d a b

/-- ROL (R139, R88). -/
def execRol (d a b : BitVec 5) : State → Out := scalar2 4 1 (fun x y => x.rotateLeft (shamt y)) d a b

/-- ROR (R139, R88). -/
def execRor (d a b : BitVec 5) : State → Out := scalar2 4 1 (fun x y => x.rotateRight (shamt y)) d a b

/-- SLT (R139, R88). -/
def execSlt (d a b : BitVec 5) : State → Out := scalar2 4 1 (fun x y => ofBool (x.slt y)) d a b

/-- SLTU (R139, R88). -/
def execSltu (d a b : BitVec 5) : State → Out := scalar2 4 1 (fun x y => ofBool (x.ult y)) d a b

/-- MIN (R139, R88). -/
def execMin (d a b : BitVec 5) : State → Out := scalar2 4 1 (fun x y => if x.slt y then x else y) d a b

/-- MAX (R139, R88). -/
def execMax (d a b : BitVec 5) : State → Out := scalar2 4 1 (fun x y => if x.slt y then y else x) d a b

/-- MINU (R139, R88). -/
def execMinu (d a b : BitVec 5) : State → Out := scalar2 4 1 (fun x y => if x.ult y then x else y) d a b

/-- MAXU (R139, R88). -/
def execMaxu (d a b : BitVec 5) : State → Out := scalar2 4 1 (fun x y => if x.ult y then y else x) d a b

/-- MUL (R139, R88). -/
def execMul (d a b : BitVec 5) : State → Out := scalar2 4 3 (fun x y => x * y) d a b

/-- MULH (R139, R88). -/
def execMulh (d a b : BitVec 5) : State → Out := scalar2 4 3 (fun x y => mulhS x y) d a b

/-- MULHU (R139, R88). -/
def execMulhu (d a b : BitVec 5) : State → Out := scalar2 4 3 (fun x y => mulhU x y) d a b

/-- DIV (R139, R88). -/
def execDiv (d a b : BitVec 5) : State → Out := scalar2 4 20 (fun x y => divS x y) d a b

/-- DIVU (R139, R88). -/
def execDivu (d a b : BitVec 5) : State → Out := scalar2 4 20 (fun x y => divU x y) d a b

/-- REM (R139, R88). -/
def execRem (d a b : BitVec 5) : State → Out := scalar2 4 20 (fun x y => remS x y) d a b

/-- REMU (R139, R88). -/
def execRemu (d a b : BitVec 5) : State → Out := scalar2 4 20 (fun x y => remU x y) d a b

/-- CLMUL (R139, R88). -/
def execClmul (d a b : BitVec 5) : State → Out := scalar2 4 3 (fun x y => BitVec.ofNat 64 (clmulFrom x.toNat y.toNat 64)) d a b

/-- CLMULH (R139, R88). -/
def execClmulh (d a b : BitVec 5) : State → Out := scalar2 4 3 (fun x y => BitVec.ofNat 64 (clmulFrom x.toNat y.toNat 64 / 2 ^ 64)) d a b

/-- BEXT (R139, R88). -/
def execBext (d a b : BitVec 5) : State → Out := scalar2 4 1 (fun x y => bitExtract x y) d a b

/-- SEL (R139). -/
def execSel (d a b : BitVec 5) : State → Out := scalar3 4 1 (fun x y z => (x &&& z) ||| (y &&& ~~~z)) d a b

/-- BINS (R139). -/
def execBins (d a b : BitVec 5) : State → Out := scalar3 4 1 (fun x y z => bitInsert x y z) d a b

/-- FSHL (R139). -/
def execFshl (d a b : BitVec 5) : State → Out := scalar3 4 1 (fun x y z => funnelLeft x y z) d a b

/-- FSHR (R139). -/
def execFshr (d a b : BitVec 5) : State → Out := scalar3 4 1 (fun x y z => funnelRight x y z) d a b

/-- CLZ (R139). -/
def execClz (d a : BitVec 5) : State → Out := scalar1 4 1 (fun x => BitVec.ofNat 64 (64 - bitLen x.toNat)) d a

/-- CTZ (R139). -/
def execCtz (d a : BitVec 5) : State → Out := scalar1 4 1 (fun x => BitVec.ofNat 64 (ctzFrom x.toNat 64 0)) d a

/-- POPC (R139). -/
def execPopc (d a : BitVec 5) : State → Out := scalar1 4 1 (fun x => BitVec.ofNat 64 (popFrom x.toNat 64)) d a

/-- BSWAP (R139). -/
def execBswap (d a : BitVec 5) : State → Out := scalar1 4 1 (fun x => byteSwap x) d a

/-! ## MAJ 0x03-0x0B (R140, R52) -/

/-- ADDI (R140). -/
def execAddi (d a : BitVec 5) (i : BitVec 15) : State → Out := scalar1 4 1 (fun x => x + i.signExtend 64) d a

/-- ANDI (R140). -/
def execAndi (d a : BitVec 5) (i : BitVec 15) : State → Out := scalar1 4 1 (fun x => x &&& i.zeroExtend 64) d a

/-- ORI (R140). -/
def execOri (d a : BitVec 5) (i : BitVec 15) : State → Out := scalar1 4 1 (fun x => x ||| i.zeroExtend 64) d a

/-- XORI (R140). -/
def execXori (d a : BitVec 5) (i : BitVec 15) : State → Out := scalar1 4 1 (fun x => x ^^^ i.zeroExtend 64) d a

/-- SLLI (R140). -/
def execSlli (d a : BitVec 5) (i : BitVec 6) : State → Out := scalar1 4 1 (fun x => x <<< i.toNat) d a

/-- SRLI (R140). -/
def execSrli (d a : BitVec 5) (i : BitVec 6) : State → Out := scalar1 4 1 (fun x => x >>> i.toNat) d a

/-- SRAI (R140). -/
def execSrai (d a : BitVec 5) (i : BitVec 6) : State → Out := scalar1 4 1 (fun x => x.sshiftRight i.toNat) d a

/-- SLTI (R140). -/
def execSlti (d a : BitVec 5) (i : BitVec 15) : State → Out := scalar1 4 1 (fun x => ofBool (x.slt (i.signExtend 64))) d a

/-- LIH (R140). -/
def execLih (d a : BitVec 5) (i : BitVec 15) : State → Out := scalar1 4 1 (fun x => (x <<< 15) + i.zeroExtend 64) d a

/-! ## CLS 1 (R58): g(D) is the first source, g(A) or the immediate the second -/

/-- MOV.C. -/
def execMovC (d a : BitVec 4) : State → Out := scalar1 2 1 (fun x => x) (cg d) (cg a)

/-- ADD.C. -/
def execAddC (d a : BitVec 4) : State → Out := scalar2 2 1 (fun x y => x + y) (cg d) (cg d) (cg a)

/-- SUB.C. -/
def execSubC (d a : BitVec 4) : State → Out := scalar2 2 1 (fun x y => x - y) (cg d) (cg d) (cg a)

/-- AND.C. -/
def execAndC (d a : BitVec 4) : State → Out := scalar2 2 1 (fun x y => x &&& y) (cg d) (cg d) (cg a)

/-- OR.C. -/
def execOrC (d a : BitVec 4) : State → Out := scalar2 2 1 (fun x y => x ||| y) (cg d) (cg d) (cg a)

/-- XOR.C. -/
def execXorC (d a : BitVec 4) : State → Out := scalar2 2 1 (fun x y => x ^^^ y) (cg d) (cg d) (cg a)

/-- ANDN.C. -/
def execAndnC (d a : BitVec 4) : State → Out := scalar2 2 1 (fun x y => x &&& ~~~y) (cg d) (cg d) (cg a)

/-- SLL.C. -/
def execSllC (d a : BitVec 4) : State → Out := scalar2 2 1 (fun x y => x <<< shamt y) (cg d) (cg d) (cg a)

/-- SRL.C. -/
def execSrlC (d a : BitVec 4) : State → Out := scalar2 2 1 (fun x y => x >>> shamt y) (cg d) (cg d) (cg a)

/-- SRA.C. -/
def execSraC (d a : BitVec 4) : State → Out := scalar2 2 1 (fun x y => x.sshiftRight (shamt y)) (cg d) (cg d) (cg a)

/-- MIN.C. -/
def execMinC (d a : BitVec 4) : State → Out := scalar2 2 1 (fun x y => if x.slt y then x else y) (cg d) (cg d) (cg a)

/-- MAX.C. -/
def execMaxC (d a : BitVec 4) : State → Out := scalar2 2 1 (fun x y => if x.slt y then y else x) (cg d) (cg d) (cg a)

/-- ADDI.C. -/
def execAddiC (d a : BitVec 4) : State → Out := scalar1 2 1 (fun x => x + a.signExtend 64) (cg d) (cg d)

/-- SLLI.C. -/
def execSlliC (d a : BitVec 4) : State → Out := scalar1 2 1 (fun x => x <<< a.toNat) (cg d) (cg d)

/-- SRLI.C. -/
def execSrliC (d a : BitVec 4) : State → Out := scalar1 2 1 (fun x => x >>> a.toNat) (cg d) (cg d)

/-- SRAI.C. -/
def execSraiC (d a : BitVec 4) : State → Out := scalar1 2 1 (fun x => x.sshiftRight a.toNat) (cg d) (cg d)

end Sys2Proof.Machine
end

