-- ==== Sys2Proof/Machine/Atomic.lean ====
section
/-! DEFINITION. Atomics, POST, waits, fences and suits (R171-R181). -/

namespace Sys2Proof.Machine

/-- An atomic function on values of n bytes (R66, R172). -/
inductive AmoFn where
  | add | and | or | xor | min | max | minu | maxu | swap
  deriving DecidableEq, Repr

/-- f(old, b) on n bytes. -/
def AmoFn.apply (f : AmoFn) (n : Nat) (old b : Nat) : Nat :=
  let x := BitVec.ofNat (8 * n) old
  let y := BitVec.ofNat (8 * n) b
  match f with
  | .add => (x + y).toNat
  | .and => (x &&& y).toNat
  | .or => (x ||| y).toNat
  | .xor => (x ^^^ y).toNat
  | .min => if x.slt y then x.toNat else y.toNat
  | .max => if x.slt y then y.toNat else x.toNat
  | .minu => if x.ult y then x.toNat else y.toNat
  | .maxu => if x.ult y then y.toNat else x.toNat
  | .swap => y.toNat

/-- Order of an atomic (R172). -/
inductive AmoOrd where
  | none | acq | rel
  deriving DecidableEq, Repr

/-- A scope operand: none where the field C is 0 (R171). -/
def operandScope (c : BitVec 5) (z : Word) : Option Word := if c = 0 then Option.none else some z

/-- In free code an atomic that releases is performed once the earlier stores of the core have been: what it writes is what an
acquire reads (R328, R331). -/
def awaitStores : M Unit := do
  let s ← get
  if !s.core.timed && s.later.any (fun e => e.core == s.core.pos) then throw (.stall 0)

/-- The synchronising side of an atomic: it ends the core's region; .REL also releases over its scope (R172, R327, R328). -/
def amoSync (o : AmoOrd) (scope : Option Word) : M Unit := do
  let s ← get
  match o with
  | .none => pure ()
  | .acq => set (s.endRegion s.core.pos)
  | .rel => set (s.syncRelease s.core.pos (s.scope scope))

/-- Landing latency of an atomic: a load of the window + 1; in virtual memory the result is visible to the next instruction
(R172, R173, R90). -/
def atomicLatency (s : State) (v l : Nat) : Nat := if s.window v == .virt then 1 else l + 1

/-- AMO (R172). The sources are A, B, C in field order. w is the instruction word. -/
def amo (w : Nat) (f : AmoFn) (o : AmoOrd) (k a b c : BitVec 5) (size : BitVec 1) : State → Out :=
  issue 4 do
    let x ← readG a
    let y ← readG b
    let z ← (match o with | .none => pure 0 | _ => readG c)
    match o with | .rel => awaitStores | _ => pure ()
    let n := if size = 0 then 4 else 8
    let (old, l) ← atomicAccess w x.toNat n (fun old => some (f.apply n old y.toNat))
    amoSync o (operandScope c z)
    writeG k ((BitVec.ofNat (8 * n) old).signExtend 64) (atomicLatency (← get) x.toNat l)

/-- CAS of n bytes: acquire and release over the whole region (R173). -/
def cas (w n : Nat) (k a b c : BitVec 5) : State → Out :=
  issue 4 do
    let x ← readG a
    let y ← readG b
    let z ← readG c
    awaitStores
    let (old, l) ← atomicAccess w x.toNat n (fun old =>
      if old = y.toNat % 2 ^ (8 * n) then some (z.toNat % 2 ^ (8 * n)) else Option.none)
    amoSync .rel Option.none
    writeG k ((BitVec.ofNat (8 * n) old).signExtend 64) (atomicLatency (← get) x.toNat l)

/-- AMO.ADD (R172). -/
def execAmoAdd (k a b : BitVec 5) (s_ : BitVec 1) : State → Out :=
  amo (Instr.encode (.amoAdd k a b s_)) .add .none k a b 0 s_

/-- AMO.AND (R172). -/
def execAmoAnd (k a b : BitVec 5) (s_ : BitVec 1) : State → Out :=
  amo (Instr.encode (.amoAnd k a b s_)) .and .none k a b 0 s_

/-- AMO.OR (R172). -/
def execAmoOr (k a b : BitVec 5) (s_ : BitVec 1) : State → Out :=
  amo (Instr.encode (.amoOr k a b s_)) .or .none k a b 0 s_

/-- AMO.XOR (R172). -/
def execAmoXor (k a b : BitVec 5) (s_ : BitVec 1) : State → Out :=
  amo (Instr.encode (.amoXor k a b s_)) .xor .none k a b 0 s_

/-- AMO.MIN (R172). -/
def execAmoMin (k a b : BitVec 5) (s_ : BitVec 1) : State → Out :=
  amo (Instr.encode (.amoMin k a b s_)) .min .none k a b 0 s_

/-- AMO.MAX (R172). -/
def execAmoMax (k a b : BitVec 5) (s_ : BitVec 1) : State → Out :=
  amo (Instr.encode (.amoMax k a b s_)) .max .none k a b 0 s_

/-- AMO.MINU (R172). -/
def execAmoMinu (k a b : BitVec 5) (s_ : BitVec 1) : State → Out :=
  amo (Instr.encode (.amoMinu k a b s_)) .minu .none k a b 0 s_

/-- AMO.MAXU (R172). -/
def execAmoMaxu (k a b : BitVec 5) (s_ : BitVec 1) : State → Out :=
  amo (Instr.encode (.amoMaxu k a b s_)) .maxu .none k a b 0 s_

/-- AMO.SWAP (R172). -/
def execAmoSwap (k a b : BitVec 5) (s_ : BitVec 1) : State → Out :=
  amo (Instr.encode (.amoSwap k a b s_)) .swap .none k a b 0 s_

/-- AMO.ADD.ACQ (R172). -/
def execAmoAddAcq (k a b c : BitVec 5) (s_ : BitVec 1) : State → Out :=
  amo (Instr.encode (.amoAddAcq k a b c s_)) .add .acq k a b c s_

/-- AMO.AND.ACQ (R172). -/
def execAmoAndAcq (k a b c : BitVec 5) (s_ : BitVec 1) : State → Out :=
  amo (Instr.encode (.amoAndAcq k a b c s_)) .and .acq k a b c s_

/-- AMO.OR.ACQ (R172). -/
def execAmoOrAcq (k a b c : BitVec 5) (s_ : BitVec 1) : State → Out :=
  amo (Instr.encode (.amoOrAcq k a b c s_)) .or .acq k a b c s_

/-- AMO.XOR.ACQ (R172). -/
def execAmoXorAcq (k a b c : BitVec 5) (s_ : BitVec 1) : State → Out :=
  amo (Instr.encode (.amoXorAcq k a b c s_)) .xor .acq k a b c s_

/-- AMO.MIN.ACQ (R172). -/
def execAmoMinAcq (k a b c : BitVec 5) (s_ : BitVec 1) : State → Out :=
  amo (Instr.encode (.amoMinAcq k a b c s_)) .min .acq k a b c s_

/-- AMO.MAX.ACQ (R172). -/
def execAmoMaxAcq (k a b c : BitVec 5) (s_ : BitVec 1) : State → Out :=
  amo (Instr.encode (.amoMaxAcq k a b c s_)) .max .acq k a b c s_

/-- AMO.MINU.ACQ (R172). -/
def execAmoMinuAcq (k a b c : BitVec 5) (s_ : BitVec 1) : State → Out :=
  amo (Instr.encode (.amoMinuAcq k a b c s_)) .minu .acq k a b c s_

/-- AMO.MAXU.ACQ (R172). -/
def execAmoMaxuAcq (k a b c : BitVec 5) (s_ : BitVec 1) : State → Out :=
  amo (Instr.encode (.amoMaxuAcq k a b c s_)) .maxu .acq k a b c s_

/-- AMO.SWAP.ACQ (R172). -/
def execAmoSwapAcq (k a b c : BitVec 5) (s_ : BitVec 1) : State → Out :=
  amo (Instr.encode (.amoSwapAcq k a b c s_)) .swap .acq k a b c s_

/-- AMO.ADD.REL (R172). -/
def execAmoAddRel (k a b c : BitVec 5) (s_ : BitVec 1) : State → Out :=
  amo (Instr.encode (.amoAddRel k a b c s_)) .add .rel k a b c s_

/-- AMO.AND.REL (R172). -/
def execAmoAndRel (k a b c : BitVec 5) (s_ : BitVec 1) : State → Out :=
  amo (Instr.encode (.amoAndRel k a b c s_)) .and .rel k a b c s_

/-- AMO.OR.REL (R172). -/
def execAmoOrRel (k a b c : BitVec 5) (s_ : BitVec 1) : State → Out :=
  amo (Instr.encode (.amoOrRel k a b c s_)) .or .rel k a b c s_

/-- AMO.XOR.REL (R172). -/
def execAmoXorRel (k a b c : BitVec 5) (s_ : BitVec 1) : State → Out :=
  amo (Instr.encode (.amoXorRel k a b c s_)) .xor .rel k a b c s_

/-- AMO.MIN.REL (R172). -/
def execAmoMinRel (k a b c : BitVec 5) (s_ : BitVec 1) : State → Out :=
  amo (Instr.encode (.amoMinRel k a b c s_)) .min .rel k a b c s_

/-- AMO.MAX.REL (R172). -/
def execAmoMaxRel (k a b c : BitVec 5) (s_ : BitVec 1) : State → Out :=
  amo (Instr.encode (.amoMaxRel k a b c s_)) .max .rel k a b c s_

/-- AMO.MINU.REL (R172). -/
def execAmoMinuRel (k a b c : BitVec 5) (s_ : BitVec 1) : State → Out :=
  amo (Instr.encode (.amoMinuRel k a b c s_)) .minu .rel k a b c s_

/-- AMO.MAXU.REL (R172). -/
def execAmoMaxuRel (k a b c : BitVec 5) (s_ : BitVec 1) : State → Out :=
  amo (Instr.encode (.amoMaxuRel k a b c s_)) .maxu .rel k a b c s_

/-- AMO.SWAP.REL (R172). -/
def execAmoSwapRel (k a b c : BitVec 5) (s_ : BitVec 1) : State → Out :=
  amo (Instr.encode (.amoSwapRel k a b c s_)) .swap .rel k a b c s_

/-- CAS.W (R173). -/
def execCasW (k a b c : BitVec 5) : State → Out := cas (Instr.encode (.casW k a b c)) 4 k a b c

/-- CAS.D (R173). -/
def execCasD (k a b c : BitVec 5) : State → Out := cas (Instr.encode (.casD k a b c)) 8 k a b c

/-! ## POST (R174) -/

/-- Core and counter of a mailbox counter address (R150, R174). -/
def counterAddr (v : Nat) : Option (Nat × BitVec 6) :=
  if v % 4 = 0 ∧ 0x60000000 ≤ v ∧ v < 0x60000000 + meshSize * 0x100 then
    some ((v - 0x60000000) / 0x100, BitVec.ofNat 6 (v % 0x100 / 4))
  else none

/-- Increments of a core that still wait in its send queue (R40, R393). -/
def State.unsent (s : State) (pos : Nat) : List Msg := s.msgs.filter (fun m => m.src == .post pos)

/-- When the last of the stores that a core has made is performed. -/
def State.lastStore (s : State) (pos : Nat) : Nat :=
  s.later.foldl (fun m e => if e.core = pos then max m e.visible else m) 0

/-- POST: an increment is sent to a counter of the region, a release over scope C: it arrives once the earlier stores of the core
are performed (R328); a counter of another region is not changed
and POSTREJECT is raised here. In timed code a missing injection credit is a deviation (R174, log 14). -/
def execPost (a b c : BitVec 5) : State → Out :=
  issue 4 do
    let x ← readG a
    let y ← readG b
    let z ← readG c
    check (x.toNat % 4 == 0) 3 x
    match counterAddr x.toNat with
    | none => raise 4 x
    | some (pos, idx) =>
      let s ← get
      let me := s.core.pos
      if s.core.timed && decide (Config.injectionCredits < (s.unsent me).length) then throw (.stall 5)
      let t := s.syncRelease me (s.scope (operandScope c z))
      if s.owner pos = s.owner me then
        set { t with msgs := t.msgs ++ [Msg.mk (.post me) (s.owner me) pos idx (BitVec.ofNat 32 y.toNat) Option.none (s.lastStore me)] }
      else set (t.postReject me x)

/-! ## Waits (R175-R178) -/

/-- (counter − target) mod 2^32 < 2^31 (R175). -/
def counterReached (counter target : BitVec 32) : Bool := decide ((counter - target).toNat < 2 ^ 31)

/-- The stream elements that an instruction has popped: those of c after it, c0 being the core before (R85). -/
def Core.poppedSince (c c0 : Core) : List (Nat × List Nat × Word) :=
  (List.range 8).filterMap (fun i =>
    match c0.gs.toList.getD i Option.none, c.gs.toList.getD i Option.none with
    | some t0, some t => if t0.next < t.next ∧ !t.isWrite then some (i, t0.queue.take (t.next - t0.next), c0.g.toList.getD (24 + i) 0)
      else Option.none
    | _, _ => Option.none)

/-- A core stands at a wait from now on. If the wait is abandoned, what it has popped since the state at issue goes back (R385). -/
def State.standAt (s s0 : State) (w : Wait) : State :=
  { s with core := { s.core with
      status := .waiting w, readyAt := s.now + s.period s.core.pos, dbg := false, popped := s.core.poppedSince s0.core } }

/-- A core issues a wait: its region ends (R328) and it stays at the wait until that is satisfied. -/
def beginWait (s0 : State) (w : Wait) : M Unit := modify (fun s => (s.endRegion s.core.pos).standAt s0 w)

/-- A wait completes: the next instruction issues in the cycle after (R30). -/
def State.endWait (s : State) : State := ({ s with core := { s.core with status := .running, readyAt := s.now, popped := [] } }).advance 4

/-- Issue a wait: outside a suit it completes at once where its condition holds already; in a suit it waits for every member
(R26). -/
def waitOn (s0 : State) (w : Wait) (holds : State → Bool) : M Unit := do
  beginWait s0 w
  let s ← get
  if !s.core.suit.act && holds s then set s.endWait else pure ()

/-- Word 0 of a byte barrier in a core's local memory (R310). -/
def State.barrierWord (s : State) (pos addr : Nat) : Nat := s.getNat (localPlace pos addr) 8

/-- ERR of a barrier. -/
def State.barrierErr (s : State) (pos addr : Nat) : Bool := s.barrierWord pos addr / 2 ^ 58 % 2 == 1
/-- PHASE of a barrier. -/
def State.barrierPhase (s : State) (pos addr : Nat) : Bool := s.barrierWord pos addr / 2 ^ 56 % 2 == 1

/-- Whether the earlier accesses of a core have been performed (R177): its stores, the element loads of its gathers, its POSTs. -/
def State.accessesDone (s : State) (pos : Nat) : Bool :=
  s.later.all (fun e => e.core != pos) && s.gathers.all (fun g => g.core != pos) && (s.unsent pos).isEmpty

/-- Whether a core's wait is satisfied, for the waits of this chapter. -/
def State.waitHolds (s : State) (pos : Nat) : Wait → Bool
  | .counter i t _ => counterReached ((s.coreAt pos).counters[i.toNat]) t
  | .barrier a p _ => s.barrierPhase pos a == p
  | .fence _ => s.accessesDone pos
  | _ => false

/-- WAITC (R175). -/
def execWaitc (a b c : BitVec 5) : State → Out :=
  issueOwn do
    let s0 ← get
    let x ← readG a
    let y ← readG b
    let z ← readG c
    check (decide (x.toNat ≤ 63)) 4 x
    let w := Wait.counter (BitVec.ofNat 6 x.toNat) (BitVec.ofNat 32 y.toNat) (operandScope c z)
    waitOn s0 w (fun s => s.waitHolds s.core.pos w)

/-- WAITB (R176). The sources are A, C, then K. -/
def execWaitb (k a c : BitVec 5) : State → Out :=
  issueOwn do
    let s0 ← get
    let x ← readG a
    let z ← readG c
    let d ← readG k
    check (d.toNat % 16 == 0) 3 d
    check (decide (d.toNat < 0x20000)) 4 d
    let s ← get
    check (!s.barrierErr s.core.pos d.toNat) 11 d
    let w := Wait.barrier d.toNat (x.toNat % 2 == 1) (operandScope c z)
    waitOn s0 w (fun s => s.waitHolds s.core.pos w)

/-- FENCE (R177). -/
def execFence (c : BitVec 5) : State → Out :=
  issueOwn do
    check (!(← getC).timed) 1 (BitVec.ofNat 64 (Instr.encode (.fence c)))
    let s0 ← get
    let z ← readG c
    beginWait s0 (.fence (operandScope c z))
    let s ← get
    if !s.core.suit.act && s.accessesDone s.core.pos then
      set ((s.releaseMarks s.core.pos (s.scope (operandScope c z))).endWait)
    else pure ()

/-! ## Suits (R180, R181) -/

/-- A core takes its place in a formed suit (R22, R23). -/
def Core.joinSuit (c : Core) (mask : BitVec 16) : Core :=
  let members := (List.range 16).filter (fun i => mask.getLsbD i)
  { c with suit := ⟨true, BitVec.ofNat 4 (members.length - 1), BitVec.ofNat 4 (members.idxOf (groupPos c.pos)), mask⟩ }

/-- The cores of the current core's group that wait in a suit barrier with another mask that overlaps this one (R180). -/
def State.suitClashes (s : State) (mask : BitVec 16) : List Nat :=
  ((List.range 16).map (groupCore (groupOf s.core.pos))).filter (fun p => match (s.coreAt p).status with
    | .waiting (.suitBar m) => m != mask && (m &&& mask) != 0
    | _ => false)

/-- Whether the wait of core p began in this cycle, at a higher group position than the current core's: of two that clash in one
cycle, it is the one that traps (R180). -/
def State.yields (s : State) (p : Nat) : Bool :=
  (s.coreAt p).readyAt == s.now + s.period p && decide (groupPos s.core.pos < groupPos p)

/-- Core p's suit barrier raises ILLEGAL with its word. -/
def State.illegalBarrier (s : State) (p : Nat) : State :=
  let w := BitVec.ofNat 64 (s.getNat (localPlace p (s.coreAt p).pc.toNat) 4)
  ((s.turn p).takeTrap false 1 w 0).turn s.core.pos

/-- SUIT.BAR (R180). DESIGN CHOICE (log 87): a mask of one bit completes at once only where no mask of a waiting core clashes with it. -/
def execSuitBar (a : BitVec 5) : State → Out :=
  issueOwn do
    let s0 ← get
    modify (fun s => s.dissolve s.core.pos)
    let x ← readG a
    let mask := BitVec.ofNat 16 x.toNat
    let w : Word := BitVec.ofNat 64 (Instr.encode (.suitBar a))
    let s ← get
    let me := s.core.pos
    check (mask.getLsbD (groupPos me)) 1 w
    let named := ((List.range 16).filter (fun i => mask.getLsbD i)).map (groupCore (groupOf me))
    check (named.all (fun p => s.owner p == s.owner me && (s.coreAt p).launch == s.core.launch)) 1 w
    check ((s.suitClashes mask).all s.yields) 1 w
    set ((s.suitClashes mask).foldl State.illegalBarrier s)
    if named.length = 1 then
      modC (fun c => c.joinSuit mask)
      modify (fun s => s.advance 4)
    else
      modify (fun s => s.standAt s0 (.suitBar mask))

/-- SUIT.DIS: the core leaves its suit; outside a suit nothing changes (R181). -/
def execSuitDis : State → Out :=
  issue 4 (modC (fun c => { c with suit := Suit.idle, follow := [], lead := none }))

end Sys2Proof.Machine
end

