-- ==== Sys2Proof/Machine/Branch.lean ====
section
/-! DEFINITION. Control flow (R144-R149) and compact control (R59). -/

namespace Sys2Proof.Machine

/-- Offset of o halfwords (R52). -/
def halfwords (o : BitVec n) : Word := o.signExtend 64 <<< 1

/-- A taken target must lie in local memory (R48). -/
def checkTarget (t : Word) : M Unit := check (decide (t.toNat < 0x20000)) 4 t

/-- A conditional branch: the selected instruction issues in the next cycle, taken or not (R147). In a suit the outcome and the
target are the leader's (R25); a follower reads its own registers all the same, and pops (R24, R85). -/
def branch (len : Nat) (taken : M Bool) (off : Word) : State → Out :=
  issueTo do
    let c ← getC
    let go ← taken
    match c.lead with
    | some t => pure t
    | none =>
      if go then
        let t := c.pc + off
        checkTarget t
        pure t
      else pure (c.pc + BitVec.ofNat 64 len)

/-- A relation of two registers. -/
def relation (f : Word → Word → Bool) (a b : BitVec 5) : M Bool := do
  let x ← readG a
  let y ← readG b
  return f x y

/-- A relation of one register. -/
def zeroness (f : Word → Bool) (a : BitVec 5) : M Bool := do
  let x ← readG a
  return f x

/-- BEQ (R144). -/
def execBeq (a b : BitVec 5) (o : BitVec 15) : State → Out :=
  branch 4 (relation (fun x y => x == y) a b) (halfwords o)

/-- BNE (R144). -/
def execBne (a b : BitVec 5) (o : BitVec 15) : State → Out :=
  branch 4 (relation (fun x y => x != y) a b) (halfwords o)

/-- BLT (R144). -/
def execBlt (a b : BitVec 5) (o : BitVec 15) : State → Out :=
  branch 4 (relation (fun x y => x.slt y) a b) (halfwords o)

/-- BGE (R144). -/
def execBge (a b : BitVec 5) (o : BitVec 15) : State → Out :=
  branch 4 (relation (fun x y => !x.slt y) a b) (halfwords o)

/-- BLTU (R144). -/
def execBltu (a b : BitVec 5) (o : BitVec 15) : State → Out :=
  branch 4 (relation (fun x y => x.ult y) a b) (halfwords o)

/-- BGEU (R144). -/
def execBgeu (a b : BitVec 5) (o : BitVec 15) : State → Out :=
  branch 4 (relation (fun x y => !x.ult y) a b) (halfwords o)

/-- BZ.C: s6 = sext(OP[1:0]·16 + D, 6) (R59). -/
def execBzC (d a : BitVec 4) (o : BitVec 2) : State → Out :=
  branch 2 (zeroness (fun x => x == 0) (cg a)) (halfwords (o ++ d))

/-- BNZ.C: s6 = sext(OP[1:0]·16 + D, 6) (R59). -/
def execBnzC (d a : BitVec 4) (o : BitVec 2) : State → Out :=
  branch 2 (zeroness (fun x => x != 0) (cg a)) (halfwords (o ++ d))

/-- JAL (R145). The check of the target precedes the link write. -/
def execJal (d : BitVec 5) (o : BitVec 20) : State → Out :=
  issueTo do
    let c ← getC
    let t := c.pc + halfwords o
    checkTarget t
    writeG d (c.pc + 4) 1
    pure (c.lead.getD t)

/-- JALR (R145): a is read before gD is written; an odd target raises ALIGN (R47), one outside local memory WINDOW (R48). -/
def execJalr (d a : BitVec 5) (o : BitVec 13) : State → Out :=
  issueTo do
    let c ← getC
    let x ← readG a
    match c.lead with
    | some t =>
      writeG d (c.pc + 4) 1
      pure t
    | none =>
      let t := x + halfwords o
      check (t.toNat % 2 == 0) 3 t
      checkTarget t
      writeG d (c.pc + 4) 1
      pure t

/-- LOOP (R146). -/
def execLoop (a : BitVec 5) (o : BitVec 13) : State → Out :=
  issueTo do
    let c ← getC
    if (c.gstream a).isSome then raiseStream a.toNat false 5
    else
      let x ← readG a
      let n := x - 1
      let t := c.pc + halfwords o
      match c.lead with
      | some u =>
        writeG a n 1
        pure u
      | none =>
        if n = 0 then
          writeG a n 1
          pure (c.pc + 4)
        else
          checkTarget t
          writeG a n 1
          pure t

/-- The next instruction issues n cycles on (R148). -/
def idleFor (len n : Nat) : State → Out :=
  issueOwn (modify (fun s =>
    let t := s.advance len
    { t with core := { t.core with readyAt := s.now + n * s.period s.core.pos } }))

/-- IDLE (R148). -/
def execIdle (n : BitVec 13) : State → Out := idleFor 4 n.toNat

/-- IDLE.C (R59, R148). -/
def execIdleC (d a : BitVec 4) : State → Out := idleFor 2 (d.toNat * 16 + a.toNat)

/-- BRK raises BREAK with its code (R149). -/
def execBrk (c : BitVec 12) : State → Out := issueOwn (raise 14 (c.zeroExtend 64))

/-- BRK.C (R59, R149). -/
def execBrkC (d a : BitVec 4) : State → Out := issueOwn (raise 14 (BitVec.ofNat 64 (d.toNat * 16 + a.toNat)))

/-- ECALL raises ECALL with its code (R149). -/
def execEcall (c : BitVec 12) : State → Out := issueOwn (raise 15 (c.zeroExtend 64))

end Sys2Proof.Machine
end

