-- ==== Sys2Proof/Machine/Lanes.lean ====
section
/-! DEFINITION. Lanes, format tags and type classes (R70, R82, R183), tag checks (R83, R184), the lane functions of the vector
unit (R185-R198) and the correctly rounded transcendentals (R204). -/

namespace Sys2Proof.Machine

/-! ## Tags and classes -/

/-- Lane width of a tag; BITS has 8, C4 has 4, EMPTY none (R82, R183). -/
def tagWidth (t : Nat) : Nat :=
  if t = 1 ∨ t = 4 ∨ t = 5 ∨ t = 12 then 8
  else if t = 6 ∨ t = 7 ∨ t = 13 ∨ t = 14 then 16
  else if 16 ≤ t ∧ t ≤ 19 then 4
  else if t = 8 ∨ t = 9 ∨ t = 15 ∨ (20 ≤ t ∧ t ≤ 22) then 32
  else 0

/-- INT (R183). -/
def tagInt (t : Nat) : Bool := decide (4 ≤ t) && decide (t ≤ 9)
/-- SINT. -/
def tagSint (t : Nat) : Bool := t == 4 || t == 6 || t == 8
/-- The unsigned types. -/
def tagUint (t : Nat) : Bool := t == 5 || t == 7 || t == 9
/-- FLT. -/
def tagFlt (t : Nat) : Bool := decide (13 ≤ t) && decide (t ≤ 15)
/-- NUM. -/
def tagNum (t : Nat) : Bool := tagInt t || tagFlt t
/-- SINT and FLT. -/
def tagSigned (t : Nat) : Bool := tagSint t || tagFlt t
/-- INT and BITS. -/
def tagIntBits (t : Nat) : Bool := tagInt t || t == 1
/-- DATA. -/
def tagData (t : Nat) : Bool := tagNum t || t == 12 || t == 1
/-- DATA without BITS. -/
def tagTable (t : Nat) : Bool := tagNum t || t == 12
/-- ANY. -/
def tagAny (t : Nat) : Bool := tagData t || (decide (16 ≤ t) && decide (t ≤ 19))

/-- Tag of a type code (R67); code 0 has none. -/
def codeTag (t : BitVec 4) : Nat :=
  match t.toNat with
  | 1 => 4 | 2 => 5 | 3 => 6 | 4 => 7 | 5 => 8 | 6 => 9 | 7 => 12 | 8 => 13 | 9 => 14 | 10 => 15 | 11 => 1
  | _ => 0

/-- The unsigned type of a width. -/
def unsignedTag (w : Nat) : Nat := if w = 8 then 5 else if w = 16 then 7 else 9

/-- Format of a floating-point tag (R114). -/
def tagFmt (t : Nat) : Fmt := if t = 12 then f8 else if t = 13 then bf16 else if t = 14 then f16 else fp32

/-- A vector source: its register, and the operand code that a TAG trap names (R83). -/
abbrev Src := BitVec 4 × Nat

/-- Require a tag of a source (R83). -/
def needTag (tag : Nat) (x : Src) : M Unit := do
  let f := ((← getC).tagV x.1).toNat
  if f = tag then pure () else raiseTag f x.1.toNat x.2

/-- Require one tag of several sources. -/
def needTags (tag : Nat) : List Src → M Unit
  | [] => pure ()
  | x :: r => do
    needTag tag x
    needTags tag r

/-- The type of an instruction: that of its code, which every source must carry, or for code 0 the sources' common tag, which
the class must allow (R83, R184). DESIGN CHOICE (log 27): where several sources fail, TAG names the first in the order in which
the instruction's meaning lists them. -/
def laneType (cls : Nat → Bool) (t : BitVec 4) : List Src → M Nat
  | [] => pure (codeTag t)
  | x :: r => do
    if t = 0 then
      let f := ((← getC).tagV x.1).toNat
      if cls f then
        needTags f r
        pure f
      else raiseTag f x.1.toNat x.2
    else
      needTags (codeTag t) (x :: r)
      pure (codeTag t)

/-! ## Lanes -/

/-- The first n lanes of width w (R70). -/
def lanesOf (w n x : Nat) : List Nat := (List.range n).map (fun j => x / 2 ^ (w * j) % 2 ^ w)

/-- Lanes of width w as one value. -/
def packLanes (w : Nat) (vs : List Nat) : Nat := vs.foldr (fun v acc => v % 2 ^ w + acc * 2 ^ w) 0

/-- All lanes of a register. -/
def regLanes (w : Nat) (x : VWord) : List Nat := lanesOf w (512 / w) x.toNat

/-- Lanes as a register. -/
def lanesReg (w : Nat) (vs : List Nat) : VWord := BitVec.ofNat 512 (packLanes w vs)

/-- The flags of several results. -/
def allFlags (rs : List (Nat × Fl)) : Fl := rs.foldl (fun a r => a ||| r.2) 0

/-- Read the registers of a widened group in ascending order, as one value (R186). -/
def readGroup : Nat → Nat → M Nat
  | 0, _ => pure 0
  | n + 1, base => do
    let x ← readV (BitVec.ofNat 4 base)
    let r ← readGroup n (base + 1)
    pure (x.toNat + r * 2 ^ 512)

/-- Write a widened group: register D + i lands i cycles after D, its flags with it (R186, R128). Lanes have width w. -/
def writeGroup (w : Nat) (tag : Nat) (l : Nat) : Nat → Nat → List (Nat × Fl) → M Unit
  | 0, _, _ => pure ()
  | n + 1, base, rs => do
    let here := rs.take (512 / w)
    writeV (BitVec.ofNat 4 base) (lanesReg w (here.map Prod.fst)) (BitVec.ofNat 5 tag) l
    raiseFlags (allFlags here) l
    writeGroup w tag (l + 1) n (base + 1) (rs.drop (512 / w))

/-- Lanes written to one register with their flags. -/
def writeLanes (d : BitVec 4) (w tag l : Nat) (rs : List (Nat × Fl)) : M Unit := do
  writeV d (lanesReg w (rs.map Prod.fst)) (BitVec.ofNat 5 tag) l
  raiseFlags (allFlags rs) l

/-! ## Lane functions: the tag, then the lanes -/

/-- The integer of a lane. -/
def laneInt (t x : Nat) : Int := intVal (tagSint t) (tagWidth t) x

/-- An integer operation that wraps, or a float one (R185). -/
def lane2 (fi : Int → Int → Int) (ff : Fmt → Nat → Nat → Nat × Fl) (t a b : Nat) : Nat × Fl :=
  if tagFlt t then ff (tagFmt t) a b else (intCode (tagWidth t) (fi (laneInt t a) (laneInt t b)), 0)

/-- ±(a·b) + d with one rounding, the factors in format F and the rest in G (R141, R188, R189). -/
def fmaMix (F G : Fmt) (minus : Bool) (a b d : Nat) : Nat × Fl :=
  let x := decodeF F a
  let y := decodeF F b
  let z := decodeF G d
  let p := mulNum x y
  let nv : Fl := if !x.isNan && !y.isNan && p.isNone then flNV else 0
  if x.isNan || y.isNan || z.isNan then (propNaN G [x, y, z], nv ||| nvOf [x, y, z])
  else match p.bind (fun p => addNum .rne (if minus then p.neg else p) z) with
    | some r => roundNum G .rne r
    | none => invalid G

/-- VFMA, VFMS. -/
def laneFma (minus : Bool) (t a b d : Nat) : Nat × Fl :=
  if tagFlt t then fmaMix (tagFmt t) (tagFmt t) minus a b d
  else
    let p := laneInt t a * laneInt t b
    (intCode (tagWidth t) (laneInt t d + (if minus then -p else p)), 0)

/-- VMIN, VMAX. -/
def laneMinMax (isMax : Bool) : Nat → Nat → Nat → Nat × Fl :=
  lane2 (fun x y => if isMax then max x y else min x y) (fun F => fminmax F isMax)

/-- VABS. -/
def laneAbs (t a : Nat) : Nat × Fl :=
  let w := tagWidth t
  if tagFlt t then (a % 2 ^ (w - 1), 0)
  else
    let r := satInt (tagSint t) w (laneInt t a).natAbs
    (intCode w r.1, r.2)

/-- VNEG. -/
def laneNeg (t a : Nat) : Nat × Fl :=
  let w := tagWidth t
  if tagFlt t then (a % 2 ^ (w - 1) + (if a / 2 ^ (w - 1) % 2 = 1 then 0 else 2 ^ (w - 1)), 0)
  else
    let r := satInt (tagSint t) w (-(laneInt t a))
    (intCode w r.1, r.2)

/-- VRELU. -/
def laneRelu (t a : Nat) : Nat × Fl :=
  if tagFlt t then
    match decodeF (tagFmt t) a with
    | .nan s f g => (quietNaN (tagFmt t) s f, if g then flNV else 0)
    | .inf s => (if s then 0 else a, 0)
    | .fin s m _ => (if s || m == 0 then 0 else a, 0)
  else (intCode (tagWidth t) (max (laneInt t a) 0), 0)

/-- VAVG. -/
def laneAvg (t a b : Nat) : Nat × Fl := (intCode (tagWidth t) ((laneInt t a + laneInt t b + 1) / 2), 0)

/-- A bit operation on w bits: no flag (R190). -/
def laneBits (f : Nat → Nat → Nat → Nat) (t a b : Nat) : Nat × Fl := (f (tagWidth t) a b % 2 ^ tagWidth t, 0)

/-- VSRA: copies of the top bit enter. -/
def laneSra (w a s : Nat) : Nat := intCode w (intVal true w a / 2 ^ (s % w))

/-- Leading zero bits of w bits. -/
def laneClz (w a : Nat) : Nat := w - bitLen a

/-- VBEXT: bits i to i + n - 1 of a where b has ones, packed from bit 0. -/
def gatherBits (a b : Nat) : Nat → Nat → Nat
  | 0, _ => 0
  | n + 1, i => if b.testBit i then (a.testBit i).toNat + 2 * gatherBits a b n (i + 1) else gatherBits a b n (i + 1)

/-- VFSHL. -/
def laneFshl (t a b d : Nat) : Nat × Fl :=
  let w := tagWidth t
  ((d * 2 ^ w + a) * 2 ^ (b % w) / 2 ^ w % 2 ^ w, 0)

/-- A comparison of two lanes (R192). -/
def laneCmp (c : Cmp) (t a b : Nat) : Bool × Fl :=
  if tagFlt t then fcmp (tagFmt t) c a b
  else
    let x := laneInt t a
    let y := laneInt t b
    (match c with
      | .eq => x == y
      | .ne => x != y
      | .lt => decide (x < y)
      | .le => decide (x ≤ y)
      | .gt => decide (y < x)
      | .ge => decide (y ≤ x)
      | .un => false, 0)

/-- A lane as VEXT, VREDMAX and VREDMIN give it to a g register (R193, R197). -/
def laneToG (t x : Nat) : Word :=
  if tagSint t then BitVec.ofInt 64 (laneInt t x) else BitVec.ofNat 64 x

/-- A value converted from tag S to tag T (R126, R195). -/
def laneConvert (S T : Nat) (mode : Mode) (x : Nat) : Nat × Fl :=
  if tagInt S then
    let v := laneInt S x
    if tagInt T then
      let r := satInt (tagSint T) (tagWidth T) v
      (intCode (tagWidth T) r.1, r.2)
    else intToFloat (tagFmt T) mode v
  else if tagInt T then
    let r := floatToInt (tagSint T) (tagWidth T) mode (decodeF (tagFmt S) x)
    (intCode (tagWidth T) r.1, r.2)
  else floatToFloat (tagFmt S) (tagFmt T) mode x

/-! ## Sums in the fixed tree and in order (R196, R198) -/

/-- One level of the tree: neighbours added by FADD.S. -/
def treeLevel : List Nat → List Nat × Fl
  | a :: b :: r =>
    let s := fadd fp32 a b
    let (rest, fl) := treeLevel r
    (s.1 :: rest, s.2 ||| fl)
  | l => (l, 0)

/-- The tree to its root; the fuel is the number of levels. -/
def treeSum : Nat → List Nat → Nat × Fl
  | 0, l => (l.getD 0 0, 0)
  | n + 1, l =>
    let (up, fl) := treeLevel l
    let (r, fl2) := treeSum n up
    (r, fl ||| fl2)

/-- A running value over lanes in ascending order: the later results with their flags. -/
def runLanes (f : Nat → Nat → Nat × Fl) : Nat → List Nat → List (Nat × Fl)
  | _, [] => []
  | acc, x :: r =>
    let y := f acc x
    y :: runLanes f y.1 r

/-! ## Sorting (R205) -/

/-- Whether key x goes before key y: floats with −0 below +0 and every NaN above +∞. -/
def keyLess (t x y : Nat) : Bool :=
  if tagFlt t then
    let a := decodeF (tagFmt t) x
    let b := decodeF (tagFmt t) y
    if a.isNan then false else if b.isNan then true else beforeNum a b
  else decide (laneInt t x < laneInt t y)

/-- Put a pair before the first pair that may not precede it. -/
def insertPair (less : Nat → Nat → Bool) (p : Nat × Nat) : List (Nat × Nat) → List (Nat × Nat)
  | [] => [p]
  | q :: r => if less q.1 p.1 then q :: insertPair less p r else p :: q :: r

/-- Stable sort of pairs by key. -/
def sortPairs (less : Nat → Nat → Bool) (ps : List (Nat × Nat)) : List (Nat × Nat) := ps.foldr (insertPair less) []

/-! ## Transcendentals (R204; log 16) -/

/-- 2^(0.b₁b₂…bₙ) with p fraction bits, rounded down, where f has the bits b₁ to bₙ: square roots from the last bit on. -/
def exp2Frac (p f : Nat) : Nat → Nat → Nat
  | 0, acc => acc
  | n + 1, acc =>
    exp2Frac p (f / 2) n (isqrt ((if f % 2 = 1 then 2 else 1) * acc * 2 ^ p))

/-- 2^a of R204. -/
def fexp2 (F : Fmt) (a : Nat) : Nat × Fl :=
  match decodeF F a with
  | .nan s f g => (quietNaN F s f, if g then flNV else 0)
  | .inf s => (if s then zeroCode F false else infCode F false, 0)
  | .fin s m e =>
    let ip : Nat := if 0 ≤ e then m * 2 ^ (min e.toNat 40) else m / 2 ^ (-e).toNat
    if 4096 ≤ ip then (if s then rnd F .rne false 1 (-8192) true else rnd F .rne false 1 8192 false)
    else
      let n := if 0 ≤ e then 0 else (-e).toNat
      let fr := m % 2 ^ n
      if e < 0 ∧ fr ≠ 0 then
        let k : Int := if s then -(ip : Int) - 1 else ip
        let f := if s then 2 ^ n - fr else fr
        rnd F .rne false (exp2Frac 128 f n (2 ^ 128)) (k - 128) true
      else rnd F .rne false 1 (if s then -(ip : Int) else ip) false

/-- Bits of log₂ y for y in [1, 2) with p fraction bits, rounded down. -/
def log2Bits (p : Nat) : Nat → Nat → Nat → Nat
  | 0, _, acc => acc
  | n + 1, y, acc =>
    let q := y * y / 2 ^ p
    if 2 ^ (p + 1) ≤ q then log2Bits p n (q / 2) (2 * acc + 1) else log2Bits p n q (2 * acc)

/-- log₂ a of R204. -/
def flog2 (F : Fmt) (a : Nat) : Nat × Fl :=
  match decodeF F a with
  | .nan s f g => (quietNaN F s f, if g then flNV else 0)
  | .inf s => if s then invalid F else (infCode F false, 0)
  | .fin s m e =>
    if m = 0 then (infCode F true, flDZ)
    else if s then invalid F
    else
      let b := bitLen m - 1
      let E : Int := e + b
      if m = 2 ^ b then rnd F .rne (decide (E < 0)) E.natAbs 0 false
      else
        let v : Int := E * 2 ^ 96 + log2Bits 256 96 (m * 2 ^ (256 - b)) 0
        if 0 ≤ v then rnd F .rne false v.toNat (-96) true else rnd F .rne true (v.natAbs - 2) (-96) true

/-- 1/√a of R204. -/
def frsqrt (F : Fmt) (a : Nat) : Nat × Fl :=
  match decodeF F a with
  | .nan s f g => (quietNaN F s f, if g then flNV else 0)
  | .inf s => if s then invalid F else (zeroCode F false, 0)
  | .fin s m e =>
    if m = 0 then (infCode F s, flDZ)
    else if s then invalid F
    else
      let (m, e) := if e % 2 = 0 then (m, e) else (2 * m, e - 1)
      let k := F.fb + 6 + bitLen m
      let r := isqrt (2 ^ (2 * k) / m)
      rnd F .rne false r (-(e / 2) - k) (r * r * m != 2 ^ (2 * k))

/-- 1/a of R204. -/
def frcp (F : Fmt) (a : Nat) : Nat × Fl := fdiv F ((F.bias) * 2 ^ F.fb) a

end Sys2Proof.Machine
end

