-- ==== Sys2Proof/Machine/VectorArith.lean ====
section
/-! DEFINITION. Vector arithmetic, bit operations, compares, conversion, reductions, transcendentals and sorting
(R188-R198, R204, R205). -/

namespace Sys2Proof.Machine

/-! ## Shapes. `len` is the length of the word; a source carries the operand code that a TAG trap names. -/

/-- vD from one source, lane by lane. -/
def vector1 (len : Nat) (cls : Nat → Bool) (l : Nat) (f : Nat → Nat → Nat × Fl) (t : BitVec 4) (d : BitVec 4) (a : Src) :
    State → Out :=
  issue len do
    let T ← laneType cls t [a]
    let x ← readV a.1
    writeLanes d (tagWidth T) T l ((regLanes (tagWidth T) x).map (f T))

/-- vD from two sources. -/
def vector2 (len : Nat) (cls : Nat → Bool) (l : Nat) (f : Nat → Nat → Nat → Nat × Fl) (t : BitVec 4) (d : BitVec 4)
    (a b : Src) : State → Out :=
  issue len do
    let T ← laneType cls t [a, b]
    let x ← readV a.1
    let y ← readV b.1
    writeLanes d (tagWidth T) T l (List.zipWith (f T) (regLanes (tagWidth T) x) (regLanes (tagWidth T) y))

/-- vD from three sources, D the last (R188). -/
def vector3 (cls : Nat → Bool) (l : Nat) (f : Nat → Nat → Nat → Nat → Nat × Fl) (t : BitVec 4) (d a b : BitVec 4) :
    State → Out :=
  issue 4 do
    let T ← laneType cls t [(a, 1), (b, 2), (d, 0)]
    let x ← readV a
    let y ← readV b
    let z ← readV d
    let w := tagWidth T
    writeLanes d w T l (List.zipWith (fun p z => f T p.1 p.2 z) ((regLanes w x).zip (regLanes w y)) (regLanes w z))

/-! ## MAJ 0x28 (R188, R189) -/

/-- VADD (R188). -/
def execVadd (d a b t : BitVec 4) : State → Out := vector2 4 tagNum 2 (lane2 (fun x y => x + y) fadd) t d (a, 1) (b, 2)

/-- VSUB (R188). -/
def execVsub (d a b t : BitVec 4) : State → Out := vector2 4 tagNum 2 (lane2 (fun x y => x - y) fsub) t d (a, 1) (b, 2)

/-- VMUL (R188). -/
def execVmul (d a b t : BitVec 4) : State → Out := vector2 4 tagNum 4 (lane2 (fun x y => x * y) fmul) t d (a, 1) (b, 2)

/-- VFMA (R188). -/
def execVfma (d a b t : BitVec 4) : State → Out := vector3 tagNum 4 (laneFma false) t d a b

/-- VFMS (R188). -/
def execVfms (d a b t : BitVec 4) : State → Out := vector3 tagNum 4 (laneFma true) t d a b

/-- VMIN (R188). -/
def execVmin (d a b t : BitVec 4) : State → Out := vector2 4 tagNum 2 (laneMinMax false) t d (a, 1) (b, 2)

/-- VMAX (R188). -/
def execVmax (d a b t : BitVec 4) : State → Out := vector2 4 tagNum 2 (laneMinMax true) t d (a, 1) (b, 2)

/-- VABS (R188). -/
def execVabs (d a t : BitVec 4) : State → Out := vector1 4 tagSigned 2 laneAbs t d (a, 1)

/-- VNEG (R188). -/
def execVneg (d a t : BitVec 4) : State → Out := vector1 4 tagSigned 2 laneNeg t d (a, 1)

/-- VRELU (R188). -/
def execVrelu (d a t : BitVec 4) : State → Out := vector1 4 tagSigned 2 laneRelu t d (a, 1)

/-- VAVG (R188). -/
def execVavg (d a b t : BitVec 4) : State → Out := vector2 4 tagInt 2 laneAvg t d (a, 1) (b, 2)

/-- The wide type of VMACC for a type and a group size (R189). -/
def wideTag (T n : Nat) : Option Nat :=
  if n = 1 then some T
  else if n = 2 then
    if 4 ≤ T ∧ T ≤ 7 then some (T + 2) else if T = 13 ∨ T = 14 then some 15 else none
  else if n = 4 then
    if T = 4 then some 8 else if T = 5 then some 9 else none
  else none

/-- A lane of VMACC: dⱼ + aⱼ·bⱼ in the wide type. -/
def laneMacc (T Tw : Nat) (a b d : Nat) : Nat × Fl :=
  if tagFlt Tw then fmaMix (tagFmt T) (tagFmt Tw) false a b d
  else (intCode (tagWidth Tw) (laneInt Tw d + laneInt T a * laneInt T b), 0)

/-- VMACC with its B source (R189): the D group's registers must carry the wide type. -/
def macc (len : Nat) (t : BitVec 4) (w : BitVec 2) (d a : BitVec 4) (b : Src) : State → Out :=
  issue len do
    let T ← laneType tagNum t [(a, 1), b]
    let n := 2 ^ w.toNat
    match wideTag T n with
    | none => raiseTag T a.toNat 1
    | some Tw =>
      needTags Tw ((List.range n).map (fun i => (BitVec.ofNat 4 (d.toNat + i), 0)))
      let x ← readV a
      let y ← readV b.1
      let z ← readGroup n d.toNat
      let L := 512 / tagWidth T
      writeGroup (tagWidth Tw) Tw 4 n d.toNat
        (List.zipWith (fun p z => laneMacc T Tw p.1 p.2 z) ((regLanes (tagWidth T) x).zip (regLanes (tagWidth T) y))
          (lanesOf (tagWidth Tw) L z))

/-- VMACC (R189). -/
def execVmacc (d a b : BitVec 4) (w : BitVec 2) (t : BitVec 4) : State → Out := macc 4 t w d a (b, 2)

/-! ## MAJ 0x29 (R190, R191) -/

/-- VAND (R190). -/
def execVand (d a b t : BitVec 4) : State → Out := vector2 4 tagIntBits 2 (laneBits (fun _ x y => x &&& y)) t d (a, 1) (b, 2)

/-- VOR (R190). -/
def execVor (d a b t : BitVec 4) : State → Out := vector2 4 tagIntBits 2 (laneBits (fun _ x y => x ||| y)) t d (a, 1) (b, 2)

/-- VXOR (R190). -/
def execVxor (d a b t : BitVec 4) : State → Out := vector2 4 tagIntBits 2 (laneBits (fun _ x y => x ^^^ y)) t d (a, 1) (b, 2)

/-- VANDN (R190). -/
def execVandn (d a b t : BitVec 4) : State → Out := vector2 4 tagIntBits 2 (laneBits (fun w x y => x &&& (2 ^ w - 1 - y))) t d (a, 1) (b, 2)

/-- VSHL (R190). -/
def execVshl (d a b t : BitVec 4) : State → Out := vector2 4 tagInt 2 (laneBits (fun w x y => x * 2 ^ (y % w))) t d (a, 1) (b, 2)

/-- VSHR (R190). -/
def execVshr (d a b t : BitVec 4) : State → Out := vector2 4 tagInt 2 (laneBits (fun w x y => x / 2 ^ (y % w))) t d (a, 1) (b, 2)

/-- VSRA (R190). -/
def execVsra (d a b t : BitVec 4) : State → Out := vector2 4 tagInt 2 (laneBits laneSra) t d (a, 1) (b, 2)

/-- VPOPC (R190). -/
def execVpopc (d a t : BitVec 4) : State → Out := vector1 4 tagInt 2 (fun t x => (popFrom x (tagWidth t), 0)) t d (a, 1)

/-- VCLZ (R190). -/
def execVclz (d a t : BitVec 4) : State → Out := vector1 4 tagInt 2 (fun t x => (laneClz (tagWidth t) x, 0)) t d (a, 1)

/-- VCLMUL: the low halves, or both halves in a pair of registers (R191). -/
def execVclmul (d a b : BitVec 4) (w : BitVec 1) (t : BitVec 4) : State → Out :=
  issue 4 do
    let T ← laneType tagUint t [(a, 1), (b, 2)]
    let x ← readV a
    let y ← readV b
    let k := tagWidth T
    let cs := List.zipWith (fun x y => clmulFrom x y k) (regLanes k x) (regLanes k y)
    if w = 0 then writeLanes d k T 4 (cs.map (fun c => (c % 2 ^ k, 0)))
    else writeGroup k T 4 2 d.toNat (cs.flatMap (fun c => [(c % 2 ^ k, 0), (c / 2 ^ k, 0)]))

/-- VBEXT (R190). -/
def execVbext (d a b t : BitVec 4) : State → Out := vector2 4 tagInt 2 (laneBits (fun w x y => gatherBits x y w 0)) t d (a, 1) (b, 2)

/-- VFSHL (R190). -/
def execVfshl (d a b t : BitVec 4) : State → Out := vector3 tagInt 2 laneFshl t d a b

/-! ## MAJ 0x2A (R192) -/

/-- A compare: all bits of a lane's bytes take the result. -/
def compareLanes (c : Cmp) (t : BitVec 4) (d : BitVec 3) (a b : BitVec 4) : State → Out :=
  issue 4 do
    let T ← laneType tagNum t [(a, 1), (b, 2)]
    let x ← readV a
    let y ← readV b
    let w := tagWidth T
    let rs := List.zipWith (laneCmp c T) (regLanes w x) (regLanes w y)
    writeM d (BitVec.ofNat 64 (packLanes (w / 8) (rs.map (fun r => if r.1 then 2 ^ (w / 8) - 1 else 0)))) 2
    raiseFlags (rs.foldl (fun f r => f ||| r.2) 0) 2

/-- VCMP.EQ (R192). -/
def execVcmpEq (d : BitVec 3) (a b t : BitVec 4) : State → Out := compareLanes .eq t d a b

/-- VCMP.NE (R192). -/
def execVcmpNe (d : BitVec 3) (a b t : BitVec 4) : State → Out := compareLanes .ne t d a b

/-- VCMP.LT (R192). -/
def execVcmpLt (d : BitVec 3) (a b t : BitVec 4) : State → Out := compareLanes .lt t d a b

/-- VCMP.LE (R192). -/
def execVcmpLe (d : BitVec 3) (a b t : BitVec 4) : State → Out := compareLanes .le t d a b

/-- VCMP.GT (R192). -/
def execVcmpGt (d : BitVec 3) (a b t : BitVec 4) : State → Out := compareLanes .gt t d a b

/-- VCMP.GE (R192). -/
def execVcmpGe (d : BitVec 3) (a b t : BitVec 4) : State → Out := compareLanes .ge t d a b

/-- VCMP.UN (R192). -/
def execVcmpUn (d : BitVec 3) (a b t : BitVec 4) : State → Out := compareLanes .un t d a b

/-! ## MAJ 0x2C: VCVT (R194, R195) -/

/-- The mode of a rounding code (R63, R120). -/
def roundCode (crnd : BitVec 2) (r : BitVec 4) : Mode :=
  match r.toNat with
  | 0 => modeOf crnd
  | 1 => .rne
  | 2 => .rtz
  | 3 => .rup
  | _ => .rdn

/-- VCVT. The checks come in the order of R61 and R194: the tags, EMPTY and BITS first, then the group's size and its other
registers; then the group's alignment. -/
def execVcvt (d a : BitVec 4) (w : BitVec 2) (r t : BitVec 4) : State → Out :=
  issue 4 do
    let c ← getC
    let S := (c.tagV a).toNat
    let T := codeTag t
    if T = 1 then
      if S = 0 then raiseTag S a.toNat 1
      else
        let x ← readV a
        writeV d x 1 4
    else
      if S = 0 ∨ S = 1 then raiseTag S a.toNat 1
      let ws := tagWidth S
      let wt := tagWidth T
      let n := max ws wt / min ws wt
      if 2 ^ w.toNat ≠ n then raiseTag S a.toNat 1
      let nd := if ws < wt then n else 1
      let na := if wt < ws then n else 1
      needTags S (((List.range na).filter (fun i => decide (a.toNat + i < 16))).map (fun i => (BitVec.ofNat 4 (a.toNat + i), 1)))
      check (d.toNat % nd == 0 && a.toNat % na == 0) 1 (BitVec.ofNat 64 (Instr.encode (.vcvt d a w r t)))
      let x ← readGroup na a.toNat
      let s ← get
      let mode := roundCode c.crnd r
      let book := ((s.groupAt (groupOf c.pos)).codebook.toList.getD (S - 16) (Vector.replicate 16 0)).toList
      let value (v : Nat) : Nat × Fl :=
        if 16 ≤ S then laneConvert 13 T mode (book.getD v 0).toNat else laneConvert S T mode v
      writeGroup wt T 4 nd d.toNat ((lanesOf ws (512 / min ws wt) x).map value)

/-! ## MAJ 0x2D (R196-R198) -/

/-- VREDSUM: exact for integers, the fixed tree of FADD.S for floats (R196). -/
def execVredsum (d : BitVec 5) (a t : BitVec 4) : State → Out :=
  issue 4 do
    let T ← laneType tagNum t [(a, 1)]
    let x ← readV a
    let vs := regLanes (tagWidth T) x
    if tagFlt T then
      let ss := vs.map (floatToFloat (tagFmt T) fp32 .rne)
      let r := treeSum 5 (ss.map Prod.fst)
      writeG d (BitVec.ofNat 64 r.1) 8
      raiseFlags (allFlags ss ||| r.2) 8
    else writeG d (BitVec.ofInt 64 (vs.foldl (fun acc v => acc + laneInt T v) 0)) 4

/-- VREDMAX and VREDMIN (R197). -/
def reduceLanes (isMax : Bool) (t : BitVec 4) (d : BitVec 5) (a : BitVec 4) : State → Out :=
  issue 4 do
    let T ← laneType tagNum t [(a, 1)]
    let x ← readV a
    let vs := regLanes (tagWidth T) x
    let rs := runLanes (laneMinMax isMax T) (vs.getD 0 0) (vs.drop 1)
    writeG d (laneToG T ((rs.getLast?).map Prod.fst |>.getD (vs.getD 0 0))) 4
    raiseFlags (allFlags rs) 4

/-- VREDMAX (R197). -/
def execVredmax (d : BitVec 5) (a t : BitVec 4) : State → Out := reduceLanes true t d a

/-- VREDMIN (R197). -/
def execVredmin (d : BitVec 5) (a t : BitVec 4) : State → Out := reduceLanes false t d a

/-- VSCAN (R198). -/
def execVscan (d a t : BitVec 4) : State → Out :=
  issue 4 do
    let T ← laneType tagNum t [(a, 1)]
    let x ← readV a
    let vs := regLanes (tagWidth T) x
    writeLanes d (tagWidth T) T 8
      ((vs.getD 0 0, 0) :: runLanes (lane2 (fun x y => x + y) fadd T) (vs.getD 0 0) (vs.drop 1))

/-! ## MAJ 0x2F (R204, R205) -/

/-- VEXP2 (R204). -/
def execVexp2 (d a t : BitVec 4) : State → Out := vector1 4 tagFlt 8 (fun t x => fexp2 (tagFmt t) x) t d (a, 1)

/-- VLOG2 (R204). -/
def execVlog2 (d a t : BitVec 4) : State → Out := vector1 4 tagFlt 8 (fun t x => flog2 (tagFmt t) x) t d (a, 1)

/-- VRCP (R204). -/
def execVrcp (d a t : BitVec 4) : State → Out := vector1 4 tagFlt 8 (fun t x => frcp (tagFmt t) x) t d (a, 1)

/-- VRSQRT (R204). -/
def execVrsqrt (d a t : BitVec 4) : State → Out := vector1 4 tagFlt 8 (fun t x => frsqrt (tagFmt t) x) t d (a, 1)

/-- VSORTKV: keys from vA, values from vA + 1, sorted stably by key (R205). -/
def execVsortkv (d a : BitVec 4) (b : BitVec 1) (t : BitVec 4) : State → Out :=
  issue 4 do
    let T ← laneType tagNum t [(a, 1)]
    let w := tagWidth T
    let a1 := BitVec.ofNat 4 (a.toNat + 1)
    let V := ((← getC).tagV a1).toNat
    if V = 0 ∨ tagWidth V ≠ w then raiseTag V a1.toNat 1
    let ks ← readV a
    let vs ← readV a1
    let less (x y : Nat) : Bool := if b = 0 then keyLess T x y else keyLess T y x
    let ps := sortPairs less ((regLanes w ks).zip (regLanes w vs))
    writeV d (lanesReg w (ps.map Prod.fst)) (BitVec.ofNat 5 T) 12
    writeV (BitVec.ofNat 4 (d.toNat + 1)) (lanesReg w (ps.map Prod.snd)) (BitVec.ofNat 5 V) 13

end Sys2Proof.Machine
end

