-- ==== Sys2Proof/Machine/VectorMove.lean ====
section
/-! DEFINITION. Vector selection, movement, rearrangement, lookup, gather and scatter (R193, R199-R203) and mask instructions
(R206). -/

namespace Sys2Proof.Machine

/-- The mask bit that governs lane j of width w (R71). -/
def maskBit (m : Word) (w j : Nat) : Bool := m.getLsbD (w * j / 8)

/-! ## MAJ 0x2B (R193) -/

/-- VSEL. -/
def execVsel (d a : BitVec 4) (b : BitVec 3) (t : BitVec 4) : State → Out :=
  issue 4 do
    let T ← laneType tagAny t [(a, 1), (d, 0)]
    let x ← readV a
    let m ← readM b
    let z ← readV d
    let w := tagWidth T
    writeV d (lanesReg w (List.zipWith (fun j (p : Nat × Nat) => if maskBit m w j then p.1 else p.2)
      (List.range (512 / w)) ((regLanes w x).zip (regLanes w z)))) (BitVec.ofNat 5 T) 2

/-- VMOV: a bit copy with its tag; a type code sets the tag on BITS or a tag of its width, and BITS on any but EMPTY (R193,
R84). -/
def move (len : Nat) (t : BitVec 4) (d a : BitVec 4) : State → Out :=
  issue len do
    let S := ((← getC).tagV a).toNat
    let T := codeTag t
    if t ≠ 0 then
      if S = 0 ∨ (T ≠ 1 ∧ S ≠ 1 ∧ tagWidth S ≠ tagWidth T) then raiseTag S a.toNat 1
    let x ← readV a
    writeV d x (BitVec.ofNat 5 (if t = 0 then S else T)) 2

/-- VMOV. -/
def execVmov (d a t : BitVec 4) : State → Out := move 4 t d a

/-- VBCAST. -/
def execVbcast (d : BitVec 4) (a : BitVec 5) (t : BitVec 4) : State → Out :=
  issue 4 do
    let x ← readG a
    let T := codeTag t
    let w := tagWidth T
    writeV d (lanesReg w (List.replicate (512 / w) x.toNat)) (BitVec.ofNat 5 T) 2

/-- VINS. -/
def execVins (d : BitVec 4) (a b : BitVec 5) (t : BitVec 4) : State → Out :=
  issue 4 do
    let T ← laneType tagData t [(d, 0)]
    let x ← readG a
    let k ← readG b
    let z ← readV d
    let w := tagWidth T
    writeV d (lanesReg w ((regLanes w z).set (k.toNat % (512 / w)) x.toNat)) (BitVec.ofNat 5 T) 2

/-- VEXT. -/
def execVext (d : BitVec 5) (a : BitVec 4) (b : BitVec 5) (t : BitVec 4) : State → Out :=
  issue 4 do
    let T ← laneType tagData t [(a, 1)]
    let x ← readV a
    let k ← readG b
    let w := tagWidth T
    writeG d (laneToG T ((regLanes w x).getD (k.toNat % (512 / w)) 0)) 3

/-! ## MAJ 0x2E (R199-R203) -/

/-- VPERM (R199). -/
def execVperm (d a b t : BitVec 4) : State → Out :=
  issue 4 do
    let T ← laneType tagData t [(a, 1)]
    let w := tagWidth T
    needTag (unsignedTag w) (b, 2)
    let x ← readV a
    let y ← readV b
    writeV d (lanesReg w ((regLanes w y).map (fun i => (regLanes w x).getD (i % (512 / w)) 0))) (BitVec.ofNat 5 T) 3

/-- VCOMPRESS: the lanes whose mask bit is set, packed downward. -/
def compress (m : Word) (w : Nat) (xs : List Nat) : List Nat :=
  ((List.range xs.length).zip xs).filterMap (fun e => if maskBit m w e.1 then some e.2 else none)

/-- VEXPAND: lanes from j on take the next elements where their mask bit is set. -/
def expand (m : Word) (w : Nat) (xs : List Nat) : Nat → Nat → Nat → List Nat
  | 0, _, _ => []
  | n + 1, j, i =>
    if maskBit m w j then xs.getD i 0 :: expand m w xs n (j + 1) (i + 1) else 0 :: expand m w xs n (j + 1) i

/-- VCOMPRESS (R200). -/
def execVcompress (d a : BitVec 4) (b : BitVec 3) (t : BitVec 4) : State → Out :=
  issue 4 do
    let T ← laneType tagData t [(a, 1)]
    let x ← readV a
    let m ← readM b
    let w := tagWidth T
    writeV d (lanesReg w (compress m w (regLanes w x))) (BitVec.ofNat 5 T) 3

/-- VEXPAND (R200). -/
def execVexpand (d a : BitVec 4) (b : BitVec 3) (t : BitVec 4) : State → Out :=
  issue 4 do
    let T ← laneType tagData t [(a, 1)]
    let x ← readV a
    let m ← readM b
    let w := tagWidth T
    writeV d (lanesReg w (expand m w (regLanes w x) (512 / w) 0 0)) (BitVec.ofNat 5 T) 3

/-- A check made for every lane in ascending order. -/
def checkEach (ok : Nat → Bool) (cause : Nat) : List Nat → M Unit
  | [] => pure ()
  | v :: r => do
    check (ok v) cause (BitVec.ofNat 64 v)
    checkEach ok cause r

/-- Row 4 of R202, lane by lane: each element passes rows 7 and 8 of R152 and leaves its marks. -/
def admitLanes (k : AccKind) : List Seg → M (List Seg)
  | [] => pure []
  | g :: r => do
    raceRow .own [g] k
    poisonRow [g] k
    leaveMarks .own [g] k
    let rest ← admitLanes k r
    pure (g :: rest)

/-- The checks of R202 for elements of n bytes; answers their pieces. -/
def admitElements (base n : Nat) (addrs : List Nat) (k : AccKind) : M (List Seg) := do
  let c ← getC
  check (base % n == 0) 3 (BitVec.ofNat 64 base)
  checkEach (fun v => decide (v + n ≤ 0x20000)) 4 addrs
  checkEach (fun v => c.noArea v n) 6 addrs
  admitLanes k (addrs.map (fun v => Seg.mk (localPlace c.pos v) (localPlace c.pos v) n v))

/-- Insert a gather by its time. -/
def insertGather (g : Gather) : List Gather → List Gather
  | [] => [g]
  | x :: r => if x.due ≤ g.due then x :: insertGather g r else g :: x :: r

/-- Element addresses b + aⱼ·(w/8) (R201). -/
def elementAddrs (w b : Nat) (is : List Nat) : List Nat := is.map (fun i => (b + i * (w / 8)) % 2 ^ 64)

/-- The results under way at a register's write stream that land at a time. -/
def Core.landingAt (c : Core) (d : BitVec 4) (lands : Nat) : Nat :=
  ((c.vstream d).map (fun t => (t.landing.filter (fun e => e.1 == lands)).length)).getD 0

/-- VGATHER: the strip lands six cycles on. In timed code its elements are read as by loads issued three cycles on (R201, R202, R326),
in free code they are loads in program order (R333; log 15). -/
def execVgather (d a : BitVec 4) (b : BitVec 5) (t : BitVec 4) : State → Out :=
  issue 4 do
    let T := codeTag t
    let w := tagWidth T
    needTag (unsignedTag w) (a, 1)
    let x ← readV a
    let base ← readG b
    let segs ← admitElements base.toNat (w / 8) (elementAddrs w base.toNat (regLanes w x)) .load
    let s ← get
    let p := s.period s.core.pos
    let slot := if (s.core.vstream d).isSome then some (s.now + 6 * p, s.core.landingAt d (s.now + 6 * p)) else none
    let g : Gather := ⟨s.now + 3 * p, s.core.pos, d, w, segs.map Seg.place, slot⟩
    writeV d (s.gathered g) (BitVec.ofNat 5 T) 6
    if s.core.timed then modify (fun s => { s with gathers := insertGather g s.gathers })

/-- The elements of a scatter are stored, the highest lane last: at once, or, in timed code, visible at a time. -/
def State.scatter (s : State) (timed : Bool) (w at_ : Nat) : List (Seg × Nat) → State
  | [] => s
  | e :: r =>
    (if timed then { s with later := insertLater ⟨at_, s.core.pos, e.1.place, leBytes (w / 8) e.2, []⟩ s.later }
     else s.storeBy true e.1.place (leBytes (w / 8) e.2)).scatter timed w at_ r

/-- VSCATTER: in timed code the stores count as issued three cycles on, for R33; in free code they are stores in program order
(R201, R202, R333; log 31). -/
def execVscatter (d a : BitVec 4) (b : BitVec 5) (t : BitVec 4) : State → Out :=
  issue 4 do
    let T ← laneType tagData t [(d, 0)]
    let w := tagWidth T
    needTag (unsignedTag w) (a, 1)
    let x ← readV a
    let base ← readG b
    let z ← readV d
    let segs ← admitElements base.toNat (w / 8) (elementAddrs w base.toNat (regLanes w x)) .store
    modify (fun s => s.scatter s.core.timed w (s.now + 4 * s.period s.core.pos) (segs.zip (regLanes w z)))

/-- A lookup of n entries in a table of 2^W registers (R203). -/
def lookup (n : Nat) (ok : Nat → Bool) (wf : Nat) (t : BitVec 4) (d a b : BitVec 4) : State → Out :=
  issue 4 do
    let T ← laneType tagTable t ((List.range (2 ^ wf)).map (fun i => (BitVec.ofNat 4 (b.toNat + i), 2)))
    let w := tagWidth T
    if !ok w then raiseTag T b.toNat 2
    needTag (unsignedTag w) (a, 1)
    let x ← readV a
    let tab ← readGroup (2 ^ wf) b.toNat
    writeV d (lanesReg w ((regLanes w x).map (fun i => tab / 2 ^ (w * (i % n)) % 2 ^ w))) (BitVec.ofNat 5 T) 3

/-- VLUT.16 (R203). -/
def execVlut16 (d a b t : BitVec 4) : State → Out := lookup 16 (fun _ => true) 0 t d a b

/-- VLUT.256 (R203). -/
def execVlut256 (d a b : BitVec 4) (w : BitVec 2) (t : BitVec 4) : State → Out :=
  lookup 256 (fun k => (k == 8 && w == 2) || (k == 16 && w == 3)) w.toNat t d a b

/-! ## MAJ 0x30: masks (R206) -/

/-- mD from two masks. -/
def mask2 (f : Word → Word → Word) (d a b : BitVec 3) : State → Out :=
  issue 4 do
    let x ← readM a
    let y ← readM b
    writeM d (f x y) 1

/-- MAND (R206). -/
def execMand (d a b : BitVec 3) : State → Out := mask2 (fun x y => x &&& y) d a b

/-- MOR (R206). -/
def execMor (d a b : BitVec 3) : State → Out := mask2 (fun x y => x ||| y) d a b

/-- MXOR (R206). -/
def execMxor (d a b : BitVec 3) : State → Out := mask2 (fun x y => x ^^^ y) d a b

/-- MNOT (R206). -/
def execMnot (d a : BitVec 3) : State → Out :=
  issue 4 do
    let x ← readM a
    writeM d (~~~x) 1

/-- The lanes of a mask under a width code that count (R206). -/
def countedLanes (m : Word) (code : Nat) : List Nat := (List.range (64 / 2 ^ code)).filter (fun j => m.getLsbD (j * 2 ^ code))

/-- MPOP (R206). -/
def execMpop (d : BitVec 5) (a : BitVec 3) (b : BitVec 2) : State → Out :=
  issue 4 do
    let x ← readM a
    writeG d (BitVec.ofNat 64 (countedLanes x b.toNat).length) 2

/-- MFIRST (R206). -/
def execMfirst (d : BitVec 5) (a : BitVec 3) (b : BitVec 2) : State → Out :=
  issue 4 do
    let x ← readM a
    writeG d (BitVec.ofNat 64 ((countedLanes x b.toNat).headD (64 / 2 ^ b.toNat))) 2

end Sys2Proof.Machine
end

