-- ==== Sys2Proof/Machine/Compact.lean ====
section
/-! DEFINITION. The 16-bit two-address lane operations of CLS 0 (R57): the vector instructions with W = 00 and the type of the
tags. The word's D names operand 0 and its A operand 1; v15 of VMACC.C is implicit (R83; log 17). -/

namespace Sys2Proof.Machine

/-- VMOV.C (R57). -/
def execVmovC (d a : BitVec 4) : State → Out := move 2 0 d a

/-- VADD.C (R57). -/
def execVaddC (d a : BitVec 4) : State → Out := vector2 2 tagNum 2 (lane2 (fun x y => x + y) fadd) 0 d (d, 0) (a, 1)

/-- VSUB.C (R57). -/
def execVsubC (d a : BitVec 4) : State → Out := vector2 2 tagNum 2 (lane2 (fun x y => x - y) fsub) 0 d (d, 0) (a, 1)

/-- VMUL.C (R57). -/
def execVmulC (d a : BitVec 4) : State → Out := vector2 2 tagNum 4 (lane2 (fun x y => x * y) fmul) 0 d (d, 0) (a, 1)

/-- VMIN.C (R57). -/
def execVminC (d a : BitVec 4) : State → Out := vector2 2 tagNum 2 (laneMinMax false) 0 d (d, 0) (a, 1)

/-- VMAX.C (R57). -/
def execVmaxC (d a : BitVec 4) : State → Out := vector2 2 tagNum 2 (laneMinMax true) 0 d (d, 0) (a, 1)

/-- VAND.C (R57). -/
def execVandC (d a : BitVec 4) : State → Out := vector2 2 tagIntBits 2 (laneBits (fun _ x y => x &&& y)) 0 d (d, 0) (a, 1)

/-- VOR.C (R57). -/
def execVorC (d a : BitVec 4) : State → Out := vector2 2 tagIntBits 2 (laneBits (fun _ x y => x ||| y)) 0 d (d, 0) (a, 1)

/-- VXOR.C (R57). -/
def execVxorC (d a : BitVec 4) : State → Out := vector2 2 tagIntBits 2 (laneBits (fun _ x y => x ^^^ y)) 0 d (d, 0) (a, 1)

/-- VSHL.C (R57). -/
def execVshlC (d a : BitVec 4) : State → Out := vector2 2 tagInt 2 (laneBits (fun w x y => x * 2 ^ (y % w))) 0 d (d, 0) (a, 1)

/-- VSHR.C (R57). -/
def execVshrC (d a : BitVec 4) : State → Out := vector2 2 tagInt 2 (laneBits (fun w x y => x / 2 ^ (y % w))) 0 d (d, 0) (a, 1)

/-- VNEG.C (R57). -/
def execVnegC (d a : BitVec 4) : State → Out := vector1 2 tagSigned 2 laneNeg 0 d (a, 1)

/-- VABS.C (R57). -/
def execVabsC (d a : BitVec 4) : State → Out := vector1 2 tagSigned 2 laneAbs 0 d (a, 1)

/-- VRELU.C (R57). -/
def execVreluC (d a : BitVec 4) : State → Out := vector1 2 tagSigned 2 laneRelu 0 d (a, 1)

/-- VAVG.C (R57). -/
def execVavgC (d a : BitVec 4) : State → Out := vector2 2 tagInt 2 laneAvg 0 d (d, 0) (a, 1)

/-- VMACC.C (R57, R189). -/
def execVmaccC (d a : BitVec 4) : State → Out := macc 2 0 0 d a (15, 4)

end Sys2Proof.Machine
end

