-- ==== Sys2Proof/Machine/EngineAccess.lean ====
section
/-! DEFINITION. Accesses made by engines for a core: the checks that a span of theirs passes (R152, R281, R335), the bytes they
read and write, and the marks they leave (R334-R337). -/

namespace Sys2Proof.Machine

/-- Why an engine access is not performed. -/
inductive Denied where
  /-- it waits (R335), or for a frame to promote a page into -/
  | wait
  /-- its request to a page behind a link is left unanswered (R422) -/
  | silent (link page : Nat) (write : Bool)
  /-- a page would have to be promoted, and a block of it arrives with a guard tag that does not fit (R324) -/
  | torn (block : Nat) (xval : Word)
  /-- it fails: cause, XVAL and the faulting stage -/
  | fail (cause : Nat) (xval : Word) (stage : RegionId)
  deriving DecidableEq, Repr

/-- Run a body as an engine of core pos acts: with that core's view of addresses, in free code. Answers the state with the
turn as before. -/
def State.asEngine (s : State) (pos : Nat) (body : M α) : Except Denied (α × State) :=
  let t := s.turn pos
  let timed := t.core.timed
  let u := { t with core := { t.core with timed := false } }
  match body u with
  | .ok x v => .ok (x, ({ v with core := { v.core with timed := timed } }).turn s.core.pos)
  | .error (.trap c x q) _ => .error (.fail c x q)
  | .error (.trapHere c x q) _ => .error (.fail c x q)
  | .error (.lostPage _ x) _ => .error (.fail 18 x 0)
  | .error (.integrity b x) _ => .error (.torn b x)
  | .error (.silent l p w) _ => .error (.silent l p w)
  | .error _ _ => .error .wait

/-- Whether the marks of core regions hold up an engine access of core x to a line (R335). -/
def State.heldUp (s : State) (x line : Nat) (write : Bool) : Bool :=
  s.marks.any (fun m => m.line == line && m.wcore != x && m.activeFor s x) ||
  (write && (decide (0 < s.rcnt line x) || decide (0 < s.acnt line x)))

/-- Rows 1 to 6 of R152 for n bytes at v with alignment al; behind an isolated expander the access fails (R422). The request passes the
unit that serves it (R354); its place there ends with it. -/
def engineRows (v n al : Nat) (k : AccKind) : M (Win × List Seg) := do
  let win ← checkSpan 0 v n al k
  let segs ← segments win v n k
  check (!segs.any (← get).cutOff) 12 (BitVec.ofNat 64 v)
  let s ← get
  match segs.head?.bind (fun g => s.unitFor win ((g.home - 2 ^ 36) / 65536)) with
  | some u => passUnit u n s.now
  | none => pure ()
  pure (win, segs)

/-- An engine access of core pos to n bytes at v with alignment al, and the wait of R335. -/
def State.engineSpan (s : State) (pos v n al : Nat) (write : Bool) : Except Denied ((Win × List Seg) × State) :=
  match s.asEngine pos (engineRows v n al (if write then .store else .load)) with
  | .error e => .error e
  | .ok (r, t) =>
    if (r.2.flatMap Seg.lines).any (fun l => s.heldUp pos l.1 write) then .error .wait else .ok (r, t)

/-- Whether a store of core pos that is still to become visible meets some pieces: an engine access of the core comes after it
(R334). -/
def State.awaitsStore (s : State) (pos : Nat) (segs : List Seg) : Bool :=
  s.later.any (fun e => e.core == pos && segs.any (fun g =>
    decide (e.place < g.place + g.len) && decide (g.place < e.place + e.bytes.length)))

/-- The address of the first poisoned granule of some pieces. -/
def State.poisonIn (s : State) (segs : List Seg) : Option Nat :=
  ((segs.flatMap Seg.granules).find? (fun e => s.poisoned e.1)).map Prod.snd

/-- The first block of pieces with a guard tag that does not fit (R324): its address, and the machine once that is reported. -/
def State.tagFails (s : State) (segs : List Seg) : Option (Nat × State) :=
  (segs.findSome? s.badBlock).map (fun e => (e.2, s.untear e.1))

/-- The address of a piece of local memory or of a scratchpad in the cluster window (R150). -/
def Seg.window (g : Seg) : Nat :=
  if g.home < 2 ^ 34 then clusterAddr g.home
  else
    let grp := (g.home - 2 ^ 34) / 2 ^ 22
    0x44000000 + clusterGroupIndex (groupCore grp 0) * 0x400000 + (g.home - 2 ^ 34) % 2 ^ 22

/-- The block of bytes that arrive from elsewhere to be written into pieces, of which the guard tag does not fit (R324): its number
and address. -/
def State.tornWrite (s : State) (bs : List Byte) : List Seg → Option (Nat × Nat)
  | [] => none
  | e :: r => s.tornBlock e e.window (bs.take e.len) <|> s.tornWrite (bs.drop e.len) r

/-- Why the data of pieces that an engine has read may not be used: cause, address, and the machine then. A guard tag that does not
fit counts as reported (R324). -/
def State.engineBad (s : State) (segs : List Seg) : Option (Nat × Nat × State) :=
  match segs.findSome? s.badGranule with
  | some (.integrity b _, a) => some (13, a, s.untear b)
  | some (_, a) => some (12, a, s)
  | none => none

/-- The bytes of pieces. A mailbox window gives the core's own counters. -/
def State.engineBytes (s : State) (pos : Nat) (win : Win) (v n : Nat) (segs : List Seg) : List Byte :=
  match win with
  | .mailbox => leBytes n ((s.coreAt pos).counters.toList.getD (v % 0x100 / 4) 0).toNat
  | _ => segs.flatMap (fun e => s.getBytes e.place e.len)

/-- Whether a piece meets an active workspace (R79). -/
def State.fenced (s : State) (e : Seg) : Bool :=
  decide (e.place < 2 ^ 34) && (s.coreAt (e.place / 2 ^ 17)).inWorkspace (e.place % 2 ^ 17) e.len

/-- Write bytes into pieces. -/
def State.engineStore (s : State) (bs : List Byte) : List Seg → State
  | [] => s
  | e :: r => (s.store e.place (bs.take e.len)).engineStore (bs.drop e.len) r

/-- The marks of some pieces, joined to a list of marks (R337). -/
def joinMarks (segs : List Seg) (write : Bool) (ms : List (Nat × Bool)) : List (Nat × Bool) :=
  ((segs.flatMap Seg.lines).map (fun l => (l.1, write))).foldl (fun a m => if a.contains m then a else m :: a) ms

end Sys2Proof.Machine
end

