-- ==== Sys2Proof/Machine/Cube.lean ====
section
/-! DEFINITION. Governor commands at issue: capture, the checks of R223, the queue (R210, R211), tile locks, TROW and TFENCE
(R209-R239). What the governor then does stands in Machine/CubeEvents.lean. -/

namespace Sys2Proof.Machine

/-! ## Operands (R54, R212-R217) -/

/-- An operand of a governor command. -/
inductive Plane where
  | tile (i : Nat)
  | pair (k : Nat) (base lay : Word)
  | one
  deriving DecidableEq, Repr

/-- The operand of a selector (R54). -/
def planeOf (sel : Nat) (base lay : Word) : Plane :=
  if sel < 8 then .tile sel else if sel = 16 then .one else .pair (sel % 16) base lay

/-- The operands of a product: position 0 A, 1 B, 2 B2, 3 C, with the operand code of a TAG trap. -/
def CubeCmd.planes (c : CubeCmd) : List (Nat × Nat × Plane) :=
  [(0, 1, planeOf c.asel c.abase c.alay), (1, 2, planeOf c.bsel c.bbase c.blay)] ++
  (if c.fn = 2 then [(2, 2, planeOf (c.bsel + 1) c.b2base c.b2lay)] else []) ++
  [(3, 3, planeOf c.csel c.cbase c.clay)]

/-- MODE of a captured FT word (R220). -/
def CubeCmd.mode (c : CubeCmd) : Nat := c.word.toNat / 2 ^ 25 % 8

/-- The tag of an operand, given the captured tags of tiles (R217). -/
def CubeCmd.tagAt (c : CubeCmd) (i : Nat) : Plane → Nat
  | .tile _ => c.tags.getD i 0
  | .pair _ _ lay => layTag lay
  | .one => 0

/-- The kind of a tag: integer or float (R217). -/
def cubeKind (t : Nat) : Option Bool :=
  if t = 4 then some true else if t = 12 ∨ t = 13 ∨ (16 ≤ t ∧ t ≤ 19) then some false else none

/-- The kind of a product command: integer or not, by operand A. -/
def CubeCmd.isInt (c : CubeCmd) : Bool := cubeKind (c.tagAt 0 (planeOf c.asel c.abase c.alay)) == some true

/-- The layout word of the first scratchpad operand. -/
def CubeCmd.shapeWord (c : CubeCmd) : Option Word :=
  c.planes.findSome? (fun p => match p.2.2 with | .pair _ _ lay => some lay | _ => none)

/-- K (R216). -/
def CubeCmd.kLen (c : CubeCmd) : Nat :=
  match c.shapeWord with
  | some lay => 16 * layKS lay
  | none => 512 / tagWidth (c.tags.getD 0 0)

/-- L (R216). -/
def CubeCmd.lLen (c : CubeCmd) : Nat :=
  match c.shapeWord with
  | some lay => 2 ^ (layLC lay + 1)
  | none => 16

/-- N of TMULS (R214, R224). -/
def CubeCmd.nLen (c : CubeCmd) : Nat := 8 * 2 ^ layLC c.alay

/-- Elements per row of the view of operand i (R212, R224). -/
def CubeCmd.rowLen (c : CubeCmd) (i : Nat) : Nat :=
  if i = 0 then (if c.fn = 1 then c.kLen * c.nLen / 64 else c.kLen)
  else if c.mode = 4 then (if i = 3 then c.lLen else c.kLen / c.lLen)
  else c.kLen

/-- Rows of the view: row 0 only for the C of DG. -/
def CubeCmd.viewRows (c : CubeCmd) (i : Nat) : List Nat := if i = 3 ∧ c.mode = 1 then [0] else List.range 16

/-! ## The own group's scratchpad -/

/-- Whether n bytes at a lie in the own group's scratchpad window. -/
def inOwnSpad (pos a n : Nat) : Bool := decide (spadBase pos ≤ a) && decide (a + n ≤ spadBase pos + 0x400000)

/-- The line that an address of the own scratchpad counts under. -/
def spadLine (pos a : Nat) : Nat := spadPlace (groupOf pos) (a - spadBase pos) / 64

/-- Chunks of a scratchpad operand: address and length, by row, then chunk. -/
def planeChunks (base lay : Word) (rows : List Nat) (bytes : Nat) : List (Nat × Nat) :=
  rows.flatMap (fun r => (List.range ((bytes + 63) / 64)).map (fun q => (chunkAddr base lay r q, min 64 (bytes - 64 * q))))

/-- The chunks that a command reads or writes in the scratchpad, operand by operand. -/
def CubeCmd.chunks (c : CubeCmd) : List (Nat × Nat) :=
  if c.maj = 0x34 then
    c.planes.flatMap (fun p => match p.2.2 with
      | .pair _ base lay => planeChunks base lay (c.viewRows p.1) ((c.rowLen p.1 * tagWidth (layTag lay) + 7) / 8)
      | _ => [])
  else if c.fn = 3 then (if c.asel < 8 then [] else [(c.abase.toNat, 32)])
  else if c.fn = 1 ∨ c.fn = 2 then planeChunks c.abase c.alay (List.range 16) 64
  else []

/-- The lines of the engine region of a command, and whether it writes (R240). -/
def CubeCmd.lines (c : CubeCmd) : List (Nat × Bool) :=
  let wr := c.maj == 0x35 && c.fn == 2
  (c.chunks.flatMap (fun e => (List.range ((e.1 % 64 + e.2 + 63) / 64)).map (fun i => (spadLine c.core (e.1 + 64 * i), wr)))).foldl
    (fun a m => if a.contains m then a else m :: a) []

/-! ## Checks (R223, R234, R235) -/

/-- A check in order: the trap of the first that fails. -/
abbrev Checked := Except (Nat × Word) Unit

/-- A trap unless a condition holds. -/
def need (ok : Bool) (cause : Nat) (xval : Word) : Checked := if ok then .ok () else .error (cause, xval)

/-- Every one of several checks, in order. -/
def needAll : List Checked → Checked
  | [] => .ok ()
  | x :: r => match x with
    | .ok _ => needAll r
    | e => e

/-- Rows 6 to 8 of R223 for the scratchpad operands of a command, given their chunks. -/
def State.spadChecks (s : State) (pos : Nat) (bases : List Word) (chunks : List (Nat × Nat)) : Checked :=
  needAll (bases.map (fun b => need (b.toNat % 16 == 0) 3 b) ++
    chunks.map (fun e => need (inOwnSpad pos e.1 e.2) 4 (BitVec.ofNat 64 e.1)) ++
    (bases.take 1).map (fun b => need (s.assigned (groupOf pos) == s.owner pos) 6 b))

/-- Validity of a layout word (R223 row 3). -/
def layOk (c : CubeCmd) (lay : Word) : Bool :=
  lay.toNat / 2 ^ 46 == 0 && lay.toNat / 2 ^ 29 % 8 == 0 && decide (layRot lay ≤ 1) && decide (1 ≤ layKS lay) &&
  (if c.mode = 4 then true else if c.fn = 1 then decide (layLC lay ≤ 2) else layLC lay == 0)

/-- Whether a command is well shaped (R216). -/
def CubeCmd.shaped (c : CubeCmd) : Bool :=
  let k := c.kLen
  let c4 := c.planes.any (fun p => 16 ≤ c.tagAt p.1 p.2.2 ∧ c.tagAt p.1 p.2.2 ≤ 19)
  k % 16 == 0 && (!c4 || k % 32 == 0) && (!(c.fn == 1 || c.fn == 3) || k % 128 == 0) &&
  (c.mode != 4 || k % c.lLen == 0) &&
  c.planes.all (fun p => match p.2.2 with
    | .pair _ _ lay => 16 * layKS lay == k && (2 ^ (layLC lay + 1) == c.lLen)
    | .tile _ => decide (c.rowLen p.1 * tagWidth (c.tagAt p.1 p.2.2) ≤ 512)
    | .one => true)

/-- The checks of a product command (R223); `part` leaves out row 1 (R227). The core's tags are those of now. -/
def State.productChecks (s : State) (c : CubeCmd) : Checked :=
  let core := s.coreAt c.core
  let w : Word := c.word.zeroExtend 64
  let kind := cubeKind (c.tagAt 0 (planeOf c.asel c.abase c.alay))
  let td := (core.ttag.toList.getD c.td 0).toNat
  let fits (i t : Nat) : Bool := if kind.isNone then i != 0 else cubeKind t == kind
  let pairs := c.planes.filterMap (fun p => match p.2.2 with | .pair k b l => some (p.1, p.2.1, k, b, l) | _ => none)
  needAll (
    [need (c.fn == 3 || kind.isNone || td == 0 || td == (if kind == some true then 20 else 21)) 2 (tagXval td c.td 0)] ++
    c.planes.filterMap (fun p => match p.2.2 with
      | .tile i => let t := c.tagAt p.1 p.2.2; some (need (fits p.1 t) 2 (tagXval t i p.2.1))
      | _ => none) ++
    pairs.map (fun p => need (layOk c p.2.2.2.2) 1 w) ++
    [need (c.fn != 1 || (match core.gstream 31 with | some t => !t.isWrite && t.size == 1 | none => false)) 1 w] ++
    pairs.map (fun p => let t := layTag p.2.2.2.2; need (fits p.1 t) 2 (tagXval t (2 * p.2.2.1 + 1) p.2.1)) ++
    [need c.shaped 1 w]) |>.bind (fun _ =>
    s.spadChecks c.core (pairs.map (fun p => p.2.2.2.1)) c.chunks)

/-- The checks of TZERO, TLD, TST and TCODE (R234, R235). -/
def State.houseChecks (s : State) (c : CubeCmd) : Checked :=
  let k := c.asel % 16
  match c.fn with
  | 1 =>
    let t := layTag c.alay
    needAll [need (tagAssigned t && t != 22) 2 (tagXval t (2 * k + 1) 1), s.spadChecks c.core [c.abase] c.chunks]
  | 2 => s.spadChecks c.core [c.abase] c.chunks
  | 3 =>
    if c.asel < 8 then .ok ()
    else needAll [need (c.abase.toNat % 32 == 0) 3 c.abase, need (inOwnSpad c.core c.abase.toNat 32) 4 c.abase,
      need (s.assigned (groupOf c.core) == s.owner c.core) 6 c.abase]
  | _ => .ok ()

/-- The checks of a governor command other than LPROD. -/
def State.cubeChecks (s : State) (c : CubeCmd) : Checked := if c.maj = 0x34 then s.productChecks c else s.houseChecks c

/-! ## Capture and queue (R210, R211) -/

/-- A command with nothing captured. -/
def CubeCmd.blank (id pos : Nat) (word : Nat) (crb : BitVec 5) : CubeCmd where
  id := id
  core := pos
  word := BitVec.ofNat 32 word
  crbv := crb
  abase := 0
  alay := 0
  bbase := 0
  blay := 0
  cbase := 0
  clay := 0
  b2base := 0
  b2lay := 0
  emptyD := false
  tags := []
  total := 0
  undef := []
  step := 0
  acc := []
  block := []
  started := false
  begun := false
  isFollow := false
  held := false
  reloaded := false
  due := 0
  metaPos := 0
  codes := []
  dense := []
  fl := 0
  blockFl := 0
  rowFl := []
  rings := []
  stepAt := 0
  bankLoad := []
  priorAt := 0
  priorLoad := []
  bar := 0
  fam := []
  batch := 0
  marks := []

/-- The pair of a selector, read by holding value (R211); zero for a tile and for ONE. -/
def capturePair (sel : Nat) : M (Word × Word) := do
  if sel ≤ 16 then pure (0, 0)
  else
    let x ← peekG (BitVec.ofNat 5 (2 * (sel % 16)))
    let y ← peekG (BitVec.ofNat 5 (2 * (sel % 16) + 1))
    pure (x, y)

/-- Capture the scalar operands of a governor word (R211). -/
def captureCube (word : Nat) : M CubeCmd := do
  let s ← get
  let c := CubeCmd.blank s.nextId s.core.pos word s.core.crb
  if c.maj = 0x34 then
    let a ← capturePair c.asel
    let b ← capturePair c.bsel
    let b2 ← if c.fn = 2 then capturePair (c.bsel + 1) else pure (0, 0)
    let d ← capturePair c.csel
    pure { c with abase := a.1, alay := a.2, bbase := b.1, blay := b.2, b2base := b2.1, b2lay := b2.2, cbase := d.1, clay := d.2 }
  else if 1 ≤ c.fn then
    let a ← capturePair c.asel
    pure { c with abase := a.1, alay := if c.fn = 3 then 0 else a.2 }
  else pure c

/-- A command with the tags of its tile operands and its number of slices as they stand (R216, R217). -/
def CubeCmd.withTags (c : CubeCmd) (core : Core) : CubeCmd :=
  let tag (sel : Nat) : Nat := if sel < 8 then (core.ttag.toList.getD sel 0).toNat else 0
  let d := { c with tags := [tag c.asel, tag c.bsel, tag (c.bsel + 1), tag c.csel] }
  if c.isLprod then { c with total := layKS c.alay }
  else { d with total := if c.maj = 0x34 then d.kLen / 16 else 1 }

/-- Whether a command writes its tiles when it completes (R211, R222, R233, R234). -/
def CubeCmd.writesTiles (c : CubeCmd) : Bool := c.isLprod || (c.isProduct && c.fn != 3) || (c.maj == 0x35 && decide (c.fn ≤ 1))

/-- The tiles of a core that a command issued now would find inside their landing windows, none of its earlier commands writing
them, with a free value for each (R87). -/
def State.undefTiles (s : State) (pos : Nat) : List (Nat × Nat) :=
  (List.range 8).filterMap (fun i =>
    if (s.coreAt pos).windowOpen s.now (.t (BitVec.ofNat 3 i)) &&
        (s.cubeCmds pos).all (fun e => !(e.writesTiles && e.tiles.any (fun d => d.toNat == i))) then some (i, s.free + i)
    else none)

/-- A command as it enters the queue: its accumulator counted as EMPTY by the tag of now (R222), its marks (R240). -/
def CubeCmd.entering (c : CubeCmd) (core : Core) : CubeCmd :=
  { c with emptyD := c.maj == 0x34 && c.fn != 3 && core.ttag.toList.getD c.td 0 == 0, marks := c.lines }

/-- The tag that a command gives its tD in its issue cycle (R84, R222, R233, R234). -/
def CubeCmd.issueTag (c : CubeCmd) : Option Tag :=
  if c.maj = 0x34 then (if c.fn = 3 then none else some (if c.isInt then 20 else 21))
  else match c.fn with
    | 0 => some 0
    | 1 => some (if layTag c.alay = 0 then 1 else BitVec.ofNat 5 (layTag c.alay))
    | _ => none

/-- Whether a command of a group's queue waits behind a held one of its core (R244). -/
def Group.blocked (g : Group) (c : CubeCmd) : Bool :=
  !c.started && (g.queue.takeWhile (fun e => e.id != c.id)).any (fun e => e.core == c.core && e.held)

/-- Whether the governor has nothing to run at a time (R211). -/
def Group.idleAt (g : Group) (now period : Nat) : Bool :=
  (g.queue.filter (fun c => !c.held && !g.blocked c)).all (fun c => c.started && decide (c.total ≤ c.step) && decide (c.stepEnd period ≤ now))

/-- Put a command at the end of its group's queue. An idle governor starts it four cycles later (R211), and it reads undefined values
of tiles inside their landing windows (R87). -/
def State.queueUp (s : State) (c : CubeCmd) : State :=
  let p := s.period c.core
  let due := if (s.groupAt (groupOf c.core)).idleAt s.now p then s.now + 4 * p else s.now
  let undef := s.undefTiles c.core
  { s with free := if undef.isEmpty then s.free else s.free + 8 }.modGroup (groupOf c.core)
    (fun g => { g with queue := g.queue ++ [{ c with due := due, undef := undef }] })

/-- Put a command at the end of the group's queue, its tD tagged. -/
def State.enqueue (s : State) (c : CubeCmd) : State :=
  let t := s.queueUp (c.entering (s.coreAt c.core))
  match c.issueTag with
  | some tag => t.modCore c.core (fun k => { k with ttag := k.ttag.setIfInBounds c.td tag })
  | none => t

/-- Room in the queue and for the core (R210). -/
def queueRoom : M Unit := do
  let s ← get
  if 16 ≤ (s.groupAt (groupOf s.core.pos)).queue.length ∨ 7 ≤ s.lockers.length then throw (.stall 2) else pure ()

/-- Raise the trap of a failed check. -/
def orRaise : Checked → M Unit
  | .ok _ => pure ()
  | .error (c, x) => raise c x

/-- Issue a governor command (R210, R223). -/
def cubeCommand (word : Nat) : State → Out :=
  issue 4 do
    let c ← captureCube word
    let s ← get
    let c := c.withTags s.core
    orRaise (s.cubeChecks c)
    queueRoom
    modify (fun s => { s with nextId := s.nextId + 1 }.enqueue c)

/-- TMUL (R221, R222). -/
def execTmul (d : BitVec 3) (a b c : BitVec 5) (m : BitVec 3) : State → Out := cubeCommand (Instr.encode (.tmul d a b c m))

/-- TMULS (R221, R224). -/
def execTmuls (d : BitVec 3) (a b c : BitVec 5) (m : BitVec 3) : State → Out := cubeCommand (Instr.encode (.tmuls d a b c m))

/-- TMULX (R221, R222). -/
def execTmulx (d : BitVec 3) (a b c : BitVec 5) (m : BitVec 3) : State → Out := cubeCommand (Instr.encode (.tmulx d a b c m))

/-- TZERO (R233). -/
def execTzero (d : BitVec 3) : State → Out := cubeCommand (Instr.encode (.tzero d))

/-- TLD (R234). -/
def execTld (d : BitVec 3) (a : BitVec 4) : State → Out := cubeCommand (Instr.encode (.tld d a))

/-- TST (R234). -/
def execTst (d : BitVec 3) (a : BitVec 4) : State → Out := cubeCommand (Instr.encode (.tst d a))

/-- TCODE (R235). -/
def execTcode (a : BitVec 5) (s_ : BitVec 2) : State → Out := cubeCommand (Instr.encode (.tcode a s_))

/-- Make a tile the ring of the current core; an earlier result on its way to it is discarded (R89, R228). -/
def Core.bindRing (c : Core) (d : BitVec 3) : Core :=
  { c with t := c.t.set d.toNat 0 d.isLt, ttag := c.ttag.set d.toNat 22 d.isLt, ract := true, rtile := d, rfull := 0,
           windows := c.windows.filter (fun w => w.dest != .t d) }

/-- TPART (R227, R228): in a suit of 16 the leader's copy queues the command, and every copy binds its ring, once the core's
ring of an earlier TPART is bound no more: the ring word of R241 holds one. -/
def execTpart (d : BitVec 3) (a b c : BitVec 5) (m : BitVec 3) : State → Out :=
  issue 4 do
    let w := Instr.encode (.tpart d a b c m)
    let u := (← getC).suit
    check (u.act && u.size == 15) 1 (BitVec.ofNat 64 w)
    let cmd ← if u.spos = 0 then captureCube w else pure (CubeCmd.blank 0 0 w 0)
    let s ← get
    let cmd := cmd.withTags s.core
    if u.spos = 0 then orRaise (s.cubeChecks cmd)
    if s.writeLocked d || s.readLocked d || s.core.ract then throw (.stall 1)
    if u.spos = 0 then
      queueRoom
      modify (fun s => { s with nextId := s.nextId + 1 }.enqueue cmd)
    modC (fun c => c.bindRing d)

/-- TROW (R231). -/
def execTrow (d : BitVec 4) (a : BitVec 3) (b : BitVec 5) : State → Out :=
  issue 4 do
    let y ← readG b
    let c ← getC
    let tag := c.ttag[a.toNat]
    let r := y.toNat % 16
    if tag = 22 && !(c.rtile == a && c.rfull.getLsbD r) then throw (.stall 1)
    let row ← readRow a r
    if tag = 22 then modC (fun c => { c with rfull := c.rfull &&& ~~~((1 : BitVec 16) <<< r) })
    let vt : Tag :=
      if tag = 21 then 15 else if tag = 20 then 8 else if tag = 22 then (if y.getLsbD 8 then 8 else 15) else tag
    writeV d row vt 3

/-- Whether every governor command of a core has completed, follow-ons included (R236). -/
def State.cubeDone (s : State) (pos : Nat) : Bool :=
  (s.cubeCmds pos).isEmpty && s.cmds.all (fun e => e.core != pos || e.follow.isNone)

/-- TFENCE (R236): not synchronising, so that the core's region goes on (R327). -/
def execTfence : State → Out :=
  issueOwn do
    modC (fun c => { c with status := .waiting .tfence, dbg := false, popped := [] })
    modify (fun s => { s with core := { s.core with readyAt := s.now + s.period s.core.pos } })
    let s ← get
    if !s.core.suit.act && s.cubeDone s.core.pos then set s.endWait else pure ()

end Sys2Proof.Machine
end

