-- ==== Sys2Proof/Machine/LineageTable.lean ====
section
/-! DEFINITION. Lineage memory below its instructions: node records and handles (R247-R251), images (R252-R256), the pages of
the delta pool (R278), and the content of a node (R265-R268). -/

namespace Sys2Proof.Machine

/-! ## Records -/

/-- A node record (R249). Numbers as the record holds them; NFLAGS as its two bits. -/
structure Node where
  parent : Nat
  depth : Nat
  kind : Nat
  state : Nat
  tag : Nat
  rows : Nat
  cols : Nat
  daddr : Nat
  dsize : Nat
  children : Nat
  owner : Nat
  gen : Nat
  pending : Bool
  deferred : Bool
  ncount : Nat
  pages : Nat
  deriving DecidableEq, Repr

/-- A record from its 64 bytes. -/
def Node.ofBytes (b : List Byte) : Node where
  parent := slice b 0x00 4
  depth := slice b 0x04 1
  kind := slice b 0x05 1
  state := slice b 0x06 1
  tag := slice b 0x07 1
  rows := slice b 0x08 4
  cols := slice b 0x0C 4
  daddr := slice b 0x10 8
  dsize := slice b 0x18 8
  children := slice b 0x20 4
  owner := slice b 0x24 2
  gen := slice b 0x26 1
  pending := slice b 0x27 1 % 2 == 1
  deferred := slice b 0x27 1 / 2 % 2 == 1
  ncount := slice b 0x28 4
  pages := slice b 0x2C 4

/-- The 64 bytes of a record. -/
def Node.bytes (n : Node) : List Byte :=
  leBytes 4 n.parent ++ leBytes 1 n.depth ++ leBytes 1 n.kind ++ leBytes 1 n.state ++ leBytes 1 n.tag ++ leBytes 4 n.rows ++
  leBytes 4 n.cols ++ leBytes 8 n.daddr ++ leBytes 8 n.dsize ++ leBytes 4 n.children ++ leBytes 2 n.owner ++ leBytes 1 n.gen ++
  leBytes 1 (n.pending.toNat + 2 * n.deferred.toNat) ++ leBytes 4 n.ncount ++ leBytes 4 n.pages ++ zeros 16

/-- Elements of a node. -/
def Node.total (n : Node) : Nat := n.rows * n.cols
/-- Position groups G (R250). -/
def Node.groups (n : Node) : Nat := (n.total + 63) / 64
/-- Lane width of its elements. -/
def Node.width (n : Node) : Nat := tagWidth n.tag
/-- Index of its parent's record, 0 at depth 0. -/
def Node.parentIndex (n : Node) : Nat := n.parent / 256

/-- A tag that a node may have (R250). -/
def nodeTag (t : Nat) : Bool := (decide (4 ≤ t) && decide (t ≤ 9)) || (decide (12 ≤ t) && decide (t ≤ 19))
/-- A tag of which a RANK image may be (R255). -/
def rankTag (t : Nat) : Bool := decide (13 ≤ t) && decide (t ≤ 15)

/-! ## The table -/

/-- Why a lineage operation is not performed. -/
inductive LinErr where
  /-- LINEAGE with its reason, and the handle concerned (R259) -/
  | reason (r h : Nat)
  /-- a record or a pool page does not translate (R247) -/
  | page (f : XFault)
  /-- the owner's page budget is short: the pages asked for (R278) -/
  | budget (pages : Nat)
  /-- an image granule that must be read is poisoned: its address -/
  | poison (addr : Nat)
  /-- a block that must be read arrives with a guard tag that does not fit: its number and the granule's address (R324) -/
  | integrity (block addr : Nat)
  /-- the node is PENDING: the operation waits (R269) -/
  | pending
  deriving DecidableEq, Repr

/-- Lineage operations: one point of the table order each (R267). -/
abbrev L := EStateM LinErr State

/-- Fail with a reason. -/
def linFail (r h : Nat) : L α := throw (.reason r h)

/-- First bytes of the pages of a span, the span's own start first. -/
def spanPages (v n : Nat) : List Nat :=
  (List.range ((v % 65536 + n + 65535) / 65536)).map (fun i => max v ((v / 65536 + i) * 65536))

/-- Every page of a span of a table owner's space translates (R247). -/
def linReach (t : RegionId) (v n : Nat) : L Unit := do
  let s ← get
  match (spanPages v n).findSome? (fun a => match s.xlate 8 t a .load with | .error f => some f | .ok _ => none) with
  | some f => throw (.page f)
  | none => pure ()

/-- Bytes of a table owner's space. -/
def linRead (t : RegionId) (v n : Nat) : L (List Byte) := do
  linReach t v n
  return ((← get).peek t v n).getD []

/-- Bytes written into a table owner's space; the table and its images are mapped read-only, so that permissions do not
count. -/
def linWrite (t : RegionId) (v : Nat) (bs : List Byte) : L Unit := do
  linReach t v bs.length
  modify (fun s => (spanPages v bs.length).foldl (fun u a =>
    let here := (bs.drop (a - v)).take (65536 - a % 65536)
    match u.xlate 8 t a .load with
    | .ok x => u.writePage x.pa here
    | .error _ => u) s)

/-- Read a record. -/
def getNode (t : Region) (i : Nat) : L Node := return Node.ofBytes (← linRead t.id (t.lntBase + 64 * i) 64)

/-- Write a record. -/
def putNode (t : Region) (i : Nat) (n : Node) : L Unit := linWrite t.id (t.lntBase + 64 * i) n.bytes

/-- A record as the device sees it, without a fault. -/
def State.nodeAt (s : State) (t : Region) (i : Nat) : Node := Node.ofBytes ((s.peek t.id (t.lntBase + 64 * i) 64).getD [])

/-- The node of a handle, when it is live (R248). -/
def liveNode? (t : Region) (h : Nat) : L (Option (Nat × Node)) := do
  let i := h / 256
  if i = 0 ∨ t.lntCap ≤ i then pure none
  else
    let n ← getNode t i
    pure (if (n.state = 1 ∨ n.state = 2) ∧ n.gen = h % 256 then some (i, n) else none)

/-- The node of a handle; a dead one is reason 1. -/
def liveNode (t : Region) (h : Nat) : L (Nat × Node) := do
  match ← liveNode? t h with
  | some r => pure r
  | none => linFail 1 h

/-- Wait for a PENDING node (R269). -/
def settled (n : Node) : L Unit := if n.pending then throw .pending else pure ()

/-- A region may change a node of its own and of its descendants (R280). -/
def mayChange (q : RegionId) (h : Nat) (n : Node) : L Unit := do
  if (← get).below 8 q (BitVec.ofNat 16 n.owner) then pure () else linFail 12 h

/-- Whether a node names another as an ancestor, itself included. -/
def State.nodeBelow (s : State) (t : Region) (top : Nat) : Nat → Nat → Bool
  | 0, _ => false
  | fuel + 1, i => i == top || (let n := s.nodeAt t i; n.parent != 0 && s.nodeBelow t top fuel n.parentIndex)

/-- The records in state OPEN, SEALED or GHOST. -/
def State.nodes (s : State) (t : Region) : List Nat :=
  (List.range t.lntCap).filter (fun i => i != 0 && (let n := s.nodeAt t i; decide (1 ≤ n.state) && decide (n.state ≤ 3)))

/-- The proper descendants of a node. -/
def State.descendants (s : State) (t : Region) (i : Nat) : List Nat :=
  (s.nodes t).filter (fun j => j != i && s.nodeBelow t i 9 j)

/-- Change the DEPTH of some nodes. -/
def shiftDepths (t : Region) (f : Nat → Nat) : List Nat → L Unit
  | [] => pure ()
  | i :: r => do
    let n ← getNode t i
    putNode t i { n with depth := f n.depth }
    shiftDepths t f r

/-- One of several, where the spec leaves the choice open. -/
def choose (xs : List Nat) : L (Option Nat) := do
  match xs with
  | [] => pure none
  | [x] => pure (some x)
  | _ =>
    let s ← get
    set { s with free := s.free + 1 }
    pure (xs[Config.pick s.free % xs.length]?)

/-- A FREE record, any of them (R260); reason 8 when there is none. -/
def freeRecord (t : Region) (h : Nat) : L Nat := do
  let s ← get
  let free := (List.range t.lntCap).filter (fun i =>
    i != 0 && (s.xlate 8 t.id (t.lntBase + 64 * i) .load).isOk && (s.nodeAt t i).state == 0)
  match ← choose free with
  | some i => pure i
  | none => linFail 8 h

/-! ## Pages of the pool (R278) -/

/-- Pages of an image; an empty ELEM image has none (R260). -/
def imagePages (kind ncount size : Nat) : Nat := if kind = 1 ∧ ncount = 0 then 0 else (size + 65535) / 65536

/-- Take a run of free pages for an image of record i, charged to an owner: reason 11, then BUDGET. Answers DADDR. -/
def takeRun (t : Region) (i : Nat) (owner : RegionId) (need h : Nat) : L Nat := do
  if need = 0 then pure 0
  else
    let s ← get
    let mine := s.runs.filter (fun e => e.table == t.id)
    let fits (f : Nat) : Bool := mine.all (fun e => decide (f + need ≤ e.first) || decide (e.first + e.len ≤ f))
    match ← choose ((List.range (t.poolPages + 1 - need)).filter fits) with
    | none => linFail 11 h
    | some f =>
      let s ← get
      match s.region? owner with
      | none => throw (.budget need)
      | some r =>
        if r.pages < r.pagesUsed + need then throw (.budget need)
        set ({ s with runs := ⟨t.id, i, f, need, owner⟩ :: s.runs }.modRegion owner
          (fun r => { r with pagesUsed := r.pagesUsed + need }))
        pure (t.poolBase + 65536 * f)

/-- Release the pages of an image: they become scrub-pending (R278, R396). -/
def State.dropRun (s : State) (t : Region) (daddr : Nat) : State :=
  match s.runs.find? (fun e => e.table == t.id && t.poolBase + 65536 * e.first == daddr) with
  | none => s
  | some e =>
    let u := { s with runs := s.runs.filter (fun x => x != e) }.modRegion e.owner
      (fun r => { r with pagesUsed := r.pagesUsed - e.len })
    (List.range e.len).foldl (fun u k =>
      match u.xlate 8 t.id (daddr + 65536 * k) .load with
      | .ok x => u.release (u.physPlace x.pa) 65536
      | .error _ => u) u

/-- Release the pages of a node's image. -/
def releaseImage (t : Region) (n : Node) : L Unit := if n.pages = 0 then pure () else modify (fun s => s.dropRun t n.daddr)

/-- Give a record an image in fresh pages: charged and written before the old ones are released (R278). -/
def storeImage (t : Region) (i : Nat) (n : Node) (kind : Nat) (img : List Byte) (ncount h : Nat) : L Node := do
  let need := imagePages kind ncount img.length
  let daddr ← takeRun t i (BitVec.ofNat 16 n.owner) need h
  if need = 0 then pure () else linWrite t.id daddr img
  pure { n with kind := kind, daddr := daddr, dsize := img.length, ncount := ncount, pages := need }

/-! ## Images (R252-R256) -/

/-- Element i of an array of elements of w bits from byte off on (R70). -/
def elemAt (img : List Byte) (off w i : Nat) : Nat :=
  if w = 4 then slice img (off + i / 2) 1 / 16 ^ (i % 2) % 16 else slice img (off + i * (w / 8)) (w / 8)

/-- Bytes of n elements of w bits. -/
def elemBytes (w n : Nat) : Nat := (n * w + 7) / 8

/-- Elements packed into bytes. -/
def packElems (w : Nat) (xs : List Nat) : List Byte := leBytes (elemBytes w xs.length) (packLanes w xs)

/-- A DENSE image: the elements, padded to a multiple of 64 bytes (R252). -/
def denseImage (w : Nat) (xs : List Nat) : List Byte :=
  let bs := packElems w xs
  bs ++ zeros ((64 - bs.length % 64) % 64)

/-- The places in its group of c codes in the grammar of R225, from place p on; none when malformed (R253). -/
def groupCodes : Nat → Nat → List Byte → Option (List Nat × List Byte)
  | 0, _, bs => some ([], bs)
  | _ + 1, _, [] => none
  | n + 1, p, b :: bs =>
    let q := p + b.toNat % 64
    if 128 ≤ b.toNat ∨ 63 < q ∨ (decide (64 ≤ b.toNat)) ≠ (n == 0) then none
    else (groupCodes n (q + 1) bs).map (fun r => (q :: r.1, r.2))

/-- The positions that the directory entries of an ELEM image list, of groups from lo on, in code order; none when malformed. -/
def elemEntries (total : Nat) : List Nat → Nat → List Byte → Option (List Nat)
  | [], _, codes => if codes.isEmpty then some [] else none
  | e :: es, lo, codes =>
    let g := e % 2 ^ 40
    let c := e / 2 ^ 40 % 256
    if e / 2 ^ 48 ≠ 0 ∨ c = 0 ∨ 64 < c ∨ g < lo then none
    else match groupCodes c 0 codes with
      | none => none
      | some (ps, rest) =>
        let here := ps.map (fun p => 64 * g + p)
        if here.all (fun i => decide (i < total)) then (elemEntries total es (g + 1) rest).map (fun r => here ++ r) else none

/-- The positions that an ELEM image lists, in code order; none when it is malformed (R253). -/
def elemPositions (w total : Nat) (img : List Byte) : Option (List Nat) :=
  let ng := slice img 0 4
  let nv := slice img 4 4
  if img.length ≠ 16 + 8 * ng + nv + elemBytes w nv ∨ slice img 8 8 ≠ 0 then none
  else elemEntries total ((List.range ng).map (fun k => slice img (16 + 8 * k) 8)) 0
    ((img.drop (16 + 8 * ng)).take nv)

/-- Bytes of the bitmap of a BLOCK image of g groups (R254). -/
def bitmapBytes (g : Nat) : Nat := 64 * ((g + 511) / 512)

/-- Whether a BLOCK image replaces a group. -/
def blockHas (img : List Byte) (g : Nat) : Bool := slice img (16 + g / 8) 1 / 2 ^ (g % 8) % 2 == 1

/-- The groups that a BLOCK image of `groups` groups replaces. -/
def blockGroups (img : List Byte) (groups : Nat) : List Nat := (List.range groups).filter (blockHas img)

/-- An ELEM image that lists ascending positions with values (R253). -/
def elemImage (w : Nat) (listed : List (Nat × Nat)) : List Byte :=
  let gs := (listed.map (fun p => p.1 / 64)).eraseDups
  let at_ (g : Nat) : List Nat := (listed.filter (fun p => p.1 / 64 == g)).map (fun p => p.1 % 64)
  let codes (ps : List Nat) : List Byte :=
    (List.range ps.length).map (fun k =>
      let skip := ps.getD k 0 - (if k = 0 then 0 else ps.getD (k - 1) 0 + 1)
      BitVec.ofNat 8 (skip + if k + 1 = ps.length then 64 else 0))
  leBytes 4 gs.length ++ leBytes 4 listed.length ++ zeros 8 ++
  gs.flatMap (fun g => leBytes 8 (g + (at_ g).length * 2 ^ 40)) ++ gs.flatMap (fun g => codes (at_ g)) ++
  packElems w (listed.map Prod.snd)

/-- A BLOCK image that replaces ascending groups by a content (R254). -/
def blockImage (w total groups : Nat) (gs : List Nat) (content : Nat → Nat) : List Byte :=
  leBytes 4 gs.length ++ zeros 12 ++ leBytes (bitmapBytes groups) (gs.foldl (fun a g => a + 2 ^ g) 0) ++
  gs.flatMap (fun g => packElems w ((List.range 64).map (fun p => if 64 * g + p < total then content (64 * g + p) else 0)))

/-- An ascending list of distinct numbers. -/
def sortNats : List Nat → List Nat
  | [] => []
  | x :: r => putBy id x (sortNats r)

/-- The canonical delta image of changed positions (R256), `block` where only BLOCK is admitted: KIND, image, NCOUNT. -/
def deltaImage (n : Node) (changed : List Nat) (content : Nat → Nat) (block : Bool) : Nat × List Byte × Nat :=
  let w := n.width
  let ps := sortNats changed
  let gs := (ps.map (fun p => p / 64)).eraseDups
  let se := 16 + 8 * gs.length + ps.length + elemBytes w ps.length
  let sb := 16 + bitmapBytes n.groups + gs.length * (8 * w)
  if !block && decide (se ≤ sb) then (1, elemImage w (ps.map (fun p => (p, content p))), ps.length)
  else (2, blockImage w n.total n.groups gs content, gs.length)

/-! ## Content (R265-R268) -/

/-- A node as it is read: its record, its image, the positions an ELEM image lists, its poisoned granules, those that do not
translate, and those whose block arrives with a guard tag that does not fit, with that block. -/
structure Level where
  idx : Nat
  node : Node
  img : List Byte
  listed : List Nat
  poison : List Nat
  lost : List Nat
  torn : List (Nat × Nat)
  deriving DecidableEq, Repr

/-- The positions that an ELEM image lists, in code order; those of a group whose codes are malformed lie outside the node. -/
def listedPositions (img : List Byte) : List Nat :=
  let ng := slice img 0 4
  let entry (k : Nat) : Nat := slice img (16 + 8 * k) 8
  let count (k : Nat) : Nat := entry k / 2 ^ 40 % 256
  ((List.range ng).foldl (fun (a : Nat × List Nat) k =>
    let here := match groupCodes (count k) 0 ((img.drop (16 + 8 * ng + a.1)).take (count k)) with
      | some (ps, _) => ps.map (fun p => 64 * (entry k % 2 ^ 40) + p)
      | none => List.replicate (count k) (2 ^ 48)
    (a.1 + count k, a.2 ++ here)) (0, [])).2

/-- The positions that the image of a node lists. -/
def Node.listed (n : Node) (img : List Byte) : List Nat := if n.kind = 1 then listedPositions img else []

/-- Offset of V in a RANK image (R255). -/
def rankV (n : Node) (r : Nat) : Nat := 0x40 + (n.rows * r * (n.width / 8) + 63) / 64 * 64

/-- U[i, ·] of a RANK image. -/
def Level.rankU (l : Level) (i : Nat) : List Nat :=
  (List.range l.node.ncount).map (fun t => elemAt l.img 0x40 l.node.width (i * l.node.ncount + t))

/-- V[k, ·] of a RANK image. -/
def Level.rankRow (l : Level) (k : Nat) : List Nat :=
  (List.range l.node.ncount).map (fun t => elemAt l.img (rankV l.node l.node.ncount) l.node.width (k * l.node.ncount + t))

/-- The products U[n, t] · V[k, t]; none where one is a NaN or 0 · ∞. -/
def Level.rankTerms (l : Level) (n k : Nat) : List (Option Num) :=
  let F := tagFmt l.node.tag
  List.zipWith (fun u v => prodNums [decodeF F u, decodeF F v]) (l.rankU n) (l.rankRow k)

/-- An element of a RANK node over its parent's (R255). -/
def Level.rankElem (l : Level) (base i : Nat) : Nat :=
  let F := tagFmt l.node.tag
  let ts := l.rankTerms (i / l.node.cols) (i % l.node.cols)
  if ts.any Option.isNone then canonical F
  else match sumNums (decodeF F base :: ts.filterMap id) with
    | some q => (roundNum F .rne q).1
    | none => canonical F

/-- The element at a linear index of a chain, the node first, its DENSE ancestor last (R265). -/
def contentAt : List Level → Nat → Nat
  | [], _ => 0
  | l :: up, i =>
    let w := l.node.width
    match l.node.kind with
    | 0 => elemAt l.img 0 w i
    | 1 =>
      let j := l.listed.idxOf i
      if j < l.listed.length then
        elemAt l.img (16 + 8 * slice l.img 0 4 + slice l.img 4 4) w j
      else contentAt up i
    | 2 =>
      if blockHas l.img (i / 64) then
        let before := (List.range (i / 64)).countP (blockHas l.img)
        elemAt l.img (16 + bitmapBytes l.node.groups) w (64 * before + i % 64)
      else contentAt up i
    | _ => l.rankElem (contentAt up i) i

/-- Granules of bytes off to off + n − 1 of an image. -/
def granulesOf (off n : Nat) : List Nat := (List.range ((off % 64 + n + 63) / 64)).map (fun k => off / 64 + k)

/-- The granules of the images that resolving one element reads (R268), as record and granule. -/
def readGranules : List Level → Nat → List (Nat × Nat)
  | [], _ => []
  | l :: up, i =>
    let w := l.node.width
    let z := (w + 7) / 8
    let tag (gs : List Nat) : List (Nat × Nat) := gs.map (fun g => (l.idx, g))
    match l.node.kind with
    | 0 => tag (granulesOf (i * w / 8) z)
    | 1 =>
      let ng := slice l.img 0 4
      let k := ((List.range ng).find? (fun k => slice l.img (16 + 8 * k) 5 == i / 64))
      let j := l.listed.idxOf i
      let dir := match k with
        | some k =>
          let first := ((List.range k).map (fun x => slice l.img (21 + 8 * x) 1)).foldl (fun a b => a + b) 0
          tag (granulesOf (16 + 8 * k) 8) ++ tag (granulesOf (16 + 8 * ng + first) (slice l.img (21 + 8 * k) 1))
        | none => []
      if j < l.listed.length then dir ++ tag (granulesOf (16 + 8 * ng + slice l.img 4 4 + j * w / 8) z)
      else dir ++ readGranules up i
    | 2 =>
      let bit := tag (granulesOf (16 + i / 64 / 64 * 8) 8)
      if blockHas l.img (i / 64) then
        let before := (List.range (i / 64)).countP (blockHas l.img)
        bit ++ tag (granulesOf (16 + bitmapBytes l.node.groups + (64 * before + i % 64) * w / 8) z)
      else bit ++ readGranules up i
    | _ =>
      let r := l.node.ncount
      tag (granulesOf (0x40 + i / l.node.cols * r * z) (r * z)) ++
      tag (granulesOf (rankV l.node r + i % l.node.cols * r * z) (r * z)) ++ readGranules up i

/-- Whether resolving an element reads a poisoned granule: the granule's address. -/
def poisonedElem (ls : List Level) (i : Nat) : Option Nat :=
  (readGranules ls i).findSome? (fun e =>
    (ls.find? (fun l => l.idx == e.1)).bind (fun l => if l.poison.contains e.2 then some (l.node.daddr + 64 * e.2) else none))

/-- Whether resolving an element reads a block with a guard tag that does not fit: its number, and the granule's address (R324). -/
def tornElem (ls : List Level) (i : Nat) : Option (Nat × Nat) :=
  (readGranules ls i).findSome? (fun e =>
    (ls.find? (fun l => l.idx == e.1)).bind (fun l =>
      (l.torn.find? (fun t => t.1 == e.2)).map (fun t => (t.2, l.node.daddr + 64 * e.2))))

/-- What stops the reading of an element: a poisoned granule, or a block with a guard tag that does not fit (log 70). -/
def faultyElem (ls : List Level) (i : Nat) : Option LinErr :=
  match poisonedElem ls i with
  | some a => some (.poison a)
  | none => (tornElem ls i).map (fun e => .integrity e.1 e.2)

/-- The granules that say which positions an image changes: the directory and the codes of an ELEM image, the bitmap of a BLOCK
image (R253, R254). -/
def indexGranules (l : Level) : List Nat :=
  match l.node.kind with
  | 1 => if l.node.pages = 0 then [] else granulesOf 0 (16 + 8 * slice l.img 0 4 + slice l.img 4 4)
  | 2 => granulesOf 0 (16 + bitmapBytes l.node.groups)
  | _ => []

/-- Those of them that finding one element's place takes beside the parts of its own group: the directory up to the group's entry,
which gives the place of the codes, or the bitmap up to its bit, which gives the place of the group (R253, R254). -/
def placeGranules (l : Level) (i : Nat) : List Nat :=
  match l.node.kind with
  | 1 =>
    let ng := slice l.img 0 4
    let upTo := ((List.range ng).find? (fun k => decide (i / 64 ≤ slice l.img (16 + 8 * k) 5))).getD ng
    if l.node.pages = 0 then [] else granulesOf 0 (16 + 8 * min ng (upTo + 1))
  | 2 => granulesOf 0 (16 + (i / 64 / 64 + 1) * 8)
  | _ => []

/-- The address of a granule that resolving an element needs and that does not translate (R247, R268). -/
def lostElem : List Level → Nat → Option Nat
  | [], _ => none
  | l :: up, i =>
    match (placeGranules l i ++ (readGranules [l] i).map Prod.snd).find? l.lost.contains with
    | some g => some (l.node.daddr + 64 * g)
    | none =>
      let here : Bool := match l.node.kind with
        | 0 => true
        | 1 => l.listed.contains i
        | 2 => blockHas l.img (i / 64)
        | _ => false
      if here then none else lostElem up i

/-- The records from a node up to its DENSE ancestor. -/
def chainOf (t : Region) : Nat → Nat → L (List (Nat × Node))
  | 0, _ => pure []
  | fuel + 1, i => do
    let n ← getNode t i
    if n.parent = 0 then pure [(i, n)]
    else
      let up ← chainOf t fuel n.parentIndex
      pure ((i, n) :: up)

/-- A node as it stands. An image without pages is zeros (R260); what does not translate reads as zeros, and is listed. -/
def readLevel (t : Region) (i : Nat) (n : Node) : L Level := do
  let s ← get
  let pages := if n.pages = 0 then [] else spanPages n.daddr n.dsize
  let part (a : Nat) : Nat := min (65536 - a % 65536) (n.daddr + n.dsize - a)
  let img := if n.pages = 0 then zeros n.dsize else pages.flatMap (fun a => (s.peek t.id a (part a)).getD (zeros (part a)))
  let lost := (pages.filter (fun a => !(s.xlate 8 t.id a .load).isOk)).flatMap (fun a => granulesOf (a - n.daddr) (part a))
  let granules := List.range (if n.pages = 0 then 0 else (n.dsize + 63) / 64)
  let bad := granules.filter (fun g =>
    match s.xlate 8 t.id (n.daddr + 64 * g) .load with
    | .ok x => s.poisoned (s.physPlace x.pa)
    | .error _ => false)
  let torn := if s.corrupt.isEmpty then [] else granules.filterMap (fun g =>
    match s.xlate 8 t.id (n.daddr + 64 * g) .load with
    | .ok x => (s.badBlock ⟨s.physPlace x.pa, 2 ^ 36 + x.pa, 64, n.daddr + 64 * g⟩).map (fun e => (g, e.1))
    | .error _ => none)
  pure ⟨i, n, img, n.listed img, bad, lost, torn⟩

/-- Several nodes as they stand. -/
def readLevels (t : Region) : List (Nat × Node) → L (List Level)
  | [] => pure []
  | (i, n) :: r => do
    let l ← readLevel t i n
    let ls ← readLevels t r
    pure (l :: ls)

/-- The chain of a node at one point of the table order (R266). -/
def readChain (t : Region) (i : Nat) : L (List Level) := do readLevels t (← chainOf t 9 i)

/-- The first granule of some that does not translate stops the operation (R247). -/
def needGranule (t : Region) (a : Option Nat) : L Unit := do
  match a with
  | none => pure ()
  | some a => linReach t.id a 1

/-- The positions of the groups in which some positions lie. -/
def Node.wholeGroups (n : Node) (ps : List Nat) : List Nat :=
  ((ps.map (fun k => k / 64)).eraseDups.flatMap (fun g => (List.range 64).map (fun p => 64 * g + p))).filter (fun k => decide (k < n.total))

/-- Elements of a chain are read. A granule that one needs and that does not translate, is poisoned, or fails its guard tag stops the
operation. -/
def readContent (t : Region) (ls : List Level) (positions : List Nat) : L Unit := do
  if ls.any (fun l => !l.lost.isEmpty) then needGranule t (positions.findSome? (lostElem ls))
  match positions.findSome? (faultyElem ls) with
  | some e => throw e
  | none => pure ()

/-- The positions that a node's own delta changes are read. -/
def readIndex (t : Region) (l : Level) : L Unit :=
  needGranule t (((indexGranules l).find? l.lost.contains).map (fun g => l.node.daddr + 64 * g))

/-- The positions that a node's own delta changes (R262). -/
def Level.changed (l : Level) : List Nat :=
  match l.node.kind with
  | 1 => l.listed
  | 2 => (blockGroups l.img l.node.groups).flatMap (fun g =>
      ((List.range 64).map (fun p => 64 * g + p)).filter (fun i => decide (i < l.node.total)))
  | _ => []

/-! ## Leaving a table -/

/-- A parent loses a child; a ghost then waits for the housekeeper (R273). -/
def loseChild (t : Region) (p : Nat) : L Unit := do
  let n ← getNode t p
  putNode t p { n with children := n.children - 1 }
  if n.state = 3 then modify (fun s => { s with housework := (t.id, p) :: s.housework.filter (fun e => e != (t.id, p)) })
  else pure ()

/-- A record becomes FREEING (R257): no record names it as its parent any more (R249). -/
def beginFree (t : Region) (i : Nat) (n : Node) : L Unit := do
  putNode t i { n with state := 4, deferred := false, children := 0 }
  modify (fun s => { s with housework := (t.id, i) :: s.housework.filter (fun e => e != (t.id, i)) })

/-- LDROP of a node (R263): FREEING without children, GHOST with. -/
def dropNode (t : Region) (i : Nat) (n : Node) : L Unit := do
  if n.children = 0 then
    beginFree t i n
    if n.parent = 0 then pure () else loseChild t n.parentIndex
  else putNode t i { n with state := 3 }

end Sys2Proof.Machine
end

