-- ==== Sys2Proof/Machine/Lineage.lean ====
section
/-! DEFINITION. The synchronous lineage instructions (R258-R263) and the housekeeper (R257, R273). -/

namespace Sys2Proof.Machine

/-! ## From lineage operations to instructions -/

/-- The stop of a lineage operation that is not performed (R247, R259, R278). A PENDING node makes it wait (R269). -/
def LinErr.stop (s : State) : LinErr → Stop
  | .reason r h => .trap 10 (BitVec.ofNat 64 (h * 2 ^ 32 + r)) 0
  | .page f => .trap (if f.perm then 6 else 5) (BitVec.ofNat 64 (f.addr / 65536 * 65536))
      (if f.stage = s.owner s.core.pos then 0 else f.stage)
  | .budget n => .trap 16 (BitVec.ofNat 64 n) 0
  | .poison a => .trap 12 (BitVec.ofNat 64 a) 0
  | .integrity b a => .integrity b (BitVec.ofNat 64 a)
  | .pending => .stall 0

/-- A lineage operation that was not performed has reported a guard tag that did not fit (R324). -/
def LinErr.reported (s : State) : LinErr → State
  | .integrity b _ => s.untear b
  | _ => s

/-- Perform a lineage operation, or stop with nothing changed. -/
def lin (x : L α) : M α := fun s =>
  match x s with
  | .ok v t => .ok v t
  | .error e _ => .error (e.stop s) s

/-- The table that the current core's region uses. -/
def myTable : M Region := do
  let s ← get
  match s.region? (s.tableOwner 8 (s.owner s.core.pos)) with
  | some r => pure r
  | none => raise 5 0

/-- Whether a lineage operation that a core has issued before number `id` has not come to its point of the table order: a snapshot
to be taken, or an image to be published (R267). -/
def State.lineageAhead (s : State) (pos id : Nat) : Bool :=
  s.cmds.any (fun c => c.core == pos && decide (c.id < id) && c.failed.isNone && (match c.kind with
    | .copy 1 => !c.started
    | .lflat | .lrebase => c.arrived != 16
    | _ => false)) ||
  (s.cubeCmds pos).any (fun c => c.isLprod && decide (c.id < id) && !c.begun)

/-- The frame of a synchronous lineage instruction (R258): free code only, after the core's earlier lineage operations (R267), a release
and an acquire over the whole region, and a stall of fewer ticks than the body answers (R14). -/
def lineageOp (w : Nat) (body : M Nat) : State → Out :=
  issue 4 do
    check (!(← getC).timed) 1 (BitVec.ofNat 64 w)
    let s ← get
    if s.lineageAhead s.core.pos s.nextId then throw (.stall 0)
    let bound ← body
    let n ← fresh
    let s ← get
    set (s.syncRelease s.core.pos none)
    stallFor (n % (bound * 12 / s.period s.core.pos))

/-- t(X): the ticks that a plain CP of some bytes takes under the reservation of a region (R258, R268; log 89). -/
def State.copyTime (s : State) (q : RegionId) (bytes : Nat) : Nat := Config.copyTime (((s.region? q).map Region.res).getD 0) bytes

/-- The handle of a register operand (R258). -/
def handleOf (x : Word) : Nat := x.toNat % 2 ^ 32

/-! ## LFORK and LFORKR -/

/-- A new root (R260): a DENSE node of zeros with the shape of word b. -/
def forkRoot (t : Region) (q : RegionId) (b : Nat) : L Nat := do
  let tag := b / 2 ^ 40 % 32
  if 2 ^ 45 ≤ b || !nodeTag tag then linFail 4 0
  let rows := b % 2 ^ 20 + 1
  let cols := b / 2 ^ 20 % 2 ^ 20 + 1
  let i ← freeRecord t 0
  let old ← getNode t i
  let size := (elemBytes (tagWidth tag) (rows * cols) + 63) / 64 * 64
  let pages := imagePages 0 0 size
  let daddr ← takeRun t i q pages 0
  linReach t.id daddr (65536 * pages)
  modify (fun s => (List.range pages).foldl (fun u k =>
    match u.xlate 8 t.id (daddr + 65536 * k) .load with
    | .ok x => (u.release (u.physPlace x.pa) 65536).healed (u.physPlace x.pa) 65536
    | .error _ => u) s)
  putNode t i { parent := 0, depth := 0, kind := 0, state := 1, tag := tag, rows := rows, cols := cols, daddr := daddr,
                dsize := size, children := 0, owner := q.toNat, gen := old.gen, pending := false, deferred := false,
                ncount := 0, pages := pages }
  pure (i * 256 + old.gen)

/-- A new child (R260, R261): ELEM without a change, or RANK with an image. -/
def forkChild (t : Region) (q : RegionId) (a : Nat) (rank : Node → L (List Byte)) (isRank : Bool) : L Nat := do
  let (pi, p) ← liveNode t a
  settled p
  if p.depth = 7 then linFail 3 a
  if isRank && !rankTag p.tag then linFail 5 a
  let img ← rank p
  let i ← freeRecord t a
  let old ← getNode t i
  let blank : Node := { parent := a, depth := p.depth + 1, kind := 1, state := 1, tag := p.tag, rows := p.rows, cols := p.cols,
                        daddr := 0, dsize := 16, children := 0, owner := q.toNat, gen := old.gen, pending := false,
                        deferred := false, ncount := 0, pages := 0 }
  let n ← if isRank then storeImage t i blank 3 img (slice img 0 4) a else pure blank
  putNode t i n
  let p ← getNode t pi
  putNode t pi { p with children := p.children + 1, state := 2 }
  pure (i * 256 + old.gen)

/-- LFORK (R260). -/
def execLfork (d a b : BitVec 5) : State → Out :=
  lineageOp (Instr.encode (.lfork d a b)) do
    let x ← readG a
    let y ← readG b
    let s ← get
    let t ← myTable
    let q := s.owner s.core.pos
    let h ← lin (if handleOf x = 0 then forkRoot t q y.toNat else forkChild t q (handleOf x) (fun _ => pure []) false)
    writeG d (BitVec.ofNat 64 h) 1
    pure 4000

/-- Bytes of a RANK image from virtual memory: rows 1, 2, 6 and 8 of R152 (R261). -/
def readRank (v n : Nat) : M (List Byte) := do
  if v < 2 ^ 32 ∨ 2 ^ 48 ≤ v then raise 4 (BitVec.ofNat 64 v)
  if 2 ^ 48 < v + n then raise 4 (BitVec.ofNat 64 (2 ^ 48))
  let segs ← segments .virt v n .load
  poisonRow segs .load
  let s ← get
  pure (segs.flatMap (fun e => s.getBytes e.place e.len))

/-- Bytes of a RANK image of rank r for a node's shape (R255). -/
def rankSize (p : Node) (r : Nat) : Nat := rankV p r + p.cols * r * (p.width / 8)

/-- LFORKR (R261). -/
def execLforkr (d a b : BitVec 5) : State → Out :=
  lineageOp (Instr.encode (.lforkr d a b)) do
    let x ← readG a
    let y ← readG b
    let s ← get
    let t ← myTable
    let q := s.owner s.core.pos
    let h := handleOf x
    let p ← lin (do
      let (_, p) ← liveNode t h
      settled p
      if p.depth = 7 then linFail 3 h
      if rankTag p.tag then pure p else linFail 5 h)
    check (y.toNat % 64 == 0) 3 y
    let head ← readRank y.toNat 64
    let r := slice head 0 4
    if r = 0 ∨ 64 < r ∨ (head.drop 4).any (fun c => c != 0) then raise 10 (BitVec.ofNat 64 (h * 2 ^ 32 + 9))
    let img ← readRank y.toNat (rankSize p r)
    let new ← lin (forkChild t q h (fun _ => pure img) true)
    writeG d (BitVec.ofNat 64 new) 1
    pure (4000 + s.copyTime q (rankSize p r))

/-! ## LPUT, LSEAL, LDROP, LINFO -/

/-- The pair list of LPUT (R262): position and value; none when it is malformed. -/
def pairList (s : State) (b w : Nat) : Option (List (Nat × Nat)) :=
  let p := localPlace s.core.pos b
  let n := s.getNat p 8
  if b % 8 ≠ 0 ∨ 0x20000 < b + 8 ∨ n = 0 ∨ 1024 < n ∨ 0x20000 < b + 8 + 16 * n then none
  else
    let ps := (List.range n).map (fun j => (s.getNat (p + 8 + 16 * j) 8, s.getNat (p + 16 + 16 * j) 8))
    if ps.any (fun e => decide (2 ^ w ≤ e.2)) then none else some ps

/-- The value that a list of pairs leaves at a position: the last one's (R262). -/
def pairAt (ps : List (Nat × Nat)) (i : Nat) : Option Nat := (ps.reverse.find? (fun e => e.1 == i)).map Prod.snd

/-- Write pairs into the image of a DENSE node in place (R262). -/
def putElems (t : Region) (n : Node) : List (Nat × Nat) → L Unit
  | [] => pure ()
  | (i, v) :: r => do
    let a := n.daddr + i * n.width / 8
    if n.width = 4 then
      let old := leNat (← linRead t.id a 1)
      linWrite t.id a (leBytes 1 (if i % 2 = 0 then old / 16 * 16 + v else old % 16 + 16 * v))
    else linWrite t.id a (leBytes (n.width / 8) v)
    putElems t n r

/-- LPUT on a node (R262): the kind after the write, and the bytes of the pair list, the old delta image and the new one (R258). -/
def putPairs (t : Region) (q : RegionId) (h b : Nat) : L (Nat × List Nat) := do
  let (i, v) ← liveNode t h
  mayChange q h v
  settled v
  if v.state ≠ 1 then linFail 2 h
  if v.kind = 3 then linFail 5 h
  match pairList (← get) b v.width with
  | none => linFail 9 h
  | some ps =>
    if ps.any (fun e => decide (v.total ≤ e.1)) then linFail 6 h
    if v.kind = 0 then
      putElems t v ps
      pure (0, [8 + 16 * ps.length, 0, 0])
    else
      let chain ← readChain t i
      match chain.head? with
      | some l => readIndex t l
      | none => pure ()
      let old := (chain.head?.map Level.changed).getD []
      let content (k : Nat) : Nat := (pairAt ps k).getD (contentAt chain k)
      let changed := (old ++ ps.map Prod.fst).eraseDups
      let (kind, img, nc) := deltaImage v changed content false
      let reads := if kind = 1 then changed else v.wholeGroups changed
      readContent t chain (reads.filter (fun k => (pairAt ps k).isNone))
      let n ← storeImage t i v kind img nc h
      releaseImage t v
      putNode t i n
      pure (kind, [8 + 16 * ps.length, v.dsize, img.length])

/-- LPUT (R262). -/
def execLput (d a b : BitVec 5) : State → Out :=
  lineageOp (Instr.encode (.lput d a b)) do
    let x ← readG a
    let y ← readG b
    let s ← get
    let t ← myTable
    let q := s.owner s.core.pos
    let (kind, moved) ← lin (putPairs t q (handleOf x) y.toNat)
    writeG d (BitVec.ofNat 64 kind) 1
    pure (4000 + (moved.map (s.copyTime q)).sum)

/-- LSEAL (R263). -/
def execLseal (a : BitVec 5) : State → Out :=
  lineageOp (Instr.encode (.lseal a)) do
    let x ← readG a
    let s ← get
    let t ← myTable
    lin (do
      let (i, n) ← liveNode t (handleOf x)
      mayChange (s.owner s.core.pos) (handleOf x) n
      settled n
      putNode t i { n with state := 2 })
    pure 4000

/-- LDROP (R263). -/
def execLdrop (a : BitVec 5) : State → Out :=
  lineageOp (Instr.encode (.ldrop a)) do
    let x ← readG a
    let s ← get
    let t ← myTable
    lin (do
      let (i, n) ← liveNode t (handleOf x)
      mayChange (s.owner s.core.pos) (handleOf x) n
      settled n
      dropNode t i n)
    pure 4000

/-- Write record words to consecutive registers (R263). -/
def writeWords (img : List Byte) (first : Nat) : Nat → M Unit
  | 0 => pure ()
  | k + 1 => do
    writeWords img first k
    writeG (BitVec.ofNat 5 (first + k)) (BitVec.ofNat 64 (slice img (8 * k) 8)) 1

/-- LINFO (R263). -/
def execLinfo (d : BitVec 2) (a : BitVec 5) : State → Out :=
  lineageOp (Instr.encode (.linfo d a)) do
    let x ← readG a
    let t ← myTable
    let r ← lin (liveNode? t (handleOf x))
    let img := match r with | some (_, n) => n.bytes | none => zeros 64
    writeWords img (8 * d.toNat) 8
    pure 4000

/-! ## The housekeeper -/

/-- Perform a lineage operation of the device, or answer that it is not possible. -/
def State.tryLin (s : State) (x : L Unit) : Option State :=
  match x s with
  | .ok _ t => some t
  | .error _ _ => none

/-- The children of a node. -/
def State.childrenOf (s : State) (t : Region) (i : Nat) (n : Node) : List Nat :=
  (s.nodes t).filter (fun j => (s.nodeAt t j).parent == i * 256 + n.gen)

/-- The image that a fold gives the only child of a ghost (R273): KIND, image, NCOUNT. -/
def foldImage (ghost child : Level) (chain : List Level) : Nat × List Byte × Nat :=
  let n := child.node
  let content := contentAt chain
  if ghost.node.kind = 0 then (0, denseImage n.width ((List.range n.total).map content), 0)
  else if ghost.node.kind = 1 ∧ n.kind = 1 then deltaImage n (ghost.changed ++ child.changed).eraseDups content false
  else deltaImage n (ghost.changed ++ child.changed).eraseDups content true

/-- Fold a ghost into its only child (R273). -/
def foldGhost (t : Region) (i : Nat) (g : Node) (j : Nat) : L Unit := do
  let c ← getNode t j
  let chain ← readChain t j
  match chain with
  | child :: ghost :: _ =>
    readIndex t ghost
    readIndex t child
    let changed := (ghost.changed ++ child.changed).eraseDups
    let (kind, img, nc) := foldImage ghost child chain
    readContent t chain (if kind = 0 then List.range c.total else if kind = 1 then changed else c.wholeGroups changed)
    let below := (← get).descendants t j
    let n ← storeImage t j c kind img nc 0
    releaseImage t c
    putNode t j { n with parent := g.parent, depth := g.depth }
    shiftDepths t (fun d => d - 1) below
    beginFree t i g
  | _ => pure ()

/-- Set or clear DEFER. -/
def setDefer (t : Region) (i : Nat) (b : Bool) : L Unit := do
  let n ← getNode t i
  putNode t i { n with deferred := b }

/-- What the housekeeper makes of a ghost whose CHILDREN changed; none where it must wait (R269). Where a record or a page does not
translate, DEFER is set and the ghost stays for a later attempt (R247, R273). -/
def State.houseKeep (s0 : State) (t : Region) (i : Nat) : Option State :=
  let s := { s0 with housework := s0.housework.filter (fun e => e != (t.id, i)) }
  let g := s.nodeAt t i
  let kids := s.childrenOf t i g
  if g.children = 0 then
    s.tryLin (do
      beginFree t i g
      if g.parent = 0 then pure () else loseChild t g.parentIndex)
  else match g.children, kids with
    | 1, [j] =>
      let c := s.nodeAt t j
      if g.kind = 3 ∨ c.kind = 3 then s.tryLin (setDefer t i true)
      else if c.pending || (s.descendants t j).any (fun k => (s.nodeAt t k).pending) then none
      else match (do setDefer t i false; foldGhost t i { g with deferred := false } j : L Unit) s with
        | .ok _ u => some u
        | .error (.page _) _ => if g.deferred then none else s0.tryLin (setDefer t i true)
        | .error e _ => (e.reported s).tryLin (setDefer t i true)
    | _, _ => some s

/-- HOUSEKEEPER_FOLD: the housekeeper acts on ghost `idx` of the table of region `reg` (R273). -/
def execHousekeeperFold (reg : RegionId) (idx : Nat) (s : State) : Out :=
  match s.region? reg with
  | none => .refused (.notEnabled "HOUSEKEEPER_FOLD")
  | some t =>
    if s.housework.contains (reg, idx) && (s.nodeAt t idx).state == 3 then
      match s.houseKeep t idx with
      | some u => .next u
      | none => .refused (.notEnabled "HOUSEKEEPER_FOLD")
    else .refused (.notEnabled "HOUSEKEEPER_FOLD")

/-- A FREEING record whose reads have finished becomes FREE: its pages are released, and GEN rises (R248, R257). -/
def freeNode (t : Region) (i : Nat) : L Unit := do
  let n ← getNode t i
  releaseImage t n
  putNode t i { n with state := 0, gen := (n.gen + 1) % 256 }
  modify (fun s => { s with housework := s.housework.filter (fun e => e != (t.id, i)) })

/-- NODE_FREE (R257). -/
def execNodeFree (reg : RegionId) (idx : Nat) (s : State) : Out :=
  match s.region? reg with
  | none => .refused (.notEnabled "NODE_FREE")
  | some t =>
    if s.housework.contains (reg, idx) && (s.nodeAt t idx).state == 4 &&
        s.snaps.all (fun x => x.table != reg || !x.nodes.contains idx) then
      match s.tryLin (freeNode t idx) with
      | some u => .next u
      | none => .refused (.notEnabled "NODE_FREE")
    else .refused (.notEnabled "NODE_FREE")

end Sys2Proof.Machine
end

