-- ==== Sys2Proof/Machine/Engine.lean ====
section
/-! DEFINITION. Copy engines, completion and publish (R281-R322): descriptors, the copy commands at issue, batches, byte
barriers, publish groups. What the engine then does stands in Machine/EngineEvents.lean. -/

namespace Sys2Proof.Machine

/-! ## Descriptors (R283, R286-R288) -/

/-- N0, N1 and N2. -/
def dscN (d : List Byte) (i : Nat) : Nat := slice d (4 * i) 4
/-- OPT (R287). -/
def dscOpt (d : List Byte) : Nat := slice d 0x0C 4
/-- STAG. -/
def dscStag (d : List Byte) : Nat := dscOpt d % 32
/-- DTAG. -/
def dscDtag (d : List Byte) : Nat := dscOpt d / 32 % 32
/-- PUBM. -/
def dscPubm (d : List Byte) : Nat := dscOpt d / 2 ^ 10 % 8
/-- PPOI. -/
def dscPpoi (d : List Byte) : Bool := dscOpt d / 2 ^ 13 % 2 == 1
/-- PSZ. -/
def dscPsz (d : List Byte) : Nat := dscOpt d / 2 ^ 14 % 32
/-- PKEY. -/
def dscPkey (d : List Byte) : Nat := dscOpt d / 2 ^ 24
/-- SP1, SP2, DP1 and DP2, as words. -/
def dscStride (d : List Byte) (i : Nat) : Word := BitVec.ofNat 64 (slice d (0x10 + 8 * i) 8)
/-- STATUS, FOLLOW, SIGADDR and SIGVAL. -/
def dscWord (d : List Byte) (i : Nat) : Nat := slice d (0x30 + 4 * i) 4
/-- A C4 tag. -/
def tagC4 (t : Nat) : Bool := decide (16 ≤ t) && decide (t ≤ 19)
/-- A float tag of R288. -/
def tagFloat (t : Nat) : Bool := decide (12 ≤ t) && decide (t ≤ 15)

/-- Two tags between which elements are copied or converted (R288). -/
def tagPair (s t n0 : Nat) : Bool :=
  if tagC4 s || tagC4 t then s == t && n0 % 2 == 0
  else if s = t then true
  else if s = 1 ∨ t = 1 then tagWidth s == tagWidth t
  else (tagFloat s && tagFloat t) || (tagInt s && tagInt t)

/-- First byte of 0x40-0x7F in which a command names no field (R286, R297-R306). -/
def dscEnd (fn : Nat) : Nat :=
  match fn with
  | 0 => 0x40
  | 1 => 0x48
  | 2 => 0x57
  | 3 | 4 | 5 => 0x55
  | _ => 0x42

/-- Destination bytes of a command (R288, R304, R306). -/
def dscBytes (fn : Nat) (d : List Byte) : Nat :=
  if fn = 6 then dscN d 0 * 65536
  else if fn = 4 then elemBytes (tagWidth (dscDtag d)) (dscN d 0 * dscN d 2)
  else elemBytes (tagWidth (dscDtag d)) (dscN d 0 * dscN d 1 * dscN d 2)

/-- The common fields are well formed (R286-R288, R295). -/
def dscCommon (d : List Byte) (k : Word) : Bool :=
  let sig := dscWord d 2
  (List.range 3).all (fun i => dscN d i != 0) &&
  dscOpt d / 2 ^ 19 % 32 == 0 && (dscPsz d == 0 || (decide (6 ≤ dscPsz d) && decide (dscPsz d ≤ 21))) &&
  decide (dscPubm d ≤ 5) && (dscPubm d != 2 || k != 0) &&
  tagAny (dscStag d) && tagAny (dscDtag d) && tagPair (dscStag d) (dscDtag d) (dscN d 0) &&
  dscWord d 0 % 16 == 0 && decide (dscWord d 0 + 16 ≤ 0x20000) &&
  (sig == 0 || (counterAddr sig).isSome) && (dscWord d 1 == 0 || decide (dscPubm d ≤ 1))

/-- The command's own rules (R297-R306). -/
def dscOwn (fn : Nat) (d : List Byte) (a b : Word) : Bool :=
  let s := dscStag d
  let t := dscDtag d
  let sten (x : Nat) : Bool := x == 13 || x == 14 || x == 15
  let fmt := slice d 0x54 1
  let sn (i : Nat) : Nat := slice d (0x48 + 4 * i) 4
  match fn with
  | 0 => true
  | 1 => dscN d 2 == 1 && dscStride d 0 == 0 && dscStride d 1 == 0 && decide (a.toNat < 2 ^ 32)
  | 2 =>
    let dims := slice d 0x56 1
    let tab := slice d 0x40 8
    sten s && sten t && decide (1 ≤ dims) && decide (dims ≤ 3) && slice d 0x54 2 / 2 ^ 12 == 0 && tab % 64 == 0 &&
    decide (tab + 64 ≤ 0x20000) && (List.range 3).all (fun i => sn i != 0 && (decide (i < dims) || (dscN d i == 1 && sn i == 1)))
  | 3 => lists fmt && fmt / 16 == 0 && dscN d 2 == 1 && slice d 0x48 8 == 0
  | 4 => lists fmt && fmt / 16 != 3 && tagFloat s && tagFloat t
  | 5 => lists fmt && fmt / 16 == 0 && dscN d 2 == 1 && slice d 0x48 8 == 0 && fmt / 4 % 4 != 1
  | _ =>
    let mode := slice d 0x40 1
    dscN d 1 == 1 && dscN d 2 == 1 && s == 1 && t == 1 && a.toNat % 65536 == 0 && decide (mode ≤ 2) &&
    decide (slice d 0x41 1 < 4) && (if mode = 0 then b.toNat % 65536 == 0 else b == 0 && dscPubm d == 0)
where
  /-- fields that CP.G, CP.R and CP.X share (R303) -/
  lists (fmt : Nat) : Bool :=
    dscStride d 1 == 0 && dscStride d 3 == 0 && slice d 0x50 4 != 0 && fmt / 64 == 0 && fmt / 4 % 4 != 3

/-- Row 3 of R284. -/
def dscOk (fn : Nat) (d : List Byte) (k a b : Word) : Bool :=
  dscCommon d k && dscOwn fn d a b && (d.drop (dscEnd fn)).all (fun x => x == 0) && decide (dscBytes fn d ≤ 2 ^ 48)

/-- A legal follow-on word (R295): an FT word of MAJ 0x34, or of MAJ 0x35 with FN4 0-3. -/
def followLegal (w : Nat) : Bool :=
  w % 2 == 1 && (if fld w 1 6 = 0x34 then ((decodeMaj34 w).filter Instr.wf).isSome
    else fld w 1 6 == 0x35 && decide (fld w 28 4 ≤ 3) && ((decodeMaj35 w).filter Instr.wf).isSome)

/-! ## Byte barriers (R282, R310-R314) -/

/-- Row 1 of R284: the checks of a barrier reference in the order of R282. -/
def checkBarrier (k : Word) : M Unit := do
  if k = 0 then return ()
  check (k.toNat % 16 == 0) 3 k
  let s ← get
  let me := s.owner s.core.pos
  if k.toNat < 2 ^ 63 then
    match s.window k.toNat with
    | .own => pure ()
    | .coreMem p => check (s.owner p == me) 6 k
    | _ => raise 4 k
  else
    check (k.toNat / 2 ^ 48 % 2 ^ 15 == 0 && k.toNat / 2 ^ 17 % 2 ^ 15 == 0) 4 k
    match (s.region? me).bind (fun r => r.at? (k.toNat / 2 ^ 32 % 256) (k.toNat / 2 ^ 40 % 256)) with
    | none => raise 4 k
    | some p => check (s.owner p == me) 6 k

/-- A word of a barrier: in local memory, or in SWAP while its launch is suspended (R309). -/
def State.barrierPart (s : State) (b : BarRef) (i : Nat) : Nat :=
  match s.savedAt b.reg b.launch b.place with
  | some e => s.peekNat e.1 (e.2 + 8 * i) 8
  | none => s.getNat (b.place + 8 * i) 8

/-- Whether bytes of a core's local memory as the commands of a launch name it lie in an active workspace, where an engine does not
write them (R79): none of a suspended launch's do. -/
def State.localFenced (s : State) (q : RegionId) (seq place n : Nat) : Bool :=
  (s.savedAt q seq place).isNone && (s.coreAt (place / 2 ^ 17)).inWorkspace (place % 2 ^ 17) n

/-- Write bytes of a core's local memory as the commands of a launch name it (R309). -/
def State.writeLocal (s : State) (q : RegionId) (seq place : Nat) (bs : List Byte) : State :=
  match s.savedAt q seq place with
  | some e => s.poke e.1 e.2 bs
  | none => s.store place bs

/-- Whether a barrier is fenced off from engines (R79). -/
def State.barrierFenced (s : State) (b : BarRef) : Bool := s.localFenced b.reg b.launch b.place 16

/-- Write both words of a barrier. -/
def State.setBarrier (s : State) (b : BarRef) (w0 w1 : Nat) : State :=
  s.writeLocal b.reg b.launch b.place (leBytes 8 w0 ++ leBytes 8 w1)

/-- PEND changes by some bytes, modulo 2^56; the barrier is judged when the cycle ends (R311, R314). -/
def State.addPend (s : State) (b : BarRef) (delta : Int) : State :=
  let w := s.barrierPart b 0
  let pend := ((w % 2 ^ 56 : Nat) + delta) % 2 ^ 56
  let t := s.setBarrier b (w / 2 ^ 56 * 2 ^ 56 + pend.toNat) (s.barrierPart b 1)
  { t with judge := if t.judge.contains b then t.judge else b :: t.judge }

/-- An arrival of m bytes of a command of a batch at the barrier that it names (R311); none at a barrier in an active workspace
(R79). -/
def State.arrive (s : State) (b : Option BarRef) (m id : Nat) (batch : BitVec 32) : State :=
  match b with
  | some b =>
    if s.barrierFenced b then s
    else
      let t := s.addPend b (-(m : Int))
      { t with arrivals := (b, id, batch.toNat) :: t.arrivals.filter (fun e => e.1 != b) }
  | none => s

/-- The error of a failed command at the barrier that it names: ERR is set, and word 1 is written if ERR was 0 (R310, R313). -/
def State.barrierFail (s : State) (b : Option BarRef) (code high : Nat) : State :=
  match b with
  | none => s
  | some b =>
    let w := s.barrierPart b 0
    if w / 2 ^ 58 % 2 = 1 || s.barrierFenced b then s
    else s.setBarrier b (w + 2 ^ 58) (high % 2 ^ 32 * 2 ^ 32 + code)

/-! ## Commands -/

/-- PUBM of a command; CP.M in modes 1 and 2 publishes its mappings by itself. -/
def EngCmd.pubm (c : EngCmd) : Nat := dscPubm c.desc

/-- FN5 of a copy command. -/
def EngCmd.fn (c : EngCmd) : Nat := match c.kind with | .copy f => f | _ => 99

/-- A command of the network interface. -/
def EngCmd.isNet (c : EngCmd) : Bool := match c.kind with | .net _ => true | _ => false

/-- CP.M in mode 1 or 2. -/
def EngCmd.migrates (c : EngCmd) : Bool := c.fn == 6 && slice c.desc 0x40 1 != 0

/-- The publish group of a command (R317). -/
def EngCmd.group (s : State) (c : EngCmd) : Option PubKey :=
  match c.pubm with
  | 1 => some (.alone c.id)
  | 2 => (c.bar s).map .barrier
  | 3 => some (.batch c.core c.launch c.home c.batch)
  | 4 => some (.key c.core (dscPkey c.desc))
  | 5 => some (.launch c.region c.launch (dscPkey c.desc))
  | _ => none

/-- Change a command. -/
def State.modCmd (s : State) (id : Nat) (f : EngCmd → EngCmd) : State :=
  { s with cmds := s.cmds.map (fun c => if c.id = id then f c else c) }

/-- Whether the context of a command is resident on its core (R295, R309). -/
def State.resident (s : State) (core launch : Nat) (home : Word) : Bool :=
  let c := s.coreAt core
  c.launch == launch && c.cwp == home && c.hasWorkspace

/-! ## Publish groups (R317-R321) -/

/-- A publish group with nothing in it. -/
def PubGroup.empty (k : PubKey) : PubGroup := ⟨k, false, [], [], [], []⟩

/-- Change a publish group, opening it where it is not open. -/
def State.modPub (s : State) (k : PubKey) (f : PubGroup → PubGroup) : State :=
  if s.pubs.any (fun g => g.key == k) then { s with pubs := s.pubs.map (fun g => if g.key == k then f g else g) }
  else { s with pubs := s.pubs ++ [f (PubGroup.empty k)] }

/-- Uncharge shadow pages (R319). -/
def State.uncharge (s : State) (q : RegionId) (n : Nat) : State :=
  s.modRegion q (fun r => { r with pagesUsed := r.pagesUsed - n })

/-- The next access of every region to some pages raises LOSTPAGE (R404). -/
def State.lose (s : State) (pages : List Nat) : State :=
  { s with lostPages := pages ++ s.lostPages.filter (fun p => !pages.contains p), regions := s.regions.map (fun (r : Region) => { r with lost := pages ++ r.lost.filter (fun p => !pages.contains p) }) }

/-- Whether a batch record is that of a number and context. -/
def Batch.is (b : Batch) (n : BitVec 32) (launch : Nat) (home : Word) : Bool :=
  b.number == n && b.launch == launch && b.home == home

/-- Whether a command of a batch that has completed is still in an open publish group, whose discard would fail the batch (R296). -/
def State.awaitsGroup (s : State) (core launch : Nat) (home : Word) (n : BitVec 32) : Bool :=
  s.pubs.any (fun g => g.done.any (fun f => !f.failed && f.core == core && f.launch == launch && f.home == home && f.batch == n))

/-- The record of a batch that has finished without a failure is dropped, once nothing can fail the batch any more. -/
def State.dropBatch (s : State) (core launch : Nat) (home : Word) (n : BitVec 32) : State :=
  if s.awaitsGroup core launch home n then s
  else s.modCore core (fun c => { c with batches := c.batches.filter (fun b =>
    !(b.is n launch home && b.sealed && b.unfinished == 0 && !b.failed)) })

/-- Publish a group: every pair and every page is swapped in one step; the replaced pages become scrub-pending (R320). -/
def State.publish (s : State) (k : PubKey) : State :=
  match s.pubs.find? (fun g => g.key == k) with
  | none => s
  | some g =>
    let t := g.pages.foldl (fun t e =>
      let old := t.frame e.2.1
      (((t.release (framePlace old 0) 65536).remapPage e.2.1 e.2.2).uncharge e.1 1).lose (if g.worn.contains e.2.2 then [e.2.1] else [])) s
    let u := g.pairs.foldl (fun t e => t.modGroup e.1 (fun x =>
      { x with pairs := x.pairs.map (fun p => if p.base = e.2 then { p with upper := !p.upper } else p) })) t
    g.done.foldl (fun t f => t.dropBatch f.core f.launch f.home f.batch) { u with pubs := u.pubs.filter (fun g => g.key != k) }

/-- What a command that has left its engine leaves for its publish group (R321). -/
def EngCmd.finished (c : EngCmd) (failed : Bool) : Finished :=
  ⟨c.id, c.core, c.region, c.launch, c.home, c.batch, c.k, dscWord c.desc 0, c.bad.length, c.skipped, failed⟩

/-- The barrier that a completed command named. -/
def Finished.bar (s : State) (f : Finished) : Option BarRef := (s.barrierPlace f.core f.k).map (BarRef.mk f.region f.launch)

/-- Whether the status object of a command lies in an active workspace, where an engine does not write it (R79). -/
def State.statusFenced (s : State) (f : Finished) : Bool :=
  f.status != 0 && s.localFenced f.region f.launch (localPlace f.core f.status) 16

/-- The status object of a command (R293). -/
def State.writeStatus (s : State) (f : Finished) (code : Nat) (detail : Word) : State :=
  if f.status = 0 || s.statusFenced f then s
  else
    let w0 := min f.poisoned 0xFFFF * 2 ^ 48 + min f.skipped 0xFFFFFFFF * 2 ^ 16 + 2 ^ 8 + code
    s.writeLocal f.region f.launch (localPlace f.core f.status) (leBytes 8 w0 ++ leBytes 8 detail.toNat)

/-- Mark a batch failed (R296). -/
def State.failBatch (s : State) (core launch : Nat) (home : Word) (n : BitVec 32) : State :=
  s.modCore core (fun c => { c with batches := c.batches.map (fun b => if b.is n launch home then { b with failed := true } else b) })

/-- The hidden half of a shadowed pair loses the poison marks of a shadow that is discarded (R321). -/
def State.cleanPair (s : State) (g base : Nat) : State :=
  match (s.groupAt g).pairs.find? (fun r => r.base == base) with
  | some r => s.healed (spadPlace g (base + if r.upper then 0 else 2 ^ r.psz)) (2 ^ r.psz)
  | none => s

/-- Discard a group (R321): its shadow pages are released, marks of the shadow go with it, and its other commands record code 0x1F
at their status objects, batches and barriers (R296). -/
def State.discard (s : State) (k : PubKey) : State :=
  match s.pubs.find? (fun g => g.key == k) with
  | none => s
  | some g =>
    let t := g.pages.foldl (fun t e => (t.release (framePlace e.2.2 0) 65536).uncharge e.1 1) s
    let t := g.pairs.foldl (fun t e => t.cleanPair e.1 e.2) t
    let u := (g.done.filter (fun f => !f.failed)).foldl (fun t f =>
      ((t.writeStatus f 0x1F 0).failBatch f.core f.launch f.home f.batch).barrierFail (f.bar s) 0x1F f.batch.toNat) t
    let waits (c : EngCmd) : Bool := c.group s == some k && c.failed.isNone && c.arrived == c.total
    let u := (u.cmds.filter waits).foldl (fun t c => t.barrierFail (c.bar s) 0x1F c.batch.toNat) u
    { u with
      pubs := u.pubs.filter (fun g => g.key != k)
      cmds := u.cmds.map (fun c => if waits c then { c with failed := some (0x1F, 0) } else c) }

/-- Close a group: publish it, or discard it when a command of it failed. -/
def State.closeGroup (s : State) (k : PubKey) : State :=
  if s.pubs.any (fun g => g.key == k && g.failed) then s.discard k else s.publish k

/-! ## What a command touches (R289-R291) -/

/-- Width of an element as it is moved: C4 elements move as pairs in bytes. -/
def moveWidth (t : Nat) : Nat := if tagC4 t then 8 else tagWidth t

/-- Elements of a row. -/
def EngCmd.rowLen (c : EngCmd) : Nat :=
  if c.fn = 6 then dscN c.desc 0 * 65536 else if tagC4 (dscStag c.desc) then dscN c.desc 0 / 2 else dscN c.desc 0

/-- Rows of the destination. -/
def EngCmd.rows (c : EngCmd) : Nat :=
  match c.fn with
  | 0 | 2 => dscN c.desc 1 * dscN c.desc 2
  | 1 | 3 | 5 => dscN c.desc 1
  | 4 => dscN c.desc 2
  | _ => 1

/-- Address of source row r, for the commands whose rows are numbered so (R289). -/
def EngCmd.srcRow (c : EngCmd) (r : Nat) : Nat :=
  let n1 := if c.fn = 0 then dscN c.desc 1 else 2 ^ 64
  (c.a + BitVec.ofNat 64 (r % n1) * dscStride c.desc 0 + BitVec.ofNat 64 (r / n1) * dscStride c.desc 1).toNat

/-- Address of destination row r (R289). -/
def EngCmd.dstRow (c : EngCmd) (r : Nat) : Nat :=
  let n1 := if c.fn = 0 ∨ c.fn = 2 then dscN c.desc 1 else 2 ^ 64
  (c.b + BitVec.ofNat 64 (r % n1) * dscStride c.desc 2 + BitVec.ofNat 64 (r / n1) * dscStride c.desc 3).toNat

/-- Bytes of an index of a list (R303). -/
def EngCmd.indexSize (c : EngCmd) : Nat := 2 ^ (slice c.desc 0x54 1 % 4)
/-- Policy of a list command. -/
def EngCmd.policy (c : EngCmd) : Nat := slice c.desc 0x54 1 / 4 % 4
/-- IROWS. -/
def EngCmd.indexRows (c : EngCmd) : Nat := slice c.desc 0x50 4
/-- Address of list entry e. -/
def EngCmd.entryAddr (c : EngCmd) (e : Nat) : Nat := slice c.desc 0x40 8 + e * c.indexSize
/-- Entries of the list. -/
def EngCmd.entries (c : EngCmd) : Nat := if c.fn = 4 then dscN c.desc 1 * dscN c.desc 2 else dscN c.desc 1

/-- A value as an engine of the core finds it, without waiting. -/
def State.glance (s : State) (pos v n : Nat) : Nat :=
  match s.engineSpan pos v n n false with
  | .ok ((win, segs), _) => leNat (s.engineBytes pos win v n segs)
  | .error _ => 0

/-- The taps of an element of CP.S by a table: numerator, and source index in each dimension before the faces (R301). -/
def EngCmd.tapsBy (c : EngCmd) (table : List Byte) (i : List Nat) : List (Int × List Int) :=
  let num (t : Nat) : Int := intVal true 16 (slice table (0x40 + 2 * t) 2)
  let dims := slice c.desc 0x56 1
  let keep (o : List Int) : Bool := (o.drop dims).all (fun x => x == 0)
  let ix (d : Nat) : Int := i.getD d 0
  let all : List (Int × List Int × List Int) :=
    if slice table 0 1 = 1 then
      (List.range 27).map (fun t =>
        let o : List Int := [(t % 3 : Nat) - 1, (t / 3 % 3 : Nat) - 1, (t / 9 : Nat) - 1]
        (num t, o, (List.range 3).map (fun d => 2 * ix d + o.getD d 0)))
    else
      let p := i.getD 0 0 % 2 + 2 * (i.getD 1 0 % 2) + 4 * (i.getD 2 0 % 2)
      (List.range 8).map (fun t =>
        let o : List Int := [((t % 2 : Nat) : Int), ((t / 2 % 2 : Nat) : Int), ((t / 4 : Nat) : Int)]
        (num (8 * p + t), o, (List.range 3).map (fun d => ix d / 2 + o.getD d 0)))
  (all.filter (fun e => e.1 != 0 && keep e.2.1)).map (fun e => (e.1, e.2.2))

/-- The source index that a face policy gives; none for ZERO (R302). -/
def faceIndex (policy : Nat) (n : Nat) (v : Int) : Option Nat :=
  if 0 ≤ v ∧ v < n then some v.toNat
  else match policy with
    | 0 => none
    | 3 => some (v % n).toNat
    | p =>
      let w : Int := if p = 2 then (if v < 0 then -v else 2 * ((n : Int) - 1) - v) else v
      some (min (max w 0) ((n : Int) - 1)).toNat

/-- Address of the source element that a tap of CP.S reads; none where a ZERO face gives its value (R301, R302). -/
def EngCmd.tapAddr (c : EngCmd) (v : List Int) : Option Nat :=
  let idx := (List.range 3).map (fun d =>
    let x := v.getD d 0
    faceIndex (slice c.desc 0x54 2 / 2 ^ (4 * d + (if x < 0 then 0 else 2)) % 4) (slice c.desc (0x48 + 4 * d) 4) x)
  match idx with
  | [some x, some y, some z] =>
    let row := c.a + BitVec.ofNat 64 y * dscStride c.desc 0 + BitVec.ofNat 64 z * dscStride c.desc 1
    some ((row.toNat + x * (tagWidth (dscStag c.desc) / 8)) % 2 ^ 64)
  | _ => none

/-- The source granules that a CP.S with a table reads, by address. -/
def EngCmd.tapGranules (c : EngCmd) (table : List Byte) : List Nat :=
  (List.range (dscN c.desc 2)).foldl (fun a i2 => (List.range (dscN c.desc 1)).foldl (fun a i1 =>
    (List.range (dscN c.desc 0)).foldl (fun a i0 =>
      ((c.tapsBy table [i0, i1, i2]).filterMap (fun e => (c.tapAddr e.2).map (fun x => x / 64))).foldl
        (fun a x => if a.contains x then a else x :: a) a) a) a) []

/-- Source spans of a copy command, as its list now stands. -/
def EngCmd.sources (c : EngCmd) (s : State) : List (Nat × Nat) :=
  let zs := moveWidth (dscStag c.desc) / 8
  let row (a : Nat) : Nat × Nat := (a, c.rowLen * zs)
  let list := (c.entryAddr 0, c.entries * c.indexSize)
  let idx := (List.range c.entries).map (fun e => s.glance c.core (c.entryAddr e) c.indexSize)
  let table := (idx.filter (fun x => decide (x < c.indexRows))).map (fun x => row (c.srcRow x))
  match c.fn with
  | 0 => (List.range c.rows).map (fun r => row (c.srcRow r))
  | 2 =>
    let at_ := slice c.desc 0x40 8
    let n := 64 + 2 * (if s.glance c.core at_ 1 = 1 then 27 else 64)
    let table := if c.table.isEmpty then (List.range n).map (fun i => BitVec.ofNat 8 (s.glance c.core (at_ + i) 1)) else c.table
    (at_, n) :: (c.tapGranules table).map (fun g => (64 * g, 64))
  | 3 => list :: table
  | 4 => list :: ((if slice c.desc 0x48 8 = 0 then [] else [(slice c.desc 0x48 8, 4 * c.entries)]) ++ table)
  | 5 => list :: ((List.range c.rows).filter (fun r => decide (idx.getD r 0 < c.indexRows))).map (fun r => row (c.srcRow r))
  | 6 => [row c.a.toNat]
  | _ => []

/-- Destination spans of a copy command, by row; none for a row that an entry of CP.X skips, and for a row of CP.G that its policy
leaves unchanged (R304). -/
def EngCmd.targetRows (c : EngCmd) (s : State) : List (Option (Nat × Nat)) :=
  let n := c.rowLen * (moveWidth (dscDtag c.desc) / 8)
  let index (e : Nat) : Nat := s.glance c.core (c.entryAddr e) c.indexSize
  match c.fn with
  | 0 | 1 | 2 | 4 => (List.range c.rows).map (fun r => some (c.dstRow r, n))
  | 3 => (List.range c.rows).map (fun r => if c.policy = 0 ∧ c.indexRows ≤ index r then none else some (c.dstRow r, n))
  | 5 => (List.range c.rows).map (fun e => if index e < c.indexRows then some (c.dstRow (index e), n) else none)
  | 6 => if c.migrates then [] else [some (c.b.toNat, n)]
  | _ => []

/-- Destination spans of a copy command. -/
def EngCmd.targets (c : EngCmd) (s : State) : List (Nat × Nat) := (c.targetRows s).filterMap (fun e => e)

/-- Lines of the images that resolving positions of a node reads (R268), the positions given for its record. -/
def State.chainLines (s : State) (q : RegionId) (h : Nat) (positions : Node → List Nat) : List Nat :=
  match s.region? (s.tableOwner 8 q) with
  | none => []
  | some t =>
    match (do let (i, n) ← liveNode t h; pure (n, ← readChain t i) : L (Node × List Level)) s with
    | .error _ _ => []
    | .ok (n, ls) _ =>
      let gs := (positions n).foldl (fun a i => (readGranules ls i).foldl (fun a g => if a.contains g then a else g :: a) a) []
      gs.filterMap (fun g =>
        (ls.find? (fun l => l.idx == g.1)).bind (fun l =>
          if l.node.pages = 0 then none
          else match s.xlate 8 t.id (l.node.daddr + 64 * g.2) .load with
            | .ok x => some ((2 ^ 36 + x.pa) / 64)
            | .error _ => none))

/-- Positions of the block that a CP.L reads of a node (R298). -/
def EngCmd.block (c : EngCmd) (n : Node) : List Nat :=
  let r0 := slice c.desc 0x40 4
  let c0 := slice c.desc 0x44 4
  (List.range (dscN c.desc 1)).flatMap (fun r => ((List.range (dscN c.desc 0)).filter (fun k =>
    decide (r0 + r < n.rows) && decide (c0 + k < n.cols))).map (fun k => (r0 + r) * n.cols + (c0 + k)))

/-! ## Participants of a network command (R370) -/

/-- The participating cores of a launch. -/
def State.launchCores (s : State) (q : RegionId) (seq : Nat) : List Nat :=
  (((s.region? q).bind (fun r => r.launches.find? (fun l => l.seq == seq))).map Launch.cores).getD []

/-- A core in the order of rank within a package: ascending LY, then LX. -/
def insertRanked (rank : Nat → Nat) (p : Nat) : List Nat → List Nat
  | [] => [p]
  | q :: r => if rank p ≤ rank q then p :: q :: r else q :: insertRanked rank p r

/-- SCOPE of a network descriptor, none where it is 0 (R369). -/
def dscScope (d : List Byte) : Option Word := if slice d 0x48 4 = 0 then none else some (BitVec.ofNat 64 (slice d 0x48 4))

/-- SCOPE of a network command, clipped (R369). -/
def EngCmd.scope (s : State) (c : EngCmd) : Scope :=
  match s.region? c.region with
  | some r => scopeOf r (dscScope c.desc)
  | none => none

/-- The participants of a network command in its own package, in the order of rank (R370). -/
def EngCmd.netCores (s : State) (c : EngCmd) : List Nat :=
  match s.region? c.region with
  | none => []
  | some r =>
    let inside (p : Nat) : Bool := match c.scope s with | none => true | some q => rectHas q (r.logical p)
    ((s.launchCores c.region c.launch).filter inside).foldr (insertRanked r.indexOf) []

/-- PGRP. -/
def EngCmd.pgrp (c : EngCmd) : Nat := slice c.desc 0x43 1

/-- Own rank and number of packages of a command's group; none where the group is not installed (R369; log 20). -/
def EngCmd.packages (s : State) (c : EngCmd) : Option (Nat × Nat) :=
  if c.pgrp = 0 then some (0, 1)
  else (s.device.peers.find? (fun e => e.1 == c.pgrp)).map (fun e => (e.2.1, e.2.2.length))

/-- Rank of a command's core among all participants (R370). -/
def EngCmd.rank (s : State) (c : EngCmd) : Nat :=
  let here := c.netCores s
  here.idxOf c.core + ((c.packages s).map Prod.fst).getD 0 * here.length

/-- The lines that a command touches: line and write. -/
def EngCmd.touches (c : EngCmd) (s : State) : List (Nat × Bool) :=
  let lines (w : Bool) (sp : List (Nat × Nat)) : List (Nat × Bool) :=
    sp.flatMap (fun e => (s.linesAt c.core e.1 e.2 w).map (fun l => (l, w)))
  let img (h : Nat) (p : Node → List Nat) : List (Nat × Bool) := (s.chainLines c.region h p).map (fun l => (l, false))
  let all (n : Node) : List Nat := List.range n.total
  (match c.kind with
    | .copy 1 => img (handleOf c.a) c.block ++ lines true (c.targets s)
    | .copy _ => lines false (c.sources s) ++ lines true (c.targets s)
    | .lflat => img (handleOf c.a) all
    | .lrebase => img (handleOf c.a) all ++ img (handleOf c.b) all
    | .net f =>
      (if f = 3 ∧ c.rank s ≠ slice c.desc 0x44 4 then [] else lines false [(c.a.toNat, c.total)]) ++
        lines true [(c.b.toNat, c.total)]).eraseDups

/-! ## Issue (R281-R285) -/

/-- A command joins the open batch of its context (R285). -/
def Core.joinBatch (c : Core) : Core :=
  if c.batches.any (fun b => b.is c.cbatch c.launch c.cwp && !b.sealed) then
    { c with batches := c.batches.map (fun b =>
        if b.is c.cbatch c.launch c.cwp && !b.sealed then { b with unfinished := b.unfinished + 1 } else b) }
  else { c with batches := c.batches ++ [⟨c.cbatch, c.launch, c.cwp, 1, false, false⟩] }

/-- A place is named as a barrier or a status object: loads there are no data accesses from now on (R325). -/
def State.nameObject (s : State) (p : Nat) : State :=
  if s.objects.contains (p, 16) then s else { s with objects := (p, 16) :: s.objects }

/-- The barrier of a command is named. -/
def State.nameBarrier (s : State) (core : Nat) (k : Word) : State :=
  match s.barrierPlace core k with
  | some p => s.nameObject p
  | none => s

/-- The status object of a command is named. -/
def State.nameStatus (s : State) (core addr : Nat) : State := if addr = 0 then s else s.nameObject (localPlace core addr)

/-- Open a command of the current core: its batch, and its engine region (R285, R291). -/
def openCommand (kind : EngKind) (k a b : Word) (desc : List Byte) (total : Nat) (follow : Option CubeCmd) : M Unit := do
  let s ← get
  let c := s.core
  let cmd : EngCmd := {
    id := s.nextId, core := c.pos, region := s.owner c.pos, launch := c.launch, home := c.cwp,
    batch := c.cbatch, kind := kind, k := k, a := a, b := b, desc := desc, started := false, progress := 0, total := total,
    arrived := 0, bad := [], skipped := 0, published := false, failed := none, table := [], run := none, granules := [], moves := [],
    worn := [], by_ := none, result := [], resultPoison := [], follow := follow, marks := [] }
  let marks := (cmd.touches s).filter (fun m => !(m.2 && cmd.pubm != 0))
  set { s with nextId := s.nextId + 1, cmds := s.cmds ++ [{ cmd with marks := marks }], core := c.joinBatch }
  modify (fun s => (s.nameBarrier c.pos k).nameStatus c.pos (dscWord desc 0))

/-- Row 5 of R284: room for a command, and for its follow-on. -/
def copyRoom (follow : Bool) : M Unit := do
  let s ← get
  let mine := s.cmds.filter (fun c => c.core == s.core.pos && !c.isNet)
  let full := decide (7 ≤ s.lockers.length) || decide (16 ≤ (s.groupAt (groupOf s.core.pos)).queue.length)
  if 16 ≤ mine.length ∨ (follow && full) then throw (.stall 2) else pure ()

/-- A copy command (R281-R285). -/
def copyCommand (fn : Nat) (k a b c : BitVec 5) : State → Out :=
  issue 4 do
    let x ← readG a
    let y ← readG b
    let z ← readG c
    let r ← readG k
    checkBarrier r
    check (z.toNat % 64 == 0) 3 z
    check (decide (z.toNat + 128 ≤ 0x20000)) 4 z
    let d ← loadOwn 128 z.toNat
    check (dscOk fn d r x y) 11 z
    let f := dscWord d 1
    check (f == 0 || followLegal f) 1 (BitVec.ofNat 64 f)
    copyRoom (f != 0)
    let follow ← if f = 0 then pure none else some <$> captureCube f
    openCommand (.copy fn) r x y d (dscBytes fn d) follow

/-- CP (R297). -/
def execCp (k a b c : BitVec 5) : State → Out := copyCommand 0 k a b c
/-- CP.L (R298). -/
def execCpL (k a b c : BitVec 5) : State → Out := copyCommand 1 k a b c
/-- CP.S (R299). -/
def execCpS (k a b c : BitVec 5) : State → Out := copyCommand 2 k a b c
/-- CP.G (R303-R305). -/
def execCpG (k a b c : BitVec 5) : State → Out := copyCommand 3 k a b c
/-- CP.R (R303-R305). -/
def execCpR (k a b c : BitVec 5) : State → Out := copyCommand 4 k a b c
/-- CP.X (R303-R305). -/
def execCpX (k a b c : BitVec 5) : State → Out := copyCommand 5 k a b c
/-- CP.M (R306). -/
def execCpM (k a b c : BitVec 5) : State → Out := copyCommand 6 k a b c

/-- The barrier that the K field of a lineage command names: none for K = 0, else a local address, checked as WAITB checks it (R176,
R269). The answer is a reference of R282, which names the address 0 through the cluster window. -/
def localBarrier (k : BitVec 5) : M Word := do
  let r ← readG k
  if k = 0 then return 0
  check (r.toNat % 16 == 0) 3 r
  check (decide (r.toNat < 0x20000)) 4 r
  let pos := (← getC).pos
  pure (if r = 0 then BitVec.ofNat 64 (2 ^ 30 + clusterIndex pos * 2 ^ 17) else r)

/-- LFLAT (R269). -/
def execLflat (k a : BitVec 5) : State → Out :=
  issue 4 do
    let x ← readG a
    let r ← localBarrier k
    copyRoom false
    openCommand .lflat r x 0 [] 16 none

/-- LREBASE (R269). -/
def execLrebase (k a b : BitVec 5) : State → Out :=
  issue 4 do
    let x ← readG a
    let y ← readG b
    let r ← localBarrier k
    copyRoom false
    openCommand .lrebase r x y [] 16 none

/-! ## Batches (R307-R309) -/

/-- Whether a batch record is one of the resident context's. -/
def Core.owns (c : Core) (b : Batch) : Bool := b.launch == c.launch && b.home == c.cwp

/-- Sealed batches of the resident context that are unfinished. -/
def State.openBatches (s : State) (pos : Nat) : Nat :=
  let c := s.coreAt pos
  (c.batches.filter (fun b => c.owns b && b.sealed && b.unfinished != 0)).length

/-- The earliest-sealed batch of the resident context that has finished with a failed command not yet reported (R308). -/
def State.failedBatch (s : State) (pos : Nat) : Option (BitVec 32) :=
  let c := s.coreAt pos
  (c.batches.find? (fun b => c.owns b && b.sealed && b.unfinished == 0 && b.failed)).map Batch.number

/-- That batch counts as reported. -/
def State.reportBatch (s : State) (pos : Nat) : State :=
  s.modCore pos (fun c => match c.batches.find? (fun b => c.owns b && b.sealed && b.unfinished == 0 && b.failed) with
    | some b => { c with batches := c.batches.erase b }
    | none => c)

/-- Finish a batch if it is sealed and every command of it has completed: its PUBM 3 group is closed (R307). -/
def State.settleBatch (s : State) (core launch : Nat) (home : Word) (n : BitVec 32) : State :=
  match (s.coreAt core).batches.find? (fun b => b.is n launch home && b.sealed && b.unfinished == 0) with
  | none => s
  | some _ => (s.closeGroup (.batch core launch home n)).dropBatch core launch home n

/-- SEAL (R307). It waits while a 65th sealed batch would be unfinished: an open batch without an unfinished command finishes as it
is sealed. -/
def execSeal (d : BitVec 5) : State → Out :=
  issue 4 do
    let s ← get
    let c := s.core
    let n := c.cbatch
    let more := c.batches.any (fun b => b.is n c.launch c.cwp && !b.sealed && b.unfinished != 0)
    if more ∧ 64 ≤ s.openBatches c.pos then throw (.stall 2)
    writeG d (BitVec.ofNat 64 n.toNat) 1
    modC (fun c =>
      let mine := c.batches.filter (fun b => b.is n c.launch c.cwp && !b.sealed)
      let rest := c.batches.filter (fun b => !(b.is n c.launch c.cwp && !b.sealed))
      { c with
        cbatch := n + 1
        batches := rest ++ (if mine.isEmpty then [⟨n, c.launch, c.cwp, 0, true, false⟩]
                            else mine.map (fun b => { b with sealed := true })) })
    modify (fun s => s.settleBatch c.pos c.launch c.cwp n)

/-- WAITN (R308). A failed batch raises ENGINE at the satisfying moment, and counts as reported from then on. -/
def execWaitn (a : BitVec 5) : State → Out :=
  issueOwn do
    let s0 ← get
    let x ← readG a
    let s ← get
    let pos := s.core.pos
    if !s.core.suit.act && decide (s.openBatches pos ≤ x.toNat) then
      match s.failedBatch pos with
      | some n =>
        set (s0.reportBatch pos)
        throw (.trapHere 11 (BitVec.ofNat 64 n.toNat) 0)
      | none =>
        beginWait s0 (.batch (BitVec.ofNat 32 (min x.toNat (2 ^ 32 - 1))))
        modify State.endWait
    else beginWait s0 (.batch (BitVec.ofNat 32 (min x.toNat (2 ^ 32 - 1))))

/-! ## PUB and ARMB -/

/-- Whether a command of the core with PUBM 4 and a key is unfinished (R322). -/
def State.keyBusy (s : State) (pos k : Nat) : Bool :=
  s.cmds.any (fun c => c.core == pos && c.pubm == 4 && dscPkey c.desc == k)

/-- Batch of the earliest failed command of a group. -/
def PubGroup.failedBatch (g : PubGroup) : Option (BitVec 32) :=
  let fs := g.done.filter Finished.failed
  (fs.find? (fun f => fs.all (fun e => decide (f.id ≤ e.id)))).map Finished.batch

/-- Publish or discard the group of a key (R322): the batch of the earliest failed command when it is discarded. -/
def State.closeKey (s : State) (pos k : Nat) : State × Option (BitVec 32) :=
  (s.closeGroup (.key pos k), (s.pubs.find? (fun g => g.key == .key pos k && g.failed)).bind PubGroup.failedBatch)

/-- PUB (R322). -/
def execPub (a : BitVec 5) : State → Out :=
  issueOwn do
    check (!(← getC).timed) 1 (BitVec.ofNat 64 (Instr.encode (.pub a)))
    let s0 ← get
    let x ← readG a
    let k := x.toNat % 256
    let s ← get
    let pos := s.core.pos
    if !s.core.suit.act && !s.keyBusy pos k then
      match (s.closeKey pos k).2 with
      | some n =>
        set (s0.closeKey pos k).1
        throw (.trapHere 11 (BitVec.ofNat 64 n.toNat) 0)
      | none =>
        beginWait s0 (.pub k)
        modify (fun s => ((s.closeKey pos k).1.releaseMarks pos none).endWait)
    else beginWait s0 (.pub k)

/-- ARMB (R312). -/
def execArmb (a b : BitVec 5) : State → Out :=
  issue 4 do
    let x ← readG a
    let y ← readG b
    check (x.toNat % 16 == 0) 3 x
    check (decide (x.toNat < 0x20000)) 4 x
    let s ← get
    let p := localPlace s.core.pos x.toNat
    let bar : BarRef := ⟨s.owner s.core.pos, s.core.launch, p⟩
    let w := s.barrierPart bar 0
    check (decide (1 ≤ y.toNat) && decide (y.toNat < 2 ^ 55) && w / 2 ^ 57 % 2 == 0) 11 x
    let base := w % 2 ^ 57 + 2 ^ 57
    set (((s.nameObject p).setBarrier bar base 0).addPend bar y.toNat)

/-- The destination spans of a command whose bytes have not arrived: a row of CP.R arrives whole (R305). -/
def EngCmd.remaining (c : EngCmd) (s : State) : List (Nat × Nat) :=
  if c.isNet then [(c.b.toNat + c.progress, c.total - c.progress)]
  else
    let r := c.progress / c.rowLen
    let off := if c.fn = 4 then 0 else c.progress % c.rowLen * (moveWidth (dscDtag c.desc) / 8)
    match (c.targetRows s).drop r with
    | [] => []
    | here :: rest => (here.map (fun e => (e.1 + off, e.2 - off))).toList ++ rest.filterMap (fun e => e)

/-- The commands that name a barrier release the destination lines whose bytes have all landed (R334). -/
def State.endLanded (s : State) (b : BarRef) : State :=
  { s with cmds := s.cmds.map (fun c =>
      if c.bar s == some b then
        let left := (c.remaining s).flatMap (fun e => s.linesAt c.core e.1 e.2 true)
        { c with marks := c.marks.filter (fun m => !m.2 || left.contains m.1) }
      else c) }

end Sys2Proof.Machine
end

