-- ==== Sys2Proof/Machine/CopyEngine.lean ====
section
/-! DEFINITION. The copy engine at work: what a command reads and writes (R289-R306), shadows (R318-R319), failures (R296),
starts and completions (R290-R295), LFLAT and LREBASE (R269-R272). -/

namespace Sys2Proof.Machine

/-! ## Accesses of a command -/

/-- Why a command does not go on: none when it waits, else its failure code and detail (R296). -/
abbrev EFail := Option (Nat × Word)

/-- What a command does, step by step: the machine and the command. -/
abbrev EngM := EStateM EFail (State × EngCmd)

/-- Fail with a code at an address. -/
def engFail (code detail : Nat) : EngM α := throw (some (code, BitVec.ofNat 64 detail))

/-- Code of the cause with which an access is denied (R296, R422). -/
def failCode (cause : Nat) : Nat :=
  match cause with
  | 3 => 0x12
  | 4 => 0x11
  | 6 => 0x13
  | 12 => 0x15
  | 13 => 0x16
  | _ => 0x14

/-- Code of a denied access at v: an element in the mailbox window is in no window for an engine (R296). -/
def State.deniedCode (s : State) (pos v cause : Nat) : Nat :=
  if cause == 6 && (s.turn pos).window v == .mailbox then 0x11 else if cause == 12 then 0x1C else failCode cause

/-- An access to v for the element at address d is not performed: the command waits, or fails. -/
def engDenied (v d : Nat) (e : Denied) : EngM α := do
  let (s, c) ← get
  match e with
  | .wait => throw none
  | .silent l p w =>
    set (s.unheard l p w, c)
    throw none
  | .torn b _ =>
    set (s.untear b, c)
    engFail 0x16 d
  | .fail k _ _ => engFail (s.deniedCode c.core v k) d

/-- Read n bytes at v for the element at address d: their value, and whether a granule of them is poisoned, which only PPOI lets
pass, and never in a list or table (R296, R321). A guard tag that does not fit always fails (R324). -/
def engReadFor (d v n al : Nat) (strict : Bool) : EngM (Nat × Bool) := do
  let (s, c) ← get
  match s.engineSpan c.core v n al false with
  | .error e => engDenied v d e
  | .ok ((win, segs), t) =>
    if win == .mailbox then engFail 0x11 d
    match (if strict || !dscPpoi c.desc then t.engineBad segs else (t.tagFails segs).map (fun e => (13, e))) with
    | some (k, g, u) =>
      set (u, c)
      engFail (failCode k) g
    | none => pure ()
    set (t, { c with marks := joinMarks segs false c.marks })
    pure (leNat (t.engineBytes c.core win v n segs), (t.poisonIn segs).isSome)

/-- Read n bytes at v. -/
def engRead (v n al : Nat) (strict : Bool) : EngM (Nat × Bool) := engReadFor v v n al strict

/-- Read an element of z bytes at v. Its granule is read whole, once for the elements that follow each other in it (R320); `role` is
that of `EngCmd.granules`. -/
def engElem (role v z : Nat) (strict : Bool) : EngM (Nat × Bool) := do
  let (_, c) ← get
  if v % z ≠ 0 then engRead v z z strict
  else
    let a := v / 64 * 64
    let (x, bad) ← match c.granules.find? (fun e => e.1 == role && e.2.1 == a) with
      | some e => pure e.2.2
      | none => do
        let r ← engReadFor v a 64 64 strict
        modify (fun y => (y.1, { y.2 with granules := (role, a, r) :: y.2.granules.filter (fun e => e.1 != role) }))
        pure r
    pure (x / 2 ^ (8 * (v % 64)) % 2 ^ (8 * z), bad)

/-- An element as the destination holds it (R288). -/
def EngCmd.convert (c : EngCmd) (x : Nat) : Nat :=
  let s := dscStag c.desc
  let t := dscDtag c.desc
  if s = t ∨ s = 1 ∨ t = 1 then x else (laneConvert s t .rne x).1

/-- Address of element i of a row of elements of w bits. -/
def elemAddr (row i w : Nat) : Nat := (row + i * (w / 8)) % 2 ^ 64

/-- The element of a source row (R289). -/
def rowElem (row i : Nat) : EngM (Nat × Bool) := do
  let (_, c) ← get
  let w := moveWidth (dscStag c.desc)
  engElem 0 (elemAddr row i w) (w / 8) false

/-- Entry e of a command's list. -/
def listEntry (e : Nat) : EngM Nat := do
  let (_, c) ← get
  return (← engElem 1 (c.entryAddr e) c.indexSize true).1

/-- Check entries of a list under the FAULT policy (R304). -/
def checkEntries : Nat → Nat → EngM Unit
  | 0, _ => pure ()
  | n + 1, e => do
    let (_, c) ← get
    let x ← listEntry e
    if c.indexRows ≤ x then engFail 0x17 (c.entryAddr e)
    checkEntries n (e + 1)

/-! ## CP.S (R299-R302, R135) -/

/-- The source value of a tap: an element, or +0 by a ZERO face. -/
def tapValue (v : List Int) : EngM (Nat × Bool) := do
  let (_, c) ← get
  match c.tapAddr v with
  | some a => engElem 0 a (tagWidth (dscStag c.desc) / 8) false
  | none => pure (0, false)

/-- The exact terms of an element (R135). -/
def stencilTerms (F : Fmt) (shift : Nat) : List (Int × List Int) → EngM (List (Option Num) × Bool)
  | [] => pure ([], false)
  | (num, v) :: r => do
    let (x, bad) ← tapValue v
    let (ts, rest) ← stencilTerms F shift r
    pure (prodNums [decodeF F x, .fin (decide (num < 0)) num.natAbs (-(shift : Int))] :: ts, bad || rest)

/-- The exact sum of terms, rounded once; a NaN, or infinities of both signs, give the canonical NaN (R135). -/
def sumTerms (F : Fmt) (ts : List (Option Num)) : Nat :=
  if ts.any Option.isNone then canonical F
  else match sumNums (ts.filterMap id) with
    | some q => (roundNum F .rne q).1
    | none => canonical F

/-- The destination element (i0, r) of CP.S. -/
def stencilElem (r i : Nat) : EngM (Nat × Bool) := do
  let (_, c) ← get
  let n1 := dscN c.desc 1
  let (ts, bad) ← stencilTerms (tagFmt (dscStag c.desc)) (slice c.table 1 1) (c.tapsBy c.table [i, r % n1, r / n1])
  pure (sumTerms (tagFmt (dscDtag c.desc)) ts, bad)

/-- Read and check the stencil table (R299, R300). -/
def readTable : EngM Unit := do
  let (_, c) ← get
  let tab := slice c.desc 0x40 8
  let h := leBytes 64 (← engRead tab 64 64 true).1
  let kind := slice h 0 1
  let taps := if kind = 1 then 27 else 64
  if (kind ≠ 1 ∧ kind ≠ 2) ∨ 15 < slice h 1 1 ∨ slice h 2 2 ≠ taps ∨ (h.drop 4).any (fun x => x != 0) ∨
      0x20000 < tab + 64 + 2 * taps then engFail 0x1D tab
  let body := leBytes (2 * taps) (← engRead (tab + 64) (2 * taps) 64 true).1
  modify (fun x => (x.1, { x.2 with table := h ++ body }))

/-! ## CP.R (R136, R305) -/

/-- One step of a reduction: a NaN or an invalid step gives the canonical NaN from there on. -/
def reduceStep (acc w x : Nat) : Nat :=
  if acc = 0x7FC00000 then acc
  else
    let r := (ffma fp32 w x acc).1
    if (decodeF fp32 r).isNan then 0x7FC00000 else r

/-- The sum over n entries from entry e on, of column i. -/
def reduceFrom (i : Nat) : Nat → Nat → Nat → Bool → EngM (Nat × Bool)
  | 0, _, acc, bad => pure (acc, bad)
  | n + 1, e, acc, bad => do
    let (_, c) ← get
    let x ← listEntry e
    if c.indexRows ≤ x ∧ c.policy = 0 then reduceFrom i n (e + 1) acc bad
    else
      if c.indexRows ≤ x ∧ c.policy = 2 then engFail 0x17 (c.entryAddr e)
      let (v, p) ← if c.indexRows ≤ x then pure (0, false) else rowElem (c.srcRow x) i
      let f := if c.indexRows ≤ x ∨ dscStag c.desc = 15 then v else (laneConvert (dscStag c.desc) 15 .rne v).1
      let wl := slice c.desc 0x48 8
      let w ← if wl = 0 then pure 0x3F800000 else Prod.fst <$> engElem 2 (wl + 4 * e) 4 true
      reduceFrom i n (e + 1) (reduceStep acc w f) (bad || p)

/-- Column i of the output row of bag g. -/
def reduceElem (g i : Nat) : EngM (Nat × Bool) := do
  let (_, c) ← get
  let n1 := dscN c.desc 1
  let (acc, bad) ← reduceFrom i n1 (g * n1) 0 false
  pure (if dscDtag c.desc = 15 then acc else (laneConvert 15 (dscDtag c.desc) .rne acc).1, bad)

/-- Entries of a bag that its policy skips (R304). -/
def skippedIn : Nat → Nat → EngM Nat
  | 0, _ => pure 0
  | n + 1, e => do
    let (_, c) ← get
    let x ← listEntry e
    return (if c.indexRows ≤ x then 1 else 0) + (← skippedIn n (e + 1))

/-! ## CP.L (R298, R266) -/

/-- The chain of a snapshot. -/
def Snapshot.chain (x : Snapshot) : List Level :=
  x.nodes.map (fun i =>
    let find (l : List (Nat × List Byte)) : List Byte := ((l.find? (fun e => e.1 == i)).map Prod.snd).getD []
    let n := Node.ofBytes (find x.records)
    let img := find x.images
    let of_ {α : Type} (l : List (Nat × α)) : List α := (l.filter (fun e => e.1 == i)).map Prod.snd
    ⟨i, n, img, n.listed img, of_ x.poison, of_ x.lost, of_ x.torn⟩)

/-- A snapshot of chains for a command (R266). -/
def snapshotOf (id : Nat) (t : Region) (ls : List Level) : Snapshot where
  owner := id
  home := none
  table := t.id
  nodes := ls.map Level.idx
  records := ls.map (fun l => (l.idx, l.node.bytes))
  images := ls.map (fun l => (l.idx, l.img))
  poison := ls.flatMap (fun l => l.poison.map (fun g => (l.idx, g)))
  lost := ls.flatMap (fun l => l.lost.map (fun g => (l.idx, g)))
  torn := ls.flatMap (fun l => l.torn.map (fun g => (l.idx, g)))

/-- The snapshot of a command. -/
def State.snapOf (s : State) (id : Nat) : Option Snapshot := s.snaps.find? (fun x => x.owner == id)

/-- Element (n, k) of a chain as a command reads it; positions outside are zero. -/
def nodeElem (ls : List Level) (n k : Nat) : EngM (Nat × Bool) := do
  let (s, c) ← get
  match ls.head? with
  | none => pure (0, false)
  | some l =>
    if l.node.rows ≤ n ∨ l.node.cols ≤ k then pure (0, false)
    else
      let i := n * l.node.cols + k
      match if ls.any (fun l => !l.lost.isEmpty) then lostElem ls i else none with
      | some a => engFail 0x14 a
      | none =>
        match poisonedElem ls i, tornElem ls i with
        | some a, none => if dscPpoi c.desc then pure (contentAt ls i, true) else engFail 0x15 a
        | some a, some (b, g) =>
          if !dscPpoi c.desc then engFail 0x15 a
          set (s.untear b, c)
          engFail 0x16 g
        | none, some (b, g) =>
          set (s.untear b, c)
          engFail 0x16 g
        | none, none => pure (contentAt ls i, false)

/-- Element i of row r of a CP.L; C4 elements in pairs. -/
def blockElem (r i : Nat) : EngM (Nat × Bool) := do
  let (s, c) ← get
  let ls := ((s.snapOf c.id).map Snapshot.chain).getD []
  let row := slice c.desc 0x40 4 + r
  let col := slice c.desc 0x44 4
  if tagC4 (dscStag c.desc) then
    let (x, p) ← nodeElem ls row (col + 2 * i)
    let (y, q) ← nodeElem ls row (col + 2 * i + 1)
    pure (x + 16 * y, p || q)
  else nodeElem ls row (col + i)

/-! ## Landing (R289, R296, R311, R319) -/

/-- Element i of destination row r. -/
def destElem (r i : Nat) : EngM (Nat × Bool) := do
  let (_, c) ← get
  let conv (x : Nat × Bool) : Nat × Bool := (c.convert x.1, x.2)
  match c.fn with
  | 1 => return conv (← blockElem r i)
  | 2 => stencilElem r i
  | 3 =>
    let x ← listEntry r
    if x < c.indexRows then return conv (← rowElem (c.srcRow x) i) else pure (0, false)
  | 4 => reduceElem r i
  | _ => return conv (← rowElem (c.srcRow r) i)

/-- What an attempt that fails or waits leaves of the machine: a guard tag that did not fit counts as reported (R324), a link knows of
its unanswered request (R422), and telemetry has the decoder's stop (R418). -/
def State.reported (s t : State) : State :=
  { s with corrupt := t.corrupt, free := t.free, inputs := t.inputs,
           device := { s.device with links := t.device.links, telemetry := t.device.telemetry } }

/-- Elements i to i + n − 1 of a row, as far as they can be had; then why not further. A failure after other elements is met again,
and reported, when it comes first. -/
def collectElems (r : Nat) : Nat → Nat → State × EngCmd → List (Nat × Bool) × Option EFail × (State × EngCmd)
  | 0, _, st => ([], none, st)
  | n + 1, i, st =>
    match destElem r i st with
    | .error e u => ([], some e, (st.1.reported u.1, st.2))
    | .ok x st' =>
      let (xs, e, st'') := collectElems r n (i + 1) st'
      (x :: xs, e, (st''.1.reported st.1, st''.2))

/-- The place that a shadowed write of a piece goes to, with the shadow made where it is the group's first write there (R318,
R319); a code where no shadow is possible. -/
def State.shadowPlace (s : State) (c : EngCmd) (key : PubKey) (win : Win) (e : Seg) : Except Nat (Nat × State) :=
  match win with
  | .virt =>
    let page := linePage (e.home / 64)
    if dscPsz c.desc ≠ 0 then .error 0x19
    else match s.xlate 8 c.region e.addr .store with
      | .error _ => .error 0x14
      | .ok x =>
        if x.size = 2 ^ 25 then .error 0x19
        else if s.pubs.any (fun g => g.key != key && g.pages.any (fun p => p.2.1 == page)) then .error 0x19
        else
          match (s.pubs.find? (fun g => g.key == key)).bind (fun g => g.pages.find? (fun p => p.2.1 == page)) with
          | some p => .ok (framePlace p.2.2 (e.home % 65536), s)
          | none =>
            match s.region? c.region with
            | none => .error 0x18
            | some r =>
              if r.pages < r.pagesUsed + 1 then .error 0x18
              else
                let f := s.nextFrame
                let t := ({ s with nextFrame := f + 1 }.copyFrame (s.frame page) f).modRegion c.region
                  (fun r => { r with pagesUsed := r.pagesUsed + 1 })
                .ok (framePlace f (e.home % 65536), t.modPub key (fun g => { g with pages := (c.region, page, f) :: g.pages }))
  | .spad g =>
    let psz := dscPsz c.desc
    let off := e.home - spadPlace g 0
    let base := off / 2 ^ (psz + 1) * 2 ^ (psz + 1)
    let regs := (s.groupAt g).pairs
    if psz = 0 then .error 0x19
    else
      let known := regs.any (fun p => p.base == base && p.psz == psz)
      let clash := regs.any (fun p => !(p.base == base && p.psz == psz) &&
        decide (p.base < base + 2 ^ (psz + 1)) && decide (base < p.base + 2 ^ (p.psz + 1)))
      if clash || (!known && decide (16 ≤ regs.length)) then .error 0x19
      else if base + 2 ^ psz < off + e.len then .error 0x13
      else if s.pubs.any (fun x => x.key != key && x.pairs.contains (g, base)) then .error 0x19
      else
        let s := if known then s else s.modGroup g (fun x => { x with pairs := ⟨base, psz, c.region, false⟩ :: x.pairs })
        let upper := (((s.groupAt g).pairs.find? (fun p => p.base == base)).map PairReg.upper).getD false
        let half (u : Bool) : Nat := spadPlace g (base + if u then 2 ^ psz else 0)
        let at_ := half (!upper) + (off - base)
        if s.pubs.any (fun x => x.key == key && x.pairs.contains (g, base)) then .ok (at_, s)
        else
          let t := s.setBytes (half (!upper)) (s.getBytes (half upper) (2 ^ psz))
          let bad := (List.range (2 ^ psz / 64)).filter (fun k => s.poisoned (half upper + 64 * k))
          let u := bad.foldl (fun u k => u.poisonGranule (half (!upper) + 64 * k)) (t.healed (half (!upper)) (2 ^ psz))
          .ok (at_, u.modPub key (fun x => { x with pairs := (g, base) :: x.pairs }))
  | _ => .error 0x19

/-- Write bytes of one destination granule at v, poisoned or not. Bytes that cross from another die carry a guard tag (R324). -/
def engWrite (v al : Nat) (bs : List Byte) (bad crossing : Bool) : EngM Unit := do
  let (s, c) ← get
  match s.asEngine c.core (engineRows v bs.length al .store) with
  | .error e => engDenied v v e
  | .ok ((win, segs), t) =>
    if win == .mailbox then engFail 0x11 v
    match if crossing then t.tornWrite bs segs else none with
    | some (b, a) =>
      set (s.untear b, c)
      engFail 0x16 a
    | none => pure ()
    match c.group s, segs with
    | some key, [e] =>
      if (Seg.lines e).any (fun l => s.heldUp c.core l.1 false) then throw none
      match t.shadowPlace c key win e with
      | .error code => engFail code v
      | .ok (p, u) =>
        let u := u.store p bs
        set (if bad then (u.poisonGranule p, { c with bad := if c.bad.contains (p / 64) then c.bad else p / 64 :: c.bad })
             else (u, c))
    | some _, _ => engFail 0x19 v
    | none, _ =>
      if segs.any t.fenced then engFail 0x1B v
      if (segs.flatMap Seg.lines).any (fun l => s.heldUp c.core l.1 true) then throw none
      let u := t.engineStore bs segs
      let d := { c with marks := joinMarks segs true c.marks }
      set (if bad then
             (segs.foldl (fun u e => u.poisonGranule e.place) u,
              { d with bad := (segs.map (fun e => e.place / 64)).foldl (fun a g => if a.contains g then a else g :: a) d.bad })
           else (u, d))

/-- A frame goes back to a free store, its content and its poison gone (R396, R419). -/
def State.giveBack (s : State) (hbm : Bool) (f : Nat) : State :=
  let t := { s with compressed := s.compressed.filter (fun e => e.1 != f) }.release (framePlace f 0) 65536
  if hbm then t.modDevice (fun d => { d with freeHbm := f :: d.freeHbm }) else t.modDevice (fun d => { d with freeCap := f :: d.freeCap })

/-- Whether a CP.M promotes. -/
def EngCmd.promotes (c : EngCmd) : Bool := slice c.desc 0x40 1 == 1

/-- A command gives its page frames back to the free store they came from (R419). -/
def State.returnFrames (s : State) (c : EngCmd) : State := c.moves.foldl (fun t m => t.giveBack c.promotes m.2) s

/-- A failure met by the engine (R296): the barrier takes its error and the remaining bytes, the publish group fails, the
follow-on is dropped. An over-arrival has discarded the barrier's group already (R313). -/
def State.failCommand (s : State) (c : EngCmd) (code : Nat) (detail : Word) (handle : Nat) : State :=
  let t := s.barrierFail (c.bar s) code (if code ≤ 0x0C then handle else c.batch.toNat)
  let t := if c.arrived < c.total then t.arrive (c.bar s) (c.total - c.arrived) c.id c.batch else t
  let t := t.returnFrames c
  let t := match c.group s with
    | some key => if code = 0x1A ∧ c.pubm = 2 then t else t.modPub key (fun g => { g with failed := true })
    | none => t
  t.modCmd c.id (fun c => { c with failed := some (code, detail), arrived := c.total, follow := none, moves := [] })

/-- A command goes on: it has landed some elements of which m bytes arrive. It fails where its barrier stands in an active workspace
(R79). -/
def State.landed (s : State) (c : EngCmd) (elems m : Nat) : State :=
  let d := { c with progress := c.progress + elems, arrived := c.arrived + m }
  let t := (if m = 0 then s else s.arrive (c.bar s) m c.id c.batch).modCmd c.id (fun _ => d)
  if m ≠ 0 ∧ (c.bar s).any s.barrierFenced then t.failCommand d 0x1B c.k 0 else t

/-- What a body of the engine leads to: none when it waits. -/
def State.engRun (s : State) (c : EngCmd) (body : EngM (Nat × Nat)) : Option State :=
  match body (s, c) with
  | .ok (elems, m) (t, d) => some (t.landed d elems m)
  | .error none u => if u.1.device.links = s.device.links then none else some { s.reported u.1 with free := u.1.free + 1 }
  | .error (some (code, detail)) u => some ((s.reported u.1).failCommand c code detail (handleOf c.a))

/-- The next destination bytes of a copy command land: the elements of a row that lie in one destination granule, in transfer
order, up to the first that cannot be had (R289, R296). -/
def landElems : EngM (Nat × Nat) := do
  let (s, c) ← get
  let n := c.rowLen
  let r := c.progress / n
  let i := c.progress % n
  let zd := moveWidth (dscDtag c.desc) / 8
  let x ← if c.fn = 3 ∨ c.fn = 5 then listEntry r else pure 0
  let out := (c.fn = 3 ∨ c.fn = 5) ∧ c.indexRows ≤ x
  if out ∧ c.policy = 2 then engFail 0x17 (c.entryAddr r)
  if out ∧ c.policy = 0 then
    set (s, { c with skipped := c.skipped + 1 })
    return (n, n * zd)
  let v := elemAddr (if c.fn = 5 then c.dstRow x else c.dstRow r) i (8 * zd)
  let room := max 1 ((64 - v % 64) / zd)
  let (xs, err, st) := collectElems r (min (n - i) room) i (s, c)
  set st
  match xs, err with
  | [], some e => throw e
  | _, _ =>
    engWrite v zd (packElems (8 * zd) (xs.map Prod.fst)) (xs.any Prod.snd) false
    if c.fn = 4 then
      if i = 0 ∧ c.policy = 0 then
        let k ← skippedIn (dscN c.desc 1) (r * dscN c.desc 1)
        modify (fun y => (y.1, { y.2 with skipped := y.2.skipped + k }))
      pure (xs.length, if i + xs.length = n then n * zd else 0)
    else pure (xs.length, xs.length * zd)

/-- Poisoned granules of a frame, by offset. -/
def State.frameBad (s : State) (f : Nat) : List Nat :=
  (List.range 1024).filter (fun k => s.poisoned (framePlace f (64 * k)))

/-- A request of a command to a frame behind a link, which its expander may leave unanswered (R422). -/
def engAnswered (frame page : Nat) (write : Bool) : EngM Unit := do
  let (s, c) ← get
  match linkOf frame with
  | none => pure ()
  | some l =>
    if s.unanswered frame then
      set (s.unheard l page write, c)
      throw none
    if s.mayBeSilent l then set ({ s with free := s.free + 1 }, c)

/-- The 64 KiB of a compressed page as the decoder expands them: a fault of the expander or the link, where it comes next, may strike
this page (R418). -/
def State.decoded (s : State) (page : Nat) : Except Nat (List Byte) × State :=
  let plain := s.expanded (s.frame page)
  match s.inputs with
  | .decoderWatchdog p code :: rest =>
    if p = page ∧ (code = 3 ∨ code = 4) then
      (if Config.pick s.free % 2 = 1 then (.error code, { s with free := s.free + 1, inputs := rest })
       else (plain, { s with free := s.free + 1 }))
    else (plain, s)
  | _ => (plain, s)

/-- A moved page has landed in a frame (R306): its poisoned granules count as written poisoned. -/
def landMove (page f : Nat) (t : State) : EngM (Nat × Nat) := do
  let (_, c) ← get
  set (t, { c with moves := (page, f) :: c.moves, bad := (t.frameBad f).map (fun k => framePlace f (64 * k) / 64) ++ c.bad })
  pure (1, 65536)

/-- A page is promoted into an HBM5 frame (R419). -/
def promoteMove (page v : Nat) : EngM (Nat × Nat) := do
  let (s, c) ← get
  let old := s.frame page
  let bad := s.frameBad old
  let (r, s) := if s.isCompressed old then s.decoded page else (.ok [], s)
  match r with
  | .error code =>
    if !dscPpoi c.desc then
      set (s.record (.decoderStop page code), c)
      engFail 0x15 v
  | .ok _ => pure ()
  if !bad.isEmpty && !dscPpoi c.desc then engFail 0x15 (v + 64 * bad.headD 0)
  match s.device.freeHbm with
  | [] => engFail 0x24 v
  | f :: fs =>
    let t := s.modDevice (fun d => { d with freeHbm := fs })
    landMove page f (if s.isCompressed old then t.layInto page f r else t.copyFrame old f)

/-- A page is demoted into a frame of the capacity tier, compressed where R416 allows it (R419). -/
def demoteMove (page v : Nat) : EngM (Nat × Nat) := do
  let (s, c) ← get
  let old := s.frame page
  let bad := s.frameBad old
  if !bad.isEmpty && !dscPpoi c.desc then engFail 0x15 (v + 64 * bad.headD 0)
  match s.device.freeCap with
  | [] => engFail 0x24 v
  | f :: fs =>
    if s.frameIsolated f then engFail 0x1C v
    engAnswered f page true
    let (s, _) ← get
    let t := s.modDevice (fun d => { d with freeCap := fs })
    let img := packPage (s.getBytes (framePlace old 0) 65536)
    landMove page f (if bad.isEmpty && decide (img.length ≤ 57344) then
        { (t.setBytes (framePlace f 0) img).healed (framePlace f 0) 65536 with compressed := (f, img.length) :: t.compressed }
      else t.copyFrame old f)

/-- The next page of a CP.M in mode 1 or 2 is moved into a new frame (R306, R419); one that another command is moving is waited for
(R420). -/
def landPage : EngM (Nat × Nat) := do
  let (s, c) ← get
  let v := elemAddr c.a.toNat (c.progress * 65536) 8
  if v < 2 ^ 32 ∨ 2 ^ 48 ≤ v then engFail 0x11 v
  match s.xlate 8 c.region v .load with
  | .error f => engFail (if f.perm then 0x13 else 0x14) v
  | .ok x =>
    let page := x.pa / 65536
    let old := s.frame page
    if (linkOf old).isSome != c.promotes || c.moves.any (fun m => m.1 == page) then return (1, 65536)
    if s.promoting page then throw none
    if s.frameIsolated old then engFail 0x1C v
    engAnswered old page false
    let (s, c) ← get
    if s.marks.any (fun m => decide (2 ^ 36 ≤ m.line * 64) && linePage m.line == page && m.wcore != c.core && m.activeFor s c.core) then
      throw none
    match s.pageTorn page v with
    | some (b, a) =>
      set (s.untear b, c)
      engFail 0x16 a
    | none => pure ()
    if c.promotes then promoteMove page v else demoteMove page v

/-- Elements or pages that a command lands. -/
def EngCmd.units (c : EngCmd) : Nat :=
  match c.kind with
  | .copy _ => if c.migrates then dscN c.desc 0 else c.rows * c.rowLen
  | .net _ => c.total
  | _ => 0

/-! ## Start (R290) -/

/-- The failure of a lineage operation of a command: code, detail, handle (R247, R278, R296). DESIGN CHOICE (log 91): DETAIL is 0 where
no element, granule or entry fails. -/
def LinErr.code : LinErr → Option (Nat × Word × Nat)
  | .reason r h => some (r, 0, h)
  | .page f => some (0x14, BitVec.ofNat 64 (f.addr / 65536 * 65536), 0)
  | .budget _ => some (0x18, 0, 0)
  | .poison a => some (0x15, BitVec.ofNat 64 a, 0)
  | .integrity _ a => some (0x16, BitVec.ofNat 64 a, 0)
  | .pending => none

/-- Run a lineage operation at the start of a command, which answers what becomes of the command: none when it waits. -/
def State.engLin (s : State) (c : EngCmd) (x : L EngCmd) : Option (State × EngCmd) :=
  match x s with
  | .ok d t => some (t.modCmd c.id (fun _ => d), d)
  | .error e _ => e.code.map (fun f => ((e.reported s).failCommand c f.1 f.2.1 f.2.2, c))

/-- The table that a command's region uses. -/
def State.tableFor (s : State) (c : EngCmd) : Option Region := s.region? (s.tableOwner 8 c.region)

/-- The bound of R268 on a CP.L, in ticks: Dᵢ counts the granules that its block reads at a level. -/
def State.blockTime (s : State) (c : EngCmd) (n : Node) (ls : List Level) : Nat :=
  let granules := ((c.block n).flatMap (readGranules ls)).eraseDups
  let level (l : Level) : Nat := s.copyTime c.region (64 * (granules.filter (fun g => g.1 == l.idx)).length)
  ls.length * s.copyTime c.region c.total + ((ls.map level).sum) + 1000 * (ls.length - 1)

/-- CP.L at its start: its node is live and has the tag STAG; the snapshot is taken (R298). What it cannot read of the snapshot fails
it when it comes to an element that needs it (R268, R296). -/
def startBlock (t : Region) (c : EngCmd) : L EngCmd := do
  let h := handleOf c.a
  let (i, n) ← liveNode t h
  if n.tag ≠ dscStag c.desc then linFail 4 h
  let ls ← readChain t i
  let s ← get
  set { s with snaps := snapshotOf c.id t ls :: s.snaps }
  pure { c with by_ := some (s.now + 12 * s.blockTime c n ls) }

/-- The checks of LFLAT: the node, and whether it is DENSE already (R270). -/
def flatNode (t : Region) (c : EngCmd) : L (Nat × Node) := do
  let h := handleOf c.a
  let (i, n) ← liveNode t h
  mayChange c.region h n
  pure (i, n)

/-- The checks of LREBASE (R271): both nodes. -/
def rebaseNodes (t : Region) (c : EngCmd) : L ((Nat × Node) × (Nat × Node)) := do
  let ha := handleOf c.a
  let hb := handleOf c.b
  let (i, n) ← liveNode t ha
  mayChange c.region ha n
  let (j, m) ← liveNode t hb
  if n.rows ≠ m.rows ∨ n.cols ≠ m.cols ∨ n.tag ≠ m.tag then linFail 4 ha
  let s ← get
  if s.nodeBelow t i 9 j then linFail 7 ha
  let height := (s.descendants t i).foldl (fun a k => max a ((s.nodeAt t k).depth - n.depth)) 0
  if 7 < m.depth + 1 + height then linFail 3 ha
  pure ((i, n), (j, m))

/-- LFLAT and LREBASE wait for a PENDING node that they would change, or that is to change a node of theirs: their own, an ancestor, a
descendant (R269). -/
def settledAround (t : Region) (i : Nat) : L Unit := do
  let up ← chainOf t 9 i
  let s ← get
  if up.any (fun e => e.2.pending) || (s.descendants t i).any (fun k => (s.nodeAt t k).pending) then throw .pending

/-- The image that LFLAT gives a node (R270). -/
def flatImage (t : Region) (i : Nat) (n : Node) : L (Nat × List Byte × Nat) := do
  let ls ← readChain t i
  let all := List.range n.total
  readContent t ls all
  pure (0, denseImage n.width (all.map (contentAt ls)), 0)

/-- The image that LREBASE gives a node over another (R271). -/
def rebaseImage (t : Region) (i j : Nat) (n : Node) : L (Nat × List Byte × Nat) := do
  let la ← readChain t i
  let lb ← readChain t j
  let all := List.range n.total
  readContent t la all
  readContent t lb all
  pure (deltaImage n (all.filter (fun k => contentAt la k != contentAt lb k)) (contentAt la) false)

/-- Pages for a new image of a node, charged to its owner (R278). -/
def takeImage (t : Region) (c : EngCmd) (i : Nat) (n : Node) (img : Nat × List Byte × Nat) : L (Option Nat) := do
  some <$> takeRun t i (BitVec.ofNat 16 n.owner) (imagePages img.1 img.2.2 img.2.1.length) (handleOf c.a)

/-- LFLAT and LREBASE at their start: the checks, the pages of the new image, and PENDING (R269, R278). LFLAT of a DENSE node is done
with that (R270). -/
def startLineage (t : Region) (c : EngCmd) : L EngCmd := do
  match c.kind with
  | .lflat =>
    let (i, n) ← flatNode t c
    settledAround t i
    if n.kind = 0 then pure { c with arrived := 16 }
    else
      let run ← takeImage t c i n (← flatImage t i n)
      putNode t i { n with pending := true }
      pure { c with run := run }
  | _ =>
    let ((i, n), (j, m)) ← rebaseNodes t c
    settledAround t i
    settled m
    let run ← takeImage t c i n (← rebaseImage t i j n)
    putNode t i { n with pending := true }
    pure { c with run := run }

/-- Lines that a command reads and writes, as the order of R290 sees them: shadowed destinations and moved pages count as
written. -/
def EngCmd.footprint (c : EngCmd) (s : State) : List (Nat × Bool) :=
  c.marks ++ (c.touches s).map (fun m => (m.1, m.2 || c.migrates))

/-- Whether a command may start: in the order of issue, every earlier timed store landed (R334), and after the earlier commands
that it overlaps (R290); a snapshot is taken after the core's earlier lineage operations (R267). -/
def State.mayStart (s : State) (c : EngCmd) : Bool :=
  (c.kind != .copy 1 || !s.lineageAhead c.core c.id) &&
  let before := s.cmds.filter (fun e => e.core == c.core && decide (e.id < c.id))
  !c.started && !c.isNet && c.failed.isNone && before.all (fun e => e.started || e.isNet) && s.later.all (fun e => e.core != c.core) &&
  !s.countFull c.id c.marks &&
  (let mine := c.footprint s
   before.all (fun e => (e.footprint s).all (fun m => mine.all (fun k => k.1 != m.1 || (!k.2 && !m.2)))))

/-! ## Completion (R292-R295) -/

/-- The new mappings of CP.M are published in one step; the old frames go to the other free store (R306, R419). A page that has left
its tier meanwhile stays where it is. -/
def State.publishMoves (s : State) (c : EngCmd) : State :=
  c.moves.foldl (fun t e =>
    let old := t.frame e.1
    if (linkOf old).isSome != c.promotes then t.giveBack c.promotes e.2
    else ((t.giveBack (!c.promotes) old).remapPage e.1 e.2).lose (if c.worn.contains e.2 then [e.1] else [])) s

/-- A follow-on enters the governor queue, or is dropped with a trap at its core (R243). -/
def State.enterFollow (s : State) (f : CubeCmd) : State :=
  let core := s.coreAt f.core
  let f := { f with isFollow := true }.withTags core
  if f.maj = 0x34 ∧ f.fn = 3 ∧ !(core.suit.act && core.suit.size == 15 && core.suit.spos == 0) then
    s.postTrap f.core 1 (f.word.zeroExtend 64)
  else match s.cubeChecks f with
    | .ok _ => s.enqueue f
    | .error (c, x) => s.postTrap f.core c x

/-- The signal of a command (R294). -/
def State.signal (s : State) (c : EngCmd) : State :=
  let a := dscWord c.desc 2
  match if a = 0 then none else counterAddr a with
  | none => s
  | some (pos, idx) =>
    if s.owner pos = c.region then
      { s with msgs := s.msgs ++ [Msg.mk (.signal c.core) c.region pos idx (BitVec.ofNat 32 (dscWord c.desc 3)) none 0] }
    else s.postReject c.core (BitVec.ofNat 64 a)

/-- A command leaves the engine: status object, signal, batch (steps 4 to 6 of R292). It fails at step 4 where its status object lies
in an active workspace (R79). -/
def State.leave (s : State) (c : EngCmd) (code0 : Nat) (detail : Word) : State :=
  let fenced := code0 == 0 && s.statusFenced (c.finished false)
  let code := if fenced then 0x1B else code0
  let s := if fenced then s.barrierFail (c.bar s) 0x1B c.batch.toNat else s
  let t := s.writeStatus (c.finished false) code detail
  let t := if code = 0 then t.signal c else t
  let t := { t with cmds := t.cmds.filter (fun e => e.id != c.id), snaps := t.snaps.filter (fun x => x.owner != c.id) }
  let join (g : PubGroup) : PubGroup := { g with done := c.finished (code != 0) :: g.done, failed := g.failed || code != 0 }
  let t := match c.pubm, c.group s with
    | 1, _ => t
    | 2, some key => if t.pubs.any (fun g => g.key == key) then t.modPub key join else t
    | _, some key => t.modPub key join
    | _, none => t
  let t := t.modCore c.core (fun k => { k with batches := k.batches.map (fun b =>
    if b.is c.batch c.launch c.home then { b with unfinished := b.unfinished - 1, failed := b.failed || code != 0 } else b) })
  t.settleBatch c.core c.launch c.home c.batch

/-- A command completes (R292): none when its follow-on must wait (R295). -/
def State.complete (s : State) (c : EngCmd) : Option State :=
  match c.failed with
  | some (code, detail) => some ((if c.pubm = 1 then s.discard (.alone c.id) else s).leave c code detail)
  | none =>
    let t := if c.published then s
      else ((if c.pubm = 1 then s.publish (.alone c.id) else s).publishMoves c).modCmd c.id (fun e => { e with published := true, moves := [] })
    match c.follow with
    | none => some (t.leave c 0 0)
    | some f =>
      if t.resident c.core c.launch c.home && decide ((t.groupAt (groupOf c.core)).queue.length < 16) then
        some ((t.modCmd c.id (fun e => { e with follow := none })).enterFollow f |>.leave c 0 0)
      else if c.published then none else some t

/-- A command's own actions at its start (R290): none when it waits. -/
def State.startActions (s : State) (c : EngCmd) : Option State :=
  let c := { c with started := true, marks := (c.marks ++ ((c.touches s).filter (fun m => !(m.2 && c.pubm != 0)))).eraseDups }
  let s := s.modCmd c.id (fun _ => c)
  match c.kind with
  | .copy 1 => match s.tableFor c with
    | some t => (s.engLin c (startBlock t c)).map Prod.fst
    | none => some s
  | .copy 2 => s.engRun c (do readTable; pure (0, 0))
  | .copy f =>
    if 3 ≤ f ∧ f ≤ 5 ∧ c.policy = 2 then s.engRun c (do checkEntries c.entries 0; pure (0, 0)) else some s
  | .net _ => some s
  | _ => match s.tableFor c with
    | some t => (s.engLin c (startLineage t c)).bind (fun e =>
        if e.2.arrived = 0 then some e.1
        else
          let u := e.1.landed c 0 16
          if c.k = 0 then u.complete e.2 else some u)
    | none => some s

/-- A node takes a new image in the pages that its command holds. DESIGN CHOICE (log 90): where the image has come to need another
number of pages since the start, they are taken anew, with the failures of R278. -/
def newImage (t : Region) (c : EngCmd) (i : Nat) (n : Node) (img : Nat × List Byte × Nat) : L Node := do
  let need := imagePages img.1 img.2.2 img.2.1.length
  let s ← get
  let held := (c.run.bind (fun a => s.runs.find? (fun e => e.table == t.id && t.poolBase + 65536 * e.first == a))).any (fun e => e.len == need)
  let daddr ← if held then pure (c.run.getD 0) else do
    match c.run with
    | some a => modify (fun s => s.dropRun t a)
    | none => pure ()
    takeRun t i (BitVec.ofNat 16 n.owner) need (handleOf c.a)
  if need = 0 then pure () else linWrite t.id daddr img.2.1
  releaseImage t n
  pure { n with kind := img.1, daddr := daddr, dsize := img.2.1.length, ncount := img.2.2, pages := need, pending := false }

/-- The publish of LFLAT (R270). -/
def flatten (t : Region) (c : EngCmd) : L Unit := do
  let (i, n) ← flatNode t c
  if n.kind = 0 then pure ()
  else
    let img ← flatImage t i n
    let below := (← get).descendants t i
    let m ← newImage t c i n img
    putNode t i { m with depth := 0, parent := 0 }
    shiftDepths t (fun d => d - n.depth) below
    loseChild t n.parentIndex

/-- The publish of LREBASE (R271). DESIGN CHOICE (log 90): its conditions are checked at the publish as at the start. -/
def rebase (t : Region) (c : EngCmd) : L Unit := do
  let ((i, n), (j, m)) ← rebaseNodes t c
  let img ← rebaseImage t i j n
  let below := (← get).descendants t i
  let new ← newImage t c i n img
  putNode t i { new with parent := handleOf c.b, depth := m.depth + 1 }
  shiftDepths t (fun d => d + (m.depth + 1) - n.depth) below
  let m ← getNode t j
  putNode t j { m with children := m.children + 1, state := 2 }
  if n.parent = 0 then pure () else loseChild t n.parentIndex

/-- A command ends without a publish: PENDING of its node ends, and the pages that it took are released. -/
def State.unpend (s : State) (t : Region) (c : EngCmd) : State :=
  let s := match c.run with | some a => s.dropRun t a | none => s
  (s.tryLin (do
    match ← liveNode? t (handleOf c.a) with
    | some (i, n) => if c.started then putNode t i { n with pending := false } else pure ()
    | none => pure ())).getD s

/-- LFLAT or LREBASE publishes, after the core's earlier lineage operations (R267), or fails with nothing changed; then it completes
(R269). Where it names a barrier, it completes once that has been judged (R314). -/
def State.finishLineage (s : State) (c : EngCmd) : Option State :=
  match c.failed, s.tableFor c with
  | none, some t =>
    if c.arrived = 16 then s.complete c
    else if s.lineageAhead c.core c.id then none
    else
      match (if c.kind == .lflat then flatten t c else rebase t c : L Unit) s with
      | .ok _ u =>
        let u := u.landed { c with run := none } 0 16
        if c.k = 0 then u.complete { c with run := none, arrived := 16 } else some u
      | .error e _ => e.code.map (fun f => ((e.reported s).unpend t c).failCommand { c with run := none } f.1 f.2.1 f.2.2)
  | _, _ => s.complete c

end Sys2Proof.Machine
end

