-- ==== Sys2Proof/Machine/CubeEvents.lean ====
section
/-! DEFINITION. The governor at work: LPROD at issue (R274), starting a command (R211), the slices of the cube (R129-R134, R209,
R220-R225), partial sums (R229), faults (R244), completion (R211). -/

namespace Sys2Proof.Machine

/-! ## LPROD at issue (R274) -/

/-- NMEM of a family descriptor. -/
def famMembers (d : List Byte) : Nat := slice d 0x28 1
/-- Handle of the base. -/
def famBase (d : List Byte) : Nat := slice d 0 4
/-- Handle of member j. -/
def famHandle (d : List Byte) (j : Nat) : Nat := slice d (0x40 + 8 * j) 4
/-- Tile of member j. -/
def famTile (d : List Byte) (j : Nat) : Nat := slice d (0x44 + 8 * j) 4
/-- STG. -/
def famStg (d : List Byte) : Nat := slice d 0x18 8

/-- Check 2 of R274. -/
def famOk (d : List Byte) : Bool :=
  let n := famMembers d
  let tiles := (List.range n).map (famTile d)
  decide (1 ≤ n) && decide (n ≤ 8) && slice d 4 4 == 0 && (d.drop 0x29 |>.take 23).all (fun x => x == 0) &&
  tiles.all (fun t => decide (t < 8)) && tiles.eraseDups.length == n

/-- Bits of a cell of the staging area: the larger of the element sizes of x and of the base node's TAG (R274). -/
def State.stageBits (s : State) (q : RegionId) (d : List Byte) (xlay : Word) : Nat :=
  let wx := tagWidth (layTag xlay)
  match s.region? (s.tableOwner 8 q) with
  | none => wx
  | some t => match liveNode t (famBase d) s with
    | .ok (_, n) _ => max wx n.width
    | .error _ _ => wx

/-- Bytes of one slot of the staging area: a block of 16 rows of K cells. -/
def slotBytes (k bits : Nat) : Nat := 16 * k * bits / 8

/-- Row 3, row 4 and rows 6 to 8 of R223 for x and the staging area (R274). -/
def State.famChecks (s : State) (w : Nat) (d : List Byte) (xb xl : Word) : Checked :=
  let pos := s.core.pos
  let kind := cubeKind (layTag xl)
  let stg := famStg d
  let k := 16 * layKS xl
  let chunks := planeChunks xb xl (List.range 16) ((k * tagWidth (layTag xl) + 7) / 8)
  let bytes := slotBytes k (s.stageBits (s.owner pos) d xl) * (famMembers d + 1)
  needAll (
    (List.range (famMembers d)).map (fun j =>
      let tag := (s.core.ttag.toList.getD (famTile d j) 0).toNat
      need (kind.isNone || tag == 0 || tag == (if kind == some true then 20 else 21)) 2 (tagXval tag (famTile d j) 0)) ++
    [need (xl.toNat / 2 ^ 46 == 0 && xl.toNat / 2 ^ 29 % 8 == 0 && decide (layRot xl ≤ 1) && decide (1 ≤ layKS xl) &&
       layLC xl == 0) 1 (BitVec.ofNat 64 w),
     need kind.isSome 2 (tagXval (layTag xl) 0 1),
     need (xb.toNat % 16 == 0) 3 xb,
     need (stg % 64 == 0) 3 (BitVec.ofNat 64 stg)] ++
    chunks.map (fun e => need (inOwnSpad pos e.1 e.2) 4 (BitVec.ofNat 64 e.1)) ++
    [need (inOwnSpad pos stg bytes) 4 (BitVec.ofNat 64 stg),
     need (s.assigned (groupOf pos) == s.owner pos) 6 xb])

/-- Lines of LPROD's engine region: x read, the staging area written (R277). -/
def famLines (pos : Nat) (xb xl : Word) (stg bytes : Nat) : List (Nat × Bool) :=
  let span (e : Nat × Nat) : List Nat := (List.range ((e.1 % 64 + e.2 + 63) / 64)).map (fun i => spadLine pos (e.1 + 64 * i))
  let xs := (planeChunks xb xl (List.range 16) ((16 * layKS xl * tagWidth (layTag xl) + 7) / 8)).flatMap span
  (xs.map (fun l => (l, false)) ++ (span (stg, bytes)).map (fun l => (l, true))).eraseDups

/-- Tag the accumulators of LPROD (R222). -/
def Core.tagTiles (c : Core) (tag : Tag) (ds : List (BitVec 3)) : Core :=
  { c with ttag := ds.foldl (fun v d => v.set d.toNat tag d.isLt) c.ttag }

/-- LPROD (R274). Its barrier is named as in R269. DESIGN CHOICE (log 90): the barrier is checked before the descriptor. -/
def execLprod (k a : BitVec 5) : State → Out :=
  issue 4 do
    let w := Instr.encode (.lprod k a)
    let x ← readG a
    let r ← localBarrier k
    check (x.toNat % 64 == 0) 3 x
    check (decide (x.toNat + 128 ≤ 0x20000)) 4 x
    let d ← loadOwn 128 x.toNat
    check (famOk d) 10 (BitVec.ofNat 64 (famBase d * 2 ^ 32 + 9))
    let s ← get
    let xb := BitVec.ofNat 64 (slice d 8 8)
    let xl := BitVec.ofNat 64 (slice d 0x10 8)
    orRaise (s.famChecks w d xb xl)
    queueRoom
    let pos := s.core.pos
    let c := { CubeCmd.blank s.nextId pos w s.core.crb with
      abase := xb, alay := xl, bbase := x, fam := d, bar := r, batch := s.core.cbatch, total := layKS xl }
    let empties := c.tiles.map (fun t => if s.core.ttag[t.toNat] = 0 then 1 else 0)
    let bytes := slotBytes (16 * layKS xl) (s.stageBits (s.owner pos) d xl) * (famMembers d + 1)
    let c := { c with
      tags := empties
      marks := famLines pos xb xl (famStg d) bytes }
    set ((({ s with nextId := s.nextId + 1 }).nameBarrier pos r).queueUp c)
    modC (fun k => k.tagTiles (if cubeKind (layTag xl) == some true then 20 else 21) c.tiles)

/-! ## Starting (R211, R222, R266) -/

/-- A tile as a command of the queue finds it: with the results of every earlier command of its core that has processed its last
slice (R222); a free value where the command issued inside the tile's landing window (R87). -/
def State.tileFor (s : State) (c : CubeCmd) (i : Nat) : TWord :=
  let before := ((s.groupAt (groupOf c.core)).queue.takeWhile (fun e => e.id != c.id)).filter (fun e => e.core == c.core && e.stepped)
  before.foldl (fun x e =>
    match if e.writesTiles then (e.tiles.zip e.acc).find? (fun p => p.1.toNat == i) else none with
    | some p => p.2
    | none => x)
    (match c.undef.find? (fun p => p.1 == i) with
      | some p => BitVec.ofNat 8192 (Config.freeNat p.2)
      | none => (s.coreAt c.core).t.toList.getD i 0)

/-- Change a command of a group's queue. -/
def State.modCube (s : State) (c : CubeCmd) (f : CubeCmd → CubeCmd) : State :=
  s.modGroup (groupOf c.core) (fun g => { g with queue := g.queue.map (fun e => if e.id = c.id then f e else e) })

/-- A command leaves the queue without completing: its locks are released (R244). -/
def State.dropCube (s : State) (c : CubeCmd) : State :=
  let t := s.modGroup (groupOf c.core) (fun g => { g with queue := g.queue.filter (fun e => e.id != c.id) })
  { t with snaps := t.snaps.filter (fun x => !c.isLprod || x.owner != c.id),
           deliveries := t.deliveries.filter (fun e => e.cmd != c.id) }

/-- The next command that the governor starts: the first of the queue, passing over those held and those behind a held command
of their core (R244). -/
def Group.nextCmd (g : Group) : Option CubeCmd :=
  g.queue.find? (fun c => !c.started && !c.held && !g.blocked c)

/-- The checks of R276: the base and the members, each with its record. DESIGN CHOICE (log 90): the base is looked at first, then member
by member, and the first that fails is the one reported. -/
def familyNodes (t : Region) (c : CubeCmd) : L (List (Nat × Node)) := do
  let d := c.fam
  let (b, bn) ← liveNode t (famBase d)
  let xk := cubeKind (layTag c.alay)
  if cubeKind bn.tag ≠ xk then linFail 10 (famBase d)
  members t d xk b (famMembers d) 0
where
  /-- members j on -/
  members (t : Region) (d : List Byte) (xk : Option Bool) (b : Nat) : Nat → Nat → L (List (Nat × Node))
    | 0, _ => pure []
    | n + 1, j => do
      let h := famHandle d j
      let (i, m) ← liveNode t h
      let up ← chainOf t 9 i
      let between := (up.takeWhile (fun e => e.1 != b)).drop 1
      if !up.any (fun e => e.1 == b) ∨ between.any (fun e => e.2.kind == 3) ∨ cubeKind m.tag ≠ xk then linFail 10 h
      let rest ← members t d xk b n (j + 1)
      pure ((i, m) :: rest)

/-- Code of the content at (n, k) of a chain; outside ROWS × COLS zero (R275). -/
def blockCode (ls : List Level) (n k : Nat) : Nat :=
  match ls.head? with
  | none => 0
  | some l => if n < l.node.rows ∧ k < l.node.cols then contentAt ls (n * l.node.cols + k) else 0

/-- The positions of a node that a block of 16 rows and k columns covers. -/
def blockPositions (ls : List Level) (n0 k0 k : Nat) : List Nat :=
  match ls.head? with
  | none => []
  | some l => (List.range 16).flatMap (fun n => ((List.range k).filter (fun j =>
      decide (n0 + n < l.node.rows) && decide (k0 + j < l.node.cols))).map (fun j => (n0 + n) * l.node.cols + (k0 + j)))

/-- What stops the reading of a block of a chain first. -/
def blockFault (ls : List Level) (n0 k0 k : Nat) : Option LinErr := (blockPositions ls n0 k0 k).findSome? (faultyElem ls)

/-- The chain that a member's product is formed over: for RANK its parent's (R276). -/
def productChain (ls : List Level) : List Level :=
  match ls.head? with
  | some l => if l.node.kind = 3 then ls.drop 1 else ls
  | none => ls

/-- Read the chains of some records. -/
def readChains (t : Region) : List Nat → L (List (List Level))
  | [] => pure []
  | i :: r => do
    let ls ← readChain t i
    let rest ← readChains t r
    pure (ls :: rest)

/-- NORG. -/
def famNorg (d : List Byte) : Nat := slice d 0x20 4
/-- KORG. -/
def famKorg (d : List Byte) : Nat := slice d 0x24 4

/-- The bytes of one slot of the staging area (log 21). -/
def slotImage (c : CubeCmd) (bits : Nat) (ls : List Level) : List Byte :=
  let k := 16 * layKS c.alay
  packElems bits ((List.range 16).flatMap (fun n => (List.range k).map (fun j =>
    blockCode (productChain ls) (famNorg c.fam + n) (famKorg c.fam + j))))

/-- Write bytes into the own group's scratchpad from an address on, aligned to 64. -/
def State.spadWrite (s : State) (pos a : Nat) (bs : List Byte) : State :=
  (List.range ((bs.length + 63) / 64)).foldl (fun t i =>
    let p := t.spadByte pos (a + 64 * i)
    let part := (bs.drop (64 * i)).take 64
    (t.setBytes p part).healed p part.length) s

/-- LPROD at its start: the family, the snapshot and the staging area. A resumed command goes on with its snapshot, and with the
staging area as it stands (R276, R277). -/
def startFamily (t : Region) (c : CubeCmd) : L Unit := do
  if ((← get).snapOf c.id).isSome then return ()
  let ms ← familyNodes t c
  let (b, _) ← liveNode t (famBase c.fam)
  let chains ← readChains t (b :: ms.map Prod.fst)
  let k := 16 * layKS c.alay
  needGranule t (if chains.any (fun ls => ls.any (fun l => !l.lost.isEmpty)) then
    chains.findSome? (fun ls => (blockPositions ls (famNorg c.fam) (famKorg c.fam) k).findSome? (lostElem ls)) else none)
  match chains.findSome? (fun ls => blockFault ls (famNorg c.fam) (famKorg c.fam) k) with
  | some e => throw e
  | none => pure ()
  modify (fun s =>
    let bits := s.stageBits (s.owner c.core) c.fam c.alay
    let s := { s with snaps := snapshotOf c.id t (chains.flatMap id).eraseDups :: s.snaps }
    if c.step ≠ 0 then s
    else s.spadWrite c.core (famStg c.fam) (chains.flatMap (slotImage c bits)))

/-- The trap of a lineage operation that the governor meets: cause and XVAL (R244, R277). -/
def LinErr.posted (s : State) (e : LinErr) : Option (Nat × Word) :=
  match e.stop s with
  | .trap c x _ => some (c, x)
  | .integrity _ x => some (13, x)
  | _ => none

/-- A command begins: its accumulators are taken (R222). -/
def State.beginCube (s : State) (c : CubeCmd) : State :=
  let read (d : BitVec 3) (empty : Bool) : TWord := if empty then 0 else s.tileFor c d.toNat
  let acc : List TWord :=
    if c.isLprod then (c.tiles.zip c.tags).map (fun e => read e.1 (e.2 == 1))
    else if c.isProduct && c.fn != 3 then c.tiles.map (fun d => read d c.emptyD) else []
  let rings := if c.isPart then (List.range 16).map (fun q => (s.coreAt (groupCore (groupOf c.core) q)).cwp) else []
  s.modCube c (fun e => { e with started := true, begun := true, acc := acc, block := acc, due := s.now, rings := rings })

/-- Whether every member of a stopped TPART is resident, with its ring (R242). -/
def State.ringsResident (s : State) (c : CubeCmd) : Bool :=
  (List.range 16).all (fun q =>
    let k := s.coreAt (groupCore (groupOf c.core) q)
    k.launch == (s.coreAt c.core).launch && k.hasWorkspace && k.ract && k.rtile.toNat == c.td)

/-- The governor starts its next command: none where it does not now. Its accesses come after the stores that the core has made
before (R334), and a snapshot of LPROD after the core's earlier lineage operations (R267). -/
def State.startCube (s : State) (grp : Nat) : Option State :=
  let g := s.groupAt grp
  match g.nextCmd with
  | none => none
  | some c =>
    let p := s.period c.core
    if (g.queue.filter (fun e => e.started)).all (fun e => e.stepped && decide (e.stepEnd p ≤ s.now)) &&
        decide (c.due ≤ s.now) && !s.cubeStops c &&
        !s.countFull c.id c.marks && c.marks.all (fun m => !s.heldUp c.core m.1 m.2 && !s.underWay c.core m.1) &&
        (!(c.isPart && c.reloaded) || s.ringsResident c) && (!c.isLprod || c.begun || !s.lineageAhead c.core c.id) then
      if c.isLprod then
        match s.region? (s.tableOwner 8 (s.owner c.core)) with
        | none => some (s.dropCube c)
        | some t =>
          match startFamily t c s with
          | .ok _ u => some (u.beginCube c)
          | .error e _ => (e.posted s).map (fun f => (((e.reported s).dropCube c).postTrap c.core f.1 f.2))
      else some (s.beginCube c)
    else none

/-- GOVERNOR_COMMAND_START (R211). -/
def execGovernorCommandStart (grp : Nat) (s : State) : Out :=
  match s.startCube grp with
  | some t => .next t
  | none => .refused (.notEnabled "GOVERNOR_COMMAND_START")

/-! ## Elements (R212, R213, R217) -/

/-- What a step of the cube may meet: a poisoned granule at an address (R244). -/
abbrev CubeM := Except Nat

/-- The value of an element code; a C4 element's stands in the group's codebook as it is now (R217). -/
def elemOf (g : Group) (tag code : Nat) : Num :=
  if tag = 4 then let v := intVal true 8 code; .fin (decide (v < 0)) v.natAbs 0
  else if tagC4 tag then decodeF bf16 ((g.codebook.toList.getD (tag - 16) (Vector.replicate 16 0)).toList.getD (code % 16) 0).toNat
  else decodeF (tagFmt tag) code

/-- The code of an element of w bits at byte offset off of a span at address a of the own scratchpad. -/
def State.spadCode (s : State) (pos a w nib : Nat) : CubeM Nat :=
  let p := s.spadByte pos a
  if s.poisoned p then .error (a / 64 * 64)
  else .ok (if w = 4 then s.getNat p 1 / 16 ^ nib % 16 else s.getNat p (w / 8))

/-- Address of the first byte of element e of row r of a scratchpad operand (R213, R215). -/
def elemByte (base lay : Word) (r e : Nat) : Nat :=
  let off := e * tagWidth (layTag lay) / 8
  chunkAddr base lay r (off / 64) + off % 64

/-- Element e of row r of an operand. -/
def State.elemAt (s : State) (c : CubeCmd) (i : Nat) (p : Plane) (r e : Nat) : CubeM Num :=
  let g := s.groupAt (groupOf c.core)
  match p with
  | .one => .ok (.fin false 1 0)
  | .tile t =>
    let tag := c.tagAt i p
    let w := tagWidth tag
    .ok (elemOf g tag ((s.tileFor c t).toNat / 2 ^ (512 * r + w * e) % 2 ^ w))
  | .pair _ base lay =>
    let w := tagWidth (layTag lay)
    (s.spadCode c.core (elemByte base lay r e) w (e % 2)).map (elemOf g (layTag lay))

/-- The operand at position i of a product: A 0, B 1, B2 2, C 3. -/
def CubeCmd.plane (c : CubeCmd) (i : Nat) : Plane := ((c.planes.find? (fun p => p.1 == i)).map (fun p => p.2.2)).getD .one

/-- The element of operand i that step k uses (R220). -/
def CubeCmd.elemIndex (c : CubeCmd) (i k : Nat) : Nat :=
  if c.mode = 4 then (if i = 3 then k % c.lLen else if i = 0 then k else k / c.lLen) else k

/-- Rows of operand i with the elements of the steps ks. -/
def State.readPlane (s : State) (c : CubeCmd) (i : Nat) (ks : List Nat) : CubeM (List (List Num)) :=
  (c.viewRows i).mapM (fun r => ks.mapM (fun k => s.elemAt c i (c.plane i) r (c.elemIndex i k)))

/-- Row r of the C plane as output (m, n) uses it (R220). -/
def CubeCmd.rowC (c : CubeCmd) (m n : Nat) : Nat :=
  match c.mode with
  | 2 => m
  | 3 | 4 => n
  | _ => 0

/-! ## Sums (R130-R133) -/

/-- xsum over the steps of a slice: none for NaN. -/
def xsum (as bs cs : List Num) : Option Num :=
  let terms := (as.zip (bs.zip cs)).map (fun e => prodNums [e.1, e.2.1, e.2.2])
  if terms.any Option.isNone then none else sumNums (terms.filterMap id)

/-- Flags that the cube keeps (R130). -/
def cubeFlags (f : Fl) : Fl := f &&& (flNV ||| flOF)

/-- A slice sum added to an F32 accumulator; a first slice of a block takes the sum itself (R130, R133). -/
def accFloat (first : Bool) (acc : Nat) (e : Option Num) : Nat × Fl :=
  match e with
  | none => (canonical fp32, flNV)
  | some q =>
    let (x, f) := roundNum fp32 .rne q
    if first then (x, cubeFlags f)
    else if (decodeF fp32 acc).isNan then (canonical fp32, flNV)
    else
      let (r, f2) := fadd fp32 acc x
      if (decodeF fp32 r).isNan then (canonical fp32, flNV ||| cubeFlags f) else (r, cubeFlags (f ||| f2))

/-- An exact integer sum as an integer. -/
def numInt : Option Num → Int
  | some (.fin s m e) => if s then -((m * 2 ^ e.toNat : Nat) : Int) else ((m * 2 ^ e.toNat : Nat) : Int)
  | _ => 0

/-- A slice sum added to an I32 accumulator (R132, R133). -/
def accInt (first : Bool) (acc : Nat) (e : Option Num) : Nat × Fl :=
  let (r, f) := satInt true 32 ((if first then 0 else intVal true 32 acc) + numInt e)
  (intCode 32 r, if f = 0 then 0 else flACCS)

/-- One slice over all 256 outputs: the accumulator, and the flags of each row. `rows` gives the steps' A by row, B, B2 and C. -/
def cubeSlice (c : CubeCmd) (int first : Bool) (acc : TWord) (a b b2 cc : List (List Num)) : TWord × List Fl :=
  let old := lanesOf 32 256 acc.toNat
  let row (x : List (List Num)) (i : Nat) : List Num := x.getD i []
  let rs := (List.range 256).map (fun o =>
    let m := o / 16
    let n := o % 16
    let e := xsum (row a m) (row (if c.fn = 2 ∧ c.crbv.toNat ≤ m then b2 else b) n) (row cc (c.rowC m n))
    if int then accInt first (old.getD o 0) e else accFloat first (old.getD o 0) e)
  (BitVec.ofNat 8192 (packLanes 32 (rs.map Prod.fst)), (List.range 16).map (fun m => allFlags ((rs.drop (16 * m)).take 16)))

/-- The flags of all rows. -/
def orFlags (fs : List Fl) : Fl := fs.foldl (fun a f => a ||| f) 0

/-! ## Sparse A (R224-R226) -/

/-- The codes of one group of one row, decoded (R225). -/
inductive Decoded where
  /-- positions of the kept values, in order, and the codes left over -/
  | group (ps : List Nat) (rest : List Nat)
  | more
  | bad (reason : Nat)
  deriving DecidableEq, Repr

/-- Decode a group whose first code is known not to be 0xFF alone; n bounds the kept values. -/
def decodeFrom (n : Nat) : List Nat → Nat → List Nat → Decoded
  | [], _, _ => .more
  | c :: r, pos, ps =>
    if 0x80 ≤ c then .bad 2
    else if 63 < pos + c % 64 then .bad 1
    else if ps.length = n then .bad 3
    else
      let ps := ps ++ [pos + c % 64]
      if 0x40 ≤ c then .group ps r else decodeFrom n r (pos + c % 64 + 1) ps

/-- Decode the next group. -/
def decodeGroup (n : Nat) : List Nat → Decoded
  | [] => .more
  | 0xFF :: r => .group [] r
  | cs => decodeFrom n cs 0 []

/-- The rows of the groups that a step covers, as far as their codes have been popped. -/
inductive Rows where
  | rows (ps : List (List Nat))
  | more
  /-- reason, index of the row among all rows of the groups, codes before the faulty group -/
  | bad (reason i before : Nat)
  deriving DecidableEq, Repr

/-- Decode count rows from a list of codes; i rows and `total` codes in all come before. -/
def decodeRows (n total : Nat) : Nat → Nat → List Nat → Rows
  | 0, _, _ => .rows []
  | count + 1, i, cs =>
    match decodeGroup n cs with
    | .more => .more
    | .bad reason => .bad reason i (total - cs.length)
    | .group ps rest =>
      match decodeRows n total count (i + 1) rest with
      | .rows r => .rows (ps :: r)
      | e => e

/-- Dense slices that one step of a command covers (R209, R225). -/
def CubeCmd.stepSlices (c : CubeCmd) : Nat := if c.isProduct && c.fn == 1 then 64 / c.nLen else 1

/-- First group of 64 positions that the running step touches. -/
def CubeCmd.firstGroup (c : CubeCmd) : Nat := c.step / 4

/-- Rows of groups to decode before the running step: none where a group goes on. -/
def CubeCmd.rowsToDecode (c : CubeCmd) : Nat := if c.step % 4 = 0 then 16 * ((c.stepSlices + 3) / 4) else 0

/-- The dense rows of the running groups: 16 rows with a code, or none, for each position (R225). -/
def State.denseRows (s : State) (c : CubeCmd) (ps : List (List Nat)) : CubeM (List (List (Option Nat))) :=
  let groups := ps.length / 16
  let w := tagWidth (layTag c.alay)
  (List.range 16).mapM (fun m =>
    ((List.range groups).mapM (fun h =>
      let g := c.firstGroup + h
      let kept := ps.getD (16 * h + m) []
      (List.range 64).mapM (fun pos =>
        if kept.contains pos then
          let e := g * c.nLen + kept.idxOf pos
          (s.spadCode c.core (elemByte c.abase c.alay m e) w (e % 2)).map some
        else .ok none))).map List.flatten)

/-- The elements of A of the steps ks from the dense rows. -/
def State.sparseA (s : State) (c : CubeCmd) (ks : List Nat) : List (List Num) :=
  let g := s.groupAt (groupOf c.core)
  let k0 := 64 * c.firstGroup
  c.dense.map (fun row => ks.map (fun k =>
    match row.getD (k - k0) none with
    | some code => elemOf g (layTag c.alay) code
    | none => .fin false 0 0))

/-! ## Banks (R218, R219) -/

/-- The chains of LPROD's snapshot by handle. -/
def State.memberChain (s : State) (c : CubeCmd) (h : Nat) : List Level :=
  match s.snapOf c.id with
  | none => []
  | some x => up x.chain 9 (h / 256)
where
  /-- from a record up to its DENSE ancestor -/
  up (all : List Level) : Nat → Nat → List Level
    | 0, _ => []
    | fuel + 1, i =>
      match all.find? (fun l => l.idx == i) with
      | none => []
      | some l => if l.node.parent = 0 then [l] else l :: up all fuel l.node.parentIndex

/-- Bits of a cell of the staging area of a started LPROD, by its snapshot (R266, R274). -/
def State.cellBits (s : State) (c : CubeCmd) : Nat :=
  match s.memberChain c (famBase c.fam) with
  | l :: _ => max (tagWidth (layTag c.alay)) l.node.width
  | [] => s.stageBits (s.owner c.core) c.fam c.alay

/-- Words of the scratchpad that the running step reads or writes, as offsets in words. -/
def State.stepWords (s : State) (c : CubeCmd) : List Nat :=
  let word (a : Nat) : Nat := (a - spadBase c.core) / 32
  let k (i : Nat) : List Nat :=
    if i = 0 ∧ c.fn = 1 then
      (List.range (c.stepSlices * 16 * c.nLen / 64)).map (fun j => c.step * 16 * c.nLen / 64 + j)
    else ((List.range (16 * c.stepSlices)).map (fun j => c.elemIndex i (16 * c.step + j))).eraseDups
  (if c.isLprod then
    let kk := 16 * layKS c.alay
    let bits := s.cellBits c
    (List.range 16).flatMap (fun r => (List.range 16).map (fun j => word (elemByte c.abase c.alay r (16 * c.step + j)))) ++
    (List.range (famMembers c.fam)).flatMap (fun m => (List.range 16).flatMap (fun n => (List.range 16).map (fun j =>
      word (famStg c.fam + (1 + m) * slotBytes kk bits + (n * kk + 16 * c.step + j) * bits / 8))))
  else if c.isProduct then
    c.planes.flatMap (fun p => match p.2.2 with
      | .pair _ base lay => (c.viewRows p.1).flatMap (fun r => (k p.1).map (fun e => word (elemByte base lay r e)))
      | _ => [])
  else c.chunks.flatMap (fun e => (List.range (e.2 / 16)).map (fun i => word (e.1 + 16 * i)))).eraseDups

/-- Cycles that the running step needs of each bank, with those in which the bank serves a core. -/
def State.stepLoad (s : State) (c : CubeCmd) : List (Nat × Nat) :=
  let ws := (s.stepWords c).map (fun w => w % 32)
  let p := s.period c.core
  ws.eraseDups.map (fun b =>
    let busy := ((s.groupAt (groupOf c.core)).banks.filter (fun e => e.1 == b)).foldl (fun a e => max a ((e.2 - s.now + p - 1) / p)) 0
    (b, ws.count b + busy))

/-! ## Steps -/

/-- The command that the governor is stepping. -/
def Group.running (g : Group) : Option CubeCmd := g.queue.find? (fun c => c.started && !c.stepped)

/-- A poisoned granule: the command is abandoned with its accumulators as of the last whole block, and the trap is raised at its
core (R244). -/
def State.poisonCube (s : State) (c : CubeCmd) (a : Nat) : State :=
  let t := if c.isProduct || c.isLprod then s.modCore c.core (fun k => k.stopTiles s.now [] c) else s
  let t := if c.isPart then (t.deliverGroup (groupOf c.core)).unbindRings (groupOf c.core) c else t
  (t.dropCube c).postTrap c.core 12 (BitVec.ofNat 64 a)

/-- The command is held with its accumulator as of the last whole block and its metadata stream at that block's first code; the
trap is raised at its core (R244). -/
def State.holdCube (s : State) (c : CubeCmd) (cause : Nat) (xval : Word) : State :=
  let t := s.modCore c.core (fun k => (k.stopTiles s.now [] c).rewindMeta c.metaPos)
  (t.modCube c (fun e => { e.atBlock with held := true, started := false, emptyD := false, fl := 0, blockFl := 0 })).postTrap
    c.core cause xval

/-- Entry number of a command among the unfinished ones of its core (R241). -/
def State.entryOf (s : State) (c : CubeCmd) : Nat := ((s.cubeCmds c.core).map CubeCmd.id).idxOf c.id

/-- XVAL of SPARSEMETA (R244). -/
def State.metaXval (s : State) (c : CubeCmd) (reason i first : Nat) : Word :=
  BitVec.ofNat 64 (first % 2 ^ 32 + (c.firstGroup + i / 16) * 2 ^ 32 + i % 16 * 2 ^ 48 + reason * 2 ^ 52 + s.entryOf c * 2 ^ 56)

/-- The outcome of popping codes for a step. -/
inductive Popped where
  /-- the positions of every row -/
  | ready (ps : List (List Nat)) (c : CubeCmd) (core : Core)
  /-- codes were popped, and more are wanted -/
  | some_ (c : CubeCmd) (core : Core)
  | none_
  | fault (reason i first : Nat) (c : CubeCmd)
  /-- the stream has failed -/
  | failed (cause : Nat) (xval : Word) (c : CubeCmd)
  deriving DecidableEq, Repr

/-- Pop codes from g31 until the rows of the step are complete (R224, R225). -/
def popCodes (n : Nat) : Nat → Bool → CubeCmd → Core → Popped
  | 0, _, _, _ => .none_
  | fuel + 1, any, c, core =>
    match core.gs[7] with
    | none => .fault 4 0 0 c
    | some t =>
      let first := t.next - c.codes.length
      match decodeRows c.nLen c.codes.length n 0 c.codes with
      | .rows ps => .ready ps { c with codes := [] } core
      | .bad reason i before => .fault reason i (first + before) c
      | .more =>
        match t.queue with
        | x :: rest =>
          popCodes n fuel true { c with codes := c.codes ++ [x] }
            { core with gs := core.gs.set 7 (some { t with next := t.next + 1, queue := rest }) }
        | [] =>
          if t.count ≤ t.next then
            let (i, before) := groupStart c.nLen n 0 0 c.codes
            .fault 4 i (first + before) c
          else match t.failed with
            | some (cause, x, _) => .failed cause x c
            | none => if any then .some_ c core else .none_
where
  /-- the row whose codes are incomplete, and how many codes come before it -/
  groupStart (nl : Nat) : Nat → Nat → Nat → List Nat → Nat × Nat
    | 0, i, used, _ => (i, used)
    | count + 1, i, used, cs =>
      match decodeGroup nl cs with
      | .group _ rest => groupStart nl count (i + 1) (used + (cs.length - rest.length)) rest
      | _ => (i, used)

/-- The rows of a partial-sum block are sent to the rings: each becomes FULL within its cycle, after what issues in that cycle
(R229, R230). -/
def State.sendBlock (s : State) (c : CubeCmd) (b stepEnd : Nat) (acc : TWord) : State :=
  let p := s.period c.core
  (List.range 16).foldl (fun t m =>
    let k := groupCore (groupOf c.core) m
    let e : Delivery := ⟨stepEnd + (1 + m) * p + 1, c.id, k, (t.coreAt c.core).launch, c.rings.getD m 0, BitVec.ofNat 3 c.td, b % 16,
      leBytes 64 (acc.toNat / 2 ^ (512 * m) % 2 ^ 512), c.rowFl.getD m 0⟩
    { t with deliveries := insertDelivery e t.deliveries }) s
where
  /-- by ascending time -/
  insertDelivery (e : Delivery) : List Delivery → List Delivery
    | [] => [e]
    | x :: r => if x.due ≤ e.due then x :: insertDelivery e r else e :: x :: r

/-- The slices of one step of a product, up to dense slice sl: the accumulator, and the flags of each row. -/
def State.runSlices (s : State) (c : CubeCmd) : Nat → Nat → CubeM (TWord × List Fl)
  | 0, _ => .ok (c.acc.headD 0, List.replicate 16 0)
  | n + 1, sl => do
    let (acc, fl) ← s.runSlices c n (sl - 1)
    let ks := (List.range 16).map (fun j => 16 * sl + j)
    let a ← if c.fn = 1 then .ok (s.sparseA c ks) else s.readPlane c 0 ks
    let b ← s.readPlane c 1 ks
    let b2 ← if c.fn = 2 then s.readPlane c 2 ks else .ok []
    let cc ← if c.plane 3 == .one then .ok (List.replicate 16 (List.replicate 16 (.fin false 1 0))) else s.readPlane c 3 ks
    let (x, f) := cubeSlice c c.isInt (c.isPart && sl % 8 == 0) acc a b b2 cc
    .ok (x, List.zipWith (fun g h => g ||| h) fl f)

/-- A product's step, its sparse rows decoded (R209). -/
def State.productStep (s : State) (c : CubeCmd) : State :=
  let n := c.stepSlices
  match s.runSlices c n (c.step + n - 1) with
  | .error a => s.poisonCube c a
  | .ok (acc, rows) =>
    let step := c.step + n
    let whole := step % 8 = 0
    let fl := c.fl ||| orFlags rows
    let rowFl := List.zipWith (fun g h => g ||| h) (if c.step % 8 = 0 then List.replicate 16 0 else c.rowFl) rows
    let d := { c with step := step, acc := [acc], fl := fl, rowFl := rowFl, stepAt := s.now, bankLoad := s.stepLoad c, priorAt := c.stepAt, priorLoad := c.bankLoad,
                      block := if whole ∧ !c.isPart then [acc] else c.block, blockFl := if whole then fl else c.blockFl }
    let d := { d with due := d.stepEnd (s.period c.core) }
    let t := s.modCube c (fun _ => d)
    if c.isPart ∧ whole then t.sendBlock d (step / 8 - 1) d.due acc else t

/-- A step of TMULS: the codes of its groups come first (R224-R226). -/
def State.sparseStep (s : State) (c : CubeCmd) : Option State :=
  let c := if c.step % 8 = 0 ∧ c.codes = [] then
      { c with metaPos := (((s.coreAt c.core).gs[7]).map Stream.next).getD 0 } else c
  if c.rowsToDecode = 0 then some (s.productStep c)
  else
    match popCodes c.rowsToDecode 4097 false c (s.coreAt c.core) with
    | .none_ => none
    | .some_ d core => some ((s.modCore c.core (fun _ => core)).modCube c (fun _ => d))
    | .fault reason i first d => some (s.holdCube d 9 (s.metaXval c reason i first))
    | .failed cause x d => some (s.holdCube d cause x)
    | .ready ps d core =>
      let t := s.modCore c.core (fun _ => core)
      match t.denseRows d ps with
      | .error a => some (t.poisonCube d a)
      | .ok rows => some (t.productStep { d with dense := rows })

/-- A cell of the staging area. -/
def State.stagedCode (s : State) (c : CubeCmd) (bits slot n k : Nat) : CubeM Nat :=
  let kk := 16 * layKS c.alay
  let e := n * kk + k
  s.spadCode c.core (famStg c.fam + slot * slotBytes kk bits + e * bits / 8) bits (e % 2)

/-- out ← rnd(out + c, F32, RNE) of a RANK member over all outputs (R276). -/
def State.rankStep (s : State) (c : CubeCmd) (l : Level) (acc : TWord) : CubeM (TWord × Fl) := do
  let kk := 16 * layKS c.alay
  let xs ← (List.range 16).mapM (fun m => (List.range kk).mapM (fun k => s.elemAt c 0 (.pair 0 c.abase c.alay) m k))
  let F := tagFmt l.node.tag
  let old := lanesOf 32 256 acc.toNat
  let rs := (List.range 256).map (fun o =>
    let m := o / 16
    let row := famNorg c.fam + o % 16
    let terms : List (Option Num) := if l.node.rows ≤ row then [] else
      (List.range kk).flatMap (fun k =>
        let col := famKorg c.fam + k
        if l.node.cols ≤ col then [] else
          List.zipWith (fun u v => prodNums [(xs.getD m []).getD k (.fin false 0 0), decodeF F u, decodeF F v])
            (l.rankU row) (l.rankRow col))
    let p := decodeF fp32 (old.getD o 0)
    if p.isNan ∨ terms.any Option.isNone then (canonical fp32, flNV)
    else match sumNums (p :: terms.filterMap id) with
      | some q => let (x, f) := roundNum fp32 .rne q; (x, cubeFlags f)
      | none => (canonical fp32, flNV))
  .ok (BitVec.ofNat 8192 (packLanes 32 (rs.map Prod.fst)), allFlags rs)

/-- One slice of LPROD for member j, and at the last slice the correction of a RANK member. -/
def State.memberSlice (s : State) (c : CubeCmd) (bits j : Nat) (acc : TWord) : CubeM (TWord × Fl) := do
  let g := s.groupAt (groupOf c.core)
  let ls := s.memberChain c (famHandle c.fam j)
  let tag := (ls.head?.map (fun l => l.node.tag)).getD 0
  let ks := (List.range 16).map (fun i => 16 * c.step + i)
  let a ← (List.range 16).mapM (fun m => ks.mapM (fun k => s.elemAt c 0 (.pair 0 c.abase c.alay) m k))
  let b ← (List.range 16).mapM (fun n => ks.mapM (fun k => (s.stagedCode c bits (1 + j) n k).map (elemOf g tag)))
  let one : List (List Num) := List.replicate 16 (List.replicate 16 (.fin false 1 0))
  let (x, rows) := cubeSlice { c with word := 0x69 } (layTag c.alay == 4) false acc a b [] one
  let f := orFlags rows
  if c.step + 1 = c.total then
    match ls.head? with
    | some l => if l.node.kind = 3 then do let (y, h) ← s.rankStep c l x; .ok (y, f ||| h) else .ok (x, f)
    | none => .ok (x, f)
  else .ok (x, f)

/-- A step of LPROD (R275, R276). -/
def State.lprodStep (s : State) (c : CubeCmd) : State :=
  let bits := s.cellBits c
  match (List.range (famMembers c.fam)).mapM (fun j => s.memberSlice c bits j (c.acc.getD j 0)) with
  | .error a => s.poisonCube c a
  | .ok rs =>
    let step := c.step + 1
    let fl := c.fl ||| allFlags (rs.map (fun r => (0, r.2)))
    let acc := rs.map Prod.fst
    let d := { c with step := step, acc := acc, fl := fl, stepAt := s.now, bankLoad := s.stepLoad c, priorAt := c.stepAt, priorLoad := c.bankLoad,
                      block := if step % 8 = 0 then acc else c.block, blockFl := if step % 8 = 0 then fl else c.blockFl }
    s.modCube c (fun _ => { d with due := d.stepEnd (s.period c.core) })

/-- The rows of a scratchpad operand, 16 of 64 bytes (R234). -/
def State.rowBytes (s : State) (c : CubeCmd) : CubeM (List Byte) :=
  ((List.range 16).mapM (fun r => (List.range 64).mapM (fun i =>
    (s.spadCode c.core (chunkAddr c.abase c.alay r 0 + i) 8 0).map (BitVec.ofNat 8)))).map List.flatten

/-- The step of TZERO, TLD, TST and TCODE (R233-R235). TCODE reads its values when its step begins, and the codebook takes them when
it ends. -/
def State.houseStep (s : State) (c : CubeCmd) : State :=
  let done (t : State) (acc : List TWord) : State :=
    let d := { c with step := 1, acc := acc, stepAt := s.now, bankLoad := s.stepLoad c, priorAt := c.stepAt, priorLoad := c.bankLoad }
    t.modCube c (fun _ => { d with due := d.stepEnd (s.period c.core) })
  match c.fn with
  | 0 => done s [0]
  | 1 => match s.rowBytes c with
    | .error a => s.poisonCube c a
    | .ok bs => done s [BitVec.ofNat 8192 (leNat bs)]
  | 2 => done s [s.tileFor c c.td]
  | _ =>
    match c.acc with
    | x :: _ =>
      let book : Vector (BitVec 16) 16 := Vector.ofFn (fun i => BitVec.ofNat 16 (x.toNat / 2 ^ (16 * i.val)))
      (s.modGroup (groupOf c.core) (fun g => { g with codebook := g.codebook.setIfInBounds c.td book })).modCube c
        (fun e => { e with step := 1 })
    | [] =>
    let bytes : CubeM (List Byte) :=
      if c.asel < 8 then .ok (leBytes 32 (s.tileFor c c.asel).toNat)
      else (List.range 32).mapM (fun i => (s.spadCode c.core (c.abase.toNat + i) 8 0).map (BitVec.ofNat 8))
    match bytes with
    | .error a => s.poisonCube c a
    | .ok bs =>
      let d := { c with acc := [BitVec.ofNat 8192 (leNat bs)], stepAt := s.now, bankLoad := s.stepLoad c, priorAt := c.stepAt, priorLoad := c.bankLoad }
      s.modCube c (fun _ => { d with due := d.stepEnd (s.period c.core) })

/-- The next step of a command: none where it waits for its codes, or at a FULL row. -/
def State.stepOf (s : State) (c : CubeCmd) : Option State :=
  if c.isLprod then some (s.lprodStep c)
  else if !c.isProduct then some (s.houseStep c)
  else if c.fn = 1 then s.sparseStep c
  else if c.isPart && s.ringWaits c.id then none
  else some (s.productStep c)

/-- The next step of the running command of a group: none where there is none now. -/
def State.stepCube (s : State) (grp : Nat) : Option State :=
  (s.groupAt grp).running.bind (fun c =>
    if decide (s.now < c.due) || s.cubeStops c then none
    else s.stepOf c)

/-- CUBE_STEP (R209). -/
def execCubeStep (grp : Nat) (s : State) : Out :=
  match s.stepCube grp with
  | some t => .next t
  | none => .refused (.notEnabled "CUBE_STEP")

/-! ## Completion (R211, R230) -/

/-- When a command that has processed its last slice completes. -/
def State.cubeDoneAt (s : State) (c : CubeCmd) : Nat :=
  let p := s.period c.core
  c.stepEnd p + (if c.isPart then 16 else 1) * p

/-- The first command of a group that has processed its last slice completes: none where none does now. -/
def State.completeCube (s : State) (grp : Nat) : Option State :=
  ((s.groupAt grp).queue.find? CubeCmd.stepped).bind (fun c =>
    if decide (s.now < s.cubeDoneAt c) || (c.isPart && s.ringWaits c.id) then none
    else
      let t := (s.finishCmd c).dropCube c
      some (if c.isLprod then t.arrive (c.barrier s) 16 c.id c.batch else t))

/-- GOVERNOR_COMMAND_COMPLETE (R211). -/
def execGovernorCommandComplete (grp : Nat) (s : State) : Out :=
  match s.completeCube grp with
  | some t => .next t
  | none => .refused (.notEnabled "GOVERNOR_COMMAND_COMPLETE")

end Sys2Proof.Machine
end

