-- ==== Sys2Proof/Machine/Network.lean ====
section
/-! DEFINITION. The network commands (R368-R376, R437): descriptors, issue, the instances they form, what each participant
receives. -/

namespace Sys2Proof.Machine

/-! ## Descriptors (R369, R371-R373) -/

/-- NARG: the operation of NRED, K of NTOPK. -/
def dscNarg (d : List Byte) : Nat := slice d 0x42 1
/-- ROOT. -/
def dscRoot (d : List Byte) : Nat := slice d 0x44 4

/-- Width in bytes of an element, and elements, of a network command. -/
def netShape (fn : Nat) (d : List Byte) : Nat × Nat :=
  match fn with
  | 0 => (tagWidth (dscStag d) / 8, dscN d 0)
  | 1 => (8, dscN d 0 * dscNarg d)
  | 2 => (4, dscN d 0)
  | _ => (1, dscN d 0)

/-- Destination bytes of a network command. -/
def netBytes (fn : Nat) (d : List Byte) : Nat := (netShape fn d).1 * (netShape fn d).2

/-- The command's own rules. -/
def netOwn (fn : Nat) (d : List Byte) : Bool :=
  let t := dscStag d
  match fn with
  | 0 => (t == 15 || t == 13 || t == 14 || t == 8 || t == 9) && decide (dscNarg d ≤ 5) &&
      (decide (dscNarg d < 3) || t == 8 || t == 9)
  | 1 => t == 1 && decide (1 ≤ dscNarg d) && decide (dscNarg d ≤ 64)
  | 2 => t == 9 && dscNarg d == 0
  | _ => t == 1 && dscNarg d == 0

/-- Row 3 of R284 for a network command. -/
def netOk (fn : Nat) (d : List Byte) (k : Word) : Bool :=
  dscCommon d k && dscN d 1 == 1 && dscN d 2 == 1 && (List.range 4).all (fun i => dscStride d i == 0) &&
  dscWord d 1 == 0 && dscStag d == dscDtag d && (fn == 3 || dscRoot d == 0) && netOwn fn d &&
  (d.drop 0x50).all (fun x => x == 0)

/-! ## Issue (R368) -/

/-- SCOPE contains the issuing core (R370). -/
def State.inScope (s : State) (d : List Byte) : Bool :=
  match s.scope (dscScope d), s.myRegion? with
  | some q, some r => rectHas q (r.logical s.core.pos)
  | _, _ => true

/-- A network command. -/
def netCommand (fn : Nat) (k a b c : BitVec 5) : State → Out :=
  issue 4 do
    let x ← readG a
    let y ← readG b
    let z ← readG c
    let r ← readG k
    checkBarrier r
    check (z.toNat % 64 == 0) 3 z
    check (decide (z.toNat + 128 ≤ 0x20000)) 4 z
    let d ← loadOwn 128 z.toNat
    check (netOk fn d r && (← get).inScope d) 11 z
    let s ← get
    if 8 ≤ (s.cmds.filter (fun c => c.core == s.core.pos && c.isNet)).length then throw (.stall 9)
    openCommand (.net fn) r x y d (netBytes fn d) none

/-- NRED (R371). -/
def execNred (k a b c : BitVec 5) : State → Out := netCommand 0 k a b c
/-- NTOPK (R372). -/
def execNtopk (k a b c : BitVec 5) : State → Out := netCommand 1 k a b c
/-- NCOUNT (R373). -/
def execNcount (k a b c : BitVec 5) : State → Out := netCommand 2 k a b c
/-- NBCAST (R373). -/
def execNbcast (k a b c : BitVec 5) : State → Out := netCommand 3 k a b c

/-! ## Instances (R370) -/

/-- FN5 of a network command. -/
def EngCmd.netFn (c : EngCmd) : Nat := match c.kind with | .net f => f | _ => 99

/-- Whether two commands can belong to one instance: launch, (PGRP, COLL) and rectangle. -/
def EngCmd.matches_ (s : State) (c e : EngCmd) : Bool :=
  e.isNet && e.region == c.region && e.launch == c.launch && e.pgrp == c.pgrp &&
  slice e.desc 0x40 2 == slice c.desc 0x40 2 && e.scope s == c.scope s

/-- The first command of a core that waits for an instance of the kind of c. -/
def State.nextOf (s : State) (c : EngCmd) (core : Nat) : Option EngCmd :=
  s.cmds.find? (fun e => e.core == core && !e.started && e.failed.isNone && c.matches_ s e)

/-- All elements of a list of options. -/
def allSome : List (Option α) → Option (List α)
  | [] => some []
  | none :: _ => none
  | some x :: r => (allSome r).map (fun xs => x :: xs)

/-- The commands of the instance that c would form, in the order of rank: none while a participant has not issued. -/
def State.members (s : State) (c : EngCmd) : Option (List EngCmd) :=
  match allSome ((c.netCores s).map (s.nextOf c)) with
  | some [] => none
  | o => o

/-- Whether the instance of a command starts: it is the one issued last, and the group of packages is known (R370); its engine regions
find room (R337), and the stores that its cores made before are performed (R334). -/
def State.instanceReady (s : State) (c : EngCmd) : Bool :=
  c.isNet && !c.started && c.failed.isNone && (c.packages s).isSome &&
  match s.members c with
  | some es => es.any (fun e => e.id == c.id) && es.all (fun e =>
      decide (e.id ≤ c.id) && !s.countFull e.id e.marks && s.later.all (fun l => l.core != e.core))
  | none => false

/-- What a participant contributes: its bytes, and for each whether its granule is poisoned. -/
abbrev Contribution := List Byte × List Bool

/-- Read n elements of z bytes from v on, each by itself, up to the first that fails (R289, R293). -/
def netElems (z : Nat) : Nat → Nat → EngM Contribution
  | 0, _ => pure ([], [])
  | n + 1, v => do
    let (x, bad) ← engElem 0 v z false
    let (bs, ps) ← netElems z n ((v + z) % 2 ^ 64)
    pure (leBytes z x ++ bs, List.replicate z bad ++ ps)

/-- A participant reads its source (R289, R437). -/
def netRead : EngM Contribution := do
  let (_, c) ← get
  let (z, n) := netShape c.netFn c.desc
  netElems z n c.a.toNat

/-- A participant of another package contributes free values (log 20). -/
def State.freeContribution (s : State) (poison : Bool) : Nat → Contribution × State
  | 0 => (([], []), s)
  | n + 1 =>
    let (x, t) := s.draw
    let ((bs, ps), u) := t.freeContribution poison n
    ((BitVec.ofNat 8 x :: bs, (poison && decide (x / 256 % 2 = 1)) :: ps), u)

/-! ## Results (R371-R373) -/

/-- combine on F32 codes (R371). -/
def combineF (op a b : Nat) : Nat :=
  (match op with | 0 => fadd fp32 a b | 1 => fminmax fp32 true a b | _ => fminmax fp32 false a b).1

/-- combine on integers (R371). -/
def combineI (op : Nat) (a b : Int) : Int :=
  let bits (f : Nat → Nat → Nat) : Int := (f (intCode 32 a) (intCode 32 b) : Nat)
  match op with
  | 0 => a + b
  | 1 => max a b
  | 2 => min a b
  | 3 => bits (· &&& ·)
  | 4 => bits (· ||| ·)
  | _ => bits (· ^^^ ·)

/-- One level of the tree: neighbours are combined. -/
def pairUp (f : α → α → α) : List α → List α
  | a :: b :: r => f a b :: pairUp f r
  | r => r

/-- The tree of R371; the fuel bounds its levels. -/
def tree (f : α → α → α) : Nat → List α → List α
  | 0, xs => xs
  | n + 1, xs => match xs with
    | _ :: _ :: _ => tree f n (pairUp f xs)
    | _ => xs

/-- One element of NRED (R371). -/
def reduceTag (t op : Nat) (xs : List Nat) : Nat :=
  if t = 8 ∨ t = 9 then
    let v := if 3 ≤ op then xs.map (fun x => intVal false 32 x) else xs.map (laneInt t)
    let r := (tree (combineI op) xs.length v).headD 0
    intCode 32 (if 3 ≤ op then r else (satInt (t == 8) 32 r).1)
  else
    let F := tagFmt t
    if xs.any (fun x => (decodeF F x).isNan) then canonical F
    else
      let v := xs.map (fun x => if t = 15 then x else (laneConvert t 15 .rne x).1)
      let r := (tree (combineF op) xs.length v).headD 0
      if t = 15 then r else (laneConvert 15 t .rne r).1

/-- Place of a score in the order: greater first in the merge (R372). -/
def scoreKey (x : Nat) : Int :=
  if (decodeF fp32 x).isNan then -(2 ^ 32)
  else if 2 ^ 31 ≤ x then -((x % 2 ^ 31 : Nat) : Int) - 1
  else (x : Int)

/-- Whether entry x stands before entry y whatever their ranks (R372). -/
def entryBefore (x y : Nat) : Bool :=
  let p := scoreKey (x % 2 ^ 32)
  let q := scoreKey (y % 2 ^ 32)
  decide (q < p) || (decide (p = q) && decide (x / 2 ^ 32 < y / 2 ^ 32))

/-- Insert an entry before the first that it precedes, or equals; entries of earlier ranks are inserted later. -/
def insertEntry (x : Nat) : List Nat → List Nat
  | [] => [x]
  | y :: r => if entryBefore y x then y :: insertEntry x r else x :: y :: r

/-- Entries in merge order (R372). -/
def mergeEntries (xs : List Nat) : List Nat := xs.foldr insertEntry []

/-- The position of the first entry of a list that is out of order. -/
def unsortedAt : Nat → List Nat → Option Nat
  | i, x :: y :: r => if entryBefore y x then some (i + 1) else unsortedAt (i + 1) (y :: r)
  | _, _ => none

/-- Elements of w bytes. -/
def elemsOf (w n : Nat) (bs : List Byte) : List Nat := (List.range n).map (fun i => slice bs (w * i) w)

/-- List i of K entries. -/
def listOf (k i : Nat) (bs : List Byte) : List Nat := elemsOf 8 k (bs.drop (8 * k * i))

/-- Whether some byte among n from off on is poisoned. -/
def anyPoison (ps : List Bool) (off n : Nat) : Bool := ((ps.drop off).take n).any id

/-- What the participant of rank q receives, from the contributions in the order of rank. -/
def netResult (fn : Nat) (d : List Byte) (cs : List Contribution) (q : Nat) : Contribution :=
  let n := dscN d 0
  match fn with
  | 0 =>
    let w := tagWidth (dscStag d) / 8
    let out := (List.range n).map (fun j => reduceTag (dscStag d) (dscNarg d) (cs.map (fun c => slice c.1 (w * j) w)))
    (out.flatMap (leBytes w),
     (List.range n).flatMap (fun j => List.replicate w (cs.any (fun c => anyPoison c.2 (w * j) w))))
  | 1 =>
    let k := dscNarg d
    ((List.range n).flatMap (fun i => ((mergeEntries (cs.flatMap (fun c => listOf k i c.1))).take k).flatMap (leBytes 8)),
     (List.range n).flatMap (fun i => List.replicate (8 * k) (cs.any (fun c => anyPoison c.2 (8 * k * i) (8 * k)))))
  | 2 => (cs.flatMap (fun c => (c.1.drop (4 * q)).take 4), cs.flatMap (fun c => (c.2.drop (4 * q)).take 4))
  | _ => cs.getD (dscRoot d) ([], [])

/-! ## Starting -/

/-- Commands fail with their instance: the one that meets the failure reports its code, the others 0x23 (R374). -/
def State.failAll (s : State) (es : List EngCmd) (own : Nat → Option (Nat × Word)) : State :=
  es.foldl (fun t e => match (t.cmds.find? (fun c => c.id == e.id)) with
    | some c =>
      if c.failed.isSome then t
      else
        let (code, detail) := (own c.id).getD (0x23, 0)
        (t.modCmd c.id (fun x => { x with started := true })).failCommand c code detail 0
    | none => t) s

/-- Take a reduction context of a region, if it has one free (R375). -/
def State.takeContext (s : State) (q : RegionId) : State × List RegionId :=
  match s.region? q with
  | some r =>
    if r.contextsUsed < r.contexts then (s.modRegion q (fun r => { r with contextsUsed := r.contextsUsed + 1 }), [q]) else (s, [])
  | none => (s, [])

/-- Whether an instance is that of some commands. -/
def Instance.isOf (i : Instance) (ids : List Nat) : Bool := i.ids.any ids.contains

/-- The last destination byte of the instance of some commands has landed: its context is free again (R375). -/
def State.freeContexts (s : State) (ids : List Nat) : State :=
  ((s.instances.filter (fun i => i.isOf ids)).flatMap Instance.contexts).foldl
    (fun t q => t.modRegion q (fun r => { r with contextsUsed := r.contextsUsed - 1 }))
    { s with instances := s.instances.map (fun i => if i.isOf ids then { i with contexts := [] } else i) }

/-- The instance of some commands is over. -/
def State.endInstance (s : State) (ids : List Nat) : State :=
  let t := s.freeContexts ids
  { t with instances := t.instances.filter (fun i => !i.isOf ids) }

/-- What participants must agree on (R370). -/
def EngCmd.terms (c : EngCmd) : List Nat :=
  [c.netFn, dscN c.desc 0, dscStag c.desc, dscNarg c.desc, dscRoot c.desc, if dscPpoi c.desc then 1 else 0]

/-- How the reading of sources ends: every contribution, a wait, or a failure of one participant. -/
inductive Readings where
  | all (cs : List Contribution)
  | wait
  | failed (id code : Nat) (detail : Word)
  deriving DecidableEq, Repr

/-- Each participant reads its source, for NBCAST the root alone. -/
def readSources (root : Nat) : List EngCmd → Nat → State → Readings × State
  | [], _, s => (.all [], s)
  | c :: r, i, s =>
    let skip := c.netFn = 3 ∧ i ≠ root
    match (if skip then pure ([], []) else netRead : EngM Contribution) (s, c) with
    | .error none u => (.wait, { s.reported u.1 with free := u.1.free + 1 })
    | .error (some (code, detail)) u => (.failed c.id code detail, s.reported u.1)
    | .ok x (t, d) =>
      match readSources root r (i + 1) (t.modCmd c.id (fun _ => d)) with
      | (.all xs, u) => (.all (x :: xs), u)
      | e => e

/-- The first entry of a participant's lists that is out of merge order: its command and address (R372). -/
def unsorted (d : List Byte) (es : List EngCmd) (cs : List Contribution) : Option (Nat × Nat) :=
  let k := dscNarg d
  (es.zip cs).findSome? (fun e => (List.range (dscN d 0)).findSome? (fun i =>
    (unsortedAt 0 (listOf k i e.2.1)).map (fun j => (e.1.id, (e.1.a.toNat + 8 * (k * i + j)) % 2 ^ 64))))

/-- Contributions of n participants of other packages; a list of NTOPK is in merge order. -/
def State.others_ (s : State) (fn : Nat) (d : List Byte) : Nat → List Contribution × State
  | 0 => ([], s)
  | n + 1 =>
    let ((bs, ps), t) := s.freeContribution (dscPpoi d) (netBytes fn d)
    let k := dscNarg d
    let bs := if fn = 1 then (List.range (dscN d 0)).flatMap (fun i => (mergeEntries (listOf k i bs)).flatMap (leBytes 8)) else bs
    let (xs, u) := t.others_ fn d n
    ((bs, ps) :: xs, u)

/-- Give every participant of the package what it receives. -/
def State.giveResults (s : State) (fn : Nat) (d : List Byte) (cs : List Contribution) : List EngCmd → Nat → State
  | [], _ => s
  | e :: r, q =>
    let (bs, ps) := netResult fn d cs q
    (s.modCmd e.id (fun c => { c with started := true, result := bs, resultPoison := ps })).giveResults fn d cs r (q + 1)

/-- The instance of some commands starts (R370, R374, R375): none where a source must be waited for. What participants of other
packages do is a free value: they agree, fail, disagree, or have no context free, so that the instance runs at the endpoints
(log 20). -/
def State.startInstance (s : State) (c : EngCmd) (es : List EngCmd) : Option State :=
  let here := es.length
  let (own, packages) := (c.packages s).getD (0, 1)
  let total := here * packages
  let d := c.desc
  let fn := c.netFn
  if es.any (fun e => e.terms != c.terms) ∨ (fn = 3 ∧ total ≤ dscRoot d) ∨ (fn = 2 ∧ dscN d 0 ≠ total) then
    some (s.failAll es (fun _ => some (0x20, 0)))
  else if s.device.lostPeers.any (fun e => e.1 == c.pgrp && c.pgrp != 0) then
    some (s.failAll es (fun i => if i = (es.headD c).id then some (0x22, 0) else none))
  else
    match readSources (if own * here ≤ dscRoot d then dscRoot d - own * here else here) es 0 s with
    | (.wait, u) => if u.device.links = s.device.links then none else some (s.reported u)
    | (.failed i code detail, u) => some ((s.reported u).failAll es (fun j => if j = i then some (code, detail) else none))
    | (.all mine, t) =>
      match if fn = 1 then unsorted d es mine else none with
      | some (i, a) => some (s.failAll es (fun j => if j = i then some (0x21, BitVec.ofNat 64 a) else none))
      | none =>
        let (before, t) := t.others_ fn d (own * here)
        let (after, t) := t.others_ fn d ((packages - 1 - own) * here)
        let (choice, t) := if packages ≤ 1 then (0, t) else t.draw
        if choice % 4 = 1 then some (t.failAll es (fun _ => none))
        else if choice % 4 = 2 then some (t.failAll es (fun _ => some (0x20, 0)))
        else
          let (t, contexts) := if choice % 4 = 3 then (t, []) else t.takeContext c.region
          let t := t.giveResults fn d (before ++ mine ++ after) es (own * here)
          some { t with instances := ⟨(c.pgrp, slice d 0x40 2, BitVec.ofNat 64 (slice d 0x48 4)), es.map EngCmd.id, contexts⟩ :: t.instances }

/-- COLLECTIVE_INSTANCE_START (R370). -/
def execCollectiveInstanceStart (id : Nat) (s : State) : Out :=
  let next : Option State := (s.cmds.find? (fun c => c.id == id)).bind (fun c =>
    if s.instanceReady c then (s.members c).bind (s.startInstance c) else none)
  match next with
  | some t => .next t
  | none => .refused (.notEnabled "COLLECTIVE_INSTANCE_START")

/-! ## Landing (R311, R374) -/

/-- The commands of a started instance. -/
def State.instanceOf (s : State) (c : EngCmd) : List EngCmd :=
  match s.instances.find? (fun i => i.ids.contains c.id) with
  | some i => s.cmds.filter (fun e => i.ids.contains e.id)
  | none => []

/-- Whether an instance reaches over several dies or packages. -/
def State.crosses (s : State) (c : EngCmd) : Bool :=
  decide (1 < ((c.packages s).getD (0, 1)).2) || (s.instanceOf c).any (fun e => dieOf e.core != dieOf c.core)

/-- The next destination bytes of a network command land: those in one granule. -/
def landNet : EngM (Nat × Nat) := do
  let (s, c) ← get
  let al := (netShape c.netFn c.desc).1
  let v := elemAddr c.b.toNat c.progress 8
  let n := min (c.total - c.progress) (max al ((64 - v % 64) / al * al))
  engWrite v al ((c.result.drop c.progress).take n) (anyPoison c.resultPoison c.progress n)
    (s.crosses c)
  pure (n, n)

/-- Whether every destination byte of a command's instance has landed (R292, R374). -/
def State.instanceLanded (s : State) (c : EngCmd) : Bool :=
  (s.instanceOf c).all (fun e => e.failed.isSome || e.progress == e.total)

/-- The instance of a command fails where one of its commands has (R374). -/
def State.failInstance (s : State) (c : EngCmd) (own : Option (Nat × Word)) : State :=
  (s.failAll (s.instanceOf c) (fun j => if j = c.id then own else none)).endInstance [c.id]

/-- A landing of a network command; its failure fails the instance (R374), as does a failure or a revocation in another package,
which is a free value (R376; log 20). The instance of one package gives its context back with its last byte (R375). -/
def State.landNetwork (s0 : State) (c : EngCmd) : Option State :=
  match landNet (s0, c) with
  | .ok (elems, m) (t, d) =>
    let alone := decide (((c.packages s0).getD (0, 1)).2 ≤ 1)
    let (choice, t) := if alone then (0, t) else t.draw
    if choice % 2 = 1 then some ({ s0 with free := t.free }.failInstance c none)
    else
      let u := t.landed d elems m
      some (if (u.cmds.find? (fun e => e.id == c.id)).any (fun e => e.failed.isSome) then u.failInstance c none
        else if alone && u.instanceLanded c then u.freeContexts [c.id] else u)
  | .error none u => if u.1.device.links = s0.device.links then none else some { s0.reported u.1 with free := u.1.free + 1 }
  | .error (some (code, detail)) u => some ((s0.reported u.1).failInstance c (some (code, detail)))

/-- A network command completes once every byte of its instance has landed, and every barrier that the instance changed has been judged:
until then each participant may still fail (R374). With the first of its commands the instance is over, also for the packages whose
bytes the model does not see (R375). -/
def State.completeNetwork (s : State) (c : EngCmd) : Option State :=
  if c.progress = c.units ∧ s.instanceLanded c ∧ (s.instanceOf c).all (fun e => !(e.bar s).any s.judge.contains) then
    if s.statusFenced (c.finished false) && !(s.instanceOf c).isEmpty then some (s.failInstance c (some (0x1B, 0)))
    else (s.endInstance [c.id]).complete c
  else none

/-! ## Barriers at the end of a cycle (R313, R314) -/

/-- The destination bytes of a barrier are counted: it takes its next phase, unarmed (R313). -/
def State.flipBarrier (s : State) (b : BarRef) : State :=
  let w := s.barrierPart b 0
  s.setBarrier b (w / 2 ^ 58 % 2 * 2 ^ 58 + (1 - w / 2 ^ 56 % 2) * 2 ^ 56) (s.barrierPart b 1)

/-- R313 on a barrier that changed in a cycle. A publish group of which a command failed is discarded whatever ARMB has cleared
since (R321). By an over-arrival the command whose bytes arrived last fails, too (R296), and with it its instance (R374). -/
def State.judgeBarrier (s : State) (b : BarRef) : State :=
  let w := s.barrierPart b 0
  let pend := w % 2 ^ 56
  if w / 2 ^ 57 % 2 = 0 then s
  else if pend = 0 then
    let t := if w / 2 ^ 58 % 2 = 1 then s.discard (.barrier b) else s.closeGroup (.barrier b)
    (t.flipBarrier b).endLanded b
  else if 2 ^ 55 ≤ pend then
    let (id, batch) := ((s.arrivals.find? (fun e => e.1 == b)).map Prod.snd).getD (0, 0)
    let last := s.cmds.find? (fun c => c.id == id && c.failed.isNone)
    let t := s.setBarrier b (w / 2 ^ 56 % 2 * 2 ^ 56 + 2 ^ 57 + 2 ^ 58) (batch * 2 ^ 32 + 0x1A)
    let t := if last.isSome then t.modCmd id (fun c => { c with failed := some (0x1A, 0) }) else t
    let t := ((t.discard (.barrier b)).flipBarrier b).endLanded b
    match last with
    | some c =>
      let u := t.failCommand c 0x1A 0 0
      if c.isNet then u.failInstance c none else u
    | none => t
  else s

/-- The end of a cycle: the barriers that changed in it are judged, all arrivals taken together (R314). -/
def State.endCycle (s : State) : State := s.judge.foldl State.judgeBarrier { s with judge := [] }

end Sys2Proof.Machine
end

