-- ==== Sys2Proof/Machine/EngineEvents.lean ====
section
/-! DEFINITION. The steps of the engines: a command starts (R290), destination bytes land (R311), a command completes
(R292). -/

namespace Sys2Proof.Machine

/-- An unfinished command by number. -/
def State.cmd? (s : State) (id : Nat) : Option EngCmd := s.cmds.find? (fun c => c.id == id)

/-- What the start of a command leads to: none where it may not start now. -/
def State.startCommand (s : State) (id : Nat) : Option State :=
  (s.cmd? id).bind (fun c => if s.mayStart c then s.startActions c else none)

/-- ENGINE_COMMAND_START (R290). -/
def execEngineCommandStart (id : Nat) (s : State) : Out :=
  match s.startCommand id with
  | some t => .next t
  | none => .refused (.notEnabled "ENGINE_COMMAND_START")

/-- What a landing of a command leads to: none where nothing can land now. -/
def State.landCommand (s : State) (id : Nat) : Option State :=
  (s.cmd? id).bind (fun c =>
    if c.started && c.failed.isNone && decide (c.progress < c.units) then
      match c.kind with
      | .copy _ => s.engRun c (if c.migrates then landPage else landElems)
      | .net _ => s.landNetwork c
      | _ => none
    else none)

/-- ENGINE_LANDING (R311). -/
def execEngineLanding (id : Nat) (s : State) : Out :=
  match s.landCommand id with
  | some t => .next t
  | none => .refused (.notEnabled "ENGINE_LANDING")

/-- What the completion of a command leads to: none where it has work left, or waits (R292, R295). -/
def State.completeCommand (s : State) (id : Nat) : Option State :=
  (s.cmd? id).bind (fun c =>
    if !c.started || (c.bar s).any s.judge.contains then none
    else if c.failed.isSome then s.complete c
    else match c.kind with
      | .copy _ => if c.progress = c.units then s.complete c else none
      | .net _ => s.completeNetwork c
      | _ => s.finishLineage c)

/-- ENGINE_COMMAND_COMPLETE (R292). -/
def execEngineCommandComplete (id : Nat) (s : State) : Out :=
  match s.completeCommand id with
  | some t => .next t
  | none => .refused (.notEnabled "ENGINE_COMMAND_COMPLETE")

end Sys2Proof.Machine
end

