-- ==== Sys2Proof/Machine/Streams.lean ====
section
/-! DEFINITION. Stream registers (R164-R170): binding and release, and the copy engine that fills and drains them (R323). -/

namespace Sys2Proof.Machine

/-! ## The engine -/

/-- Cycles before the first element of a read stream is there, for elements of a window with a bound (R323). -/
def State.firstDelay (s : State) (pos v : Nat) : Option Nat :=
  match (s.turn pos).window v with
  | .own => some 4
  | .spad g => if g = groupOf pos then some 7 else none
  | _ => none

/-- Whether the engine may serve the element at v now: in a window with a rate at its time, elsewhere at any time. -/
def State.served? (s : State) (t : Stream) (v : Nat) : Bool :=
  (s.firstDelay s.core.pos v).isNone || decide (t.due ≤ s.now)

/-- The banks of the own scratchpad that an element at v needs (R218, R323). -/
def State.elementBanks (s : State) (v n : Nat) : List Nat :=
  match s.window v with
  | .spad g => if g = groupOf s.core.pos then banksOf ((v - 0x44000000) % 2 ^ 22) n else []
  | _ => []

/-- From when on an element may be there that could be there at a time: its banks serve it in the cycle before, in which no core
access and no running step of the governor needs them (R218). -/
def State.bankTime (s : State) (bs : List Nat) (at_ : Nat) : Nat :=
  let g := s.groupAt (groupOf s.core.pos)
  let p := s.period s.core.pos
  let cores := g.banks.foldl (fun m e => if bs.contains e.1 then max m (e.2 + p) else m) at_
  let after (start : Nat) (load : List (Nat × Nat)) (m : Nat) : Nat :=
    load.foldl (fun m e => if bs.contains e.1 ∧ start + p ≤ m then max m (start + (e.2 + 1) * p) else m) m
  g.queue.foldl (fun m c => if c.started then after c.stepAt c.bankLoad (after c.priorAt c.priorLoad m) else m) cores

/-- What becomes of an element access: nothing yet, a failure at the element's address, or a result. It waits for its banks
(R218), where the engine regions on its line are too many (R337), and for the stores that the core made before the binding
(R334). -/
def elementAccess (s : State) (t : Stream) (v : Nat) (write : Bool) : Except Denied ((Win × List Seg) × State) :=
  match s.engineSpan s.core.pos v t.size t.size write with
  | .error (.fail c _ q) => .error (.fail c (BitVec.ofNat 64 v) q)
  | .error (.torn b _) => .error (.torn b (BitVec.ofNat 64 v))
  | .error e => .error e
  | .ok ((win, segs), u) =>
    let bs := s.elementBanks v t.size
    let full := (segs.flatMap Seg.lines).any (fun l => decide (4095 < s.engineCount s.nextId l.1 write))
    if s.now < s.bankTime bs s.now ∨ full ∨ (s.now < t.after ∧ s.awaitsStore s.core.pos segs) then .error .wait
    else
      .ok ((win, segs), if bs.isEmpty then u else
        u.modGroup (groupOf s.core.pos) (fun k => { k with banks := bs.eraseDups.map (fun b => (b, s.now)) ++ k.banks }))

/-- An element's request is left unanswered: its link takes note of the first one (R422). -/
def State.leftWaiting (s : State) (t : Stream) (link page : Nat) (write : Bool) : Option (Stream × State) :=
  let u := s.unheard link page write
  if u.linkAt link = s.linkAt link then none else some (t, { u with free := s.free + 1 })

/-- The stream after the engine has read its next element (R166, R323); none where it cannot now. -/
def State.fetchElement (s : State) (t : Stream) (isV : Bool) : Option (Stream × State) :=
  let p := t.next + t.queue.length
  let v := t.addr p
  if t.isWrite || t.failed.isSome || decide (t.count ≤ p) || decide (streamDepth isV ≤ t.queue.length) then none
  else match elementAccess s t v false with
    | .error .wait => none
    | .error (.silent l p w) => s.leftWaiting t l p w
    | .error (.torn b x) => some ({ t with failed := some (13, x, 0) }, s.untear b)
    | .error (.fail c x q) => some ({ t with failed := some (c, x, q) }, s)
    | .ok ((win, segs), u) =>
      match u.engineBad segs with
      | some (c, _, u) => some ({ t with failed := some (c, BitVec.ofNat 64 v, 0) }, u)
      | none =>
        some ({ t with
          queue := t.queue ++ [leNat (u.engineBytes s.core.pos win v t.size segs)]
          due := max t.due s.now + s.period s.core.pos }, u)

/-- The stream after the engine has written its oldest appended element; none where it cannot now. A write into an active
workspace is not performed and fails (R79), with the cause PERM. DESIGN CHOICE (log 74): the spec gives no cause for it. -/
def State.drainElement (s : State) (t : Stream) : Option (Stream × State) :=
  match t.queue with
  | [] => none
  | x :: rest =>
    let v := t.addr (t.next - t.landing.length - t.queue.length)
    if !t.isWrite || t.failed.isSome then none
    else match elementAccess s t v true with
      | .error .wait => none
      | .error (.silent l p w) => s.leftWaiting t l p w
      | .error (.torn b x) => some ({ t with failed := some (13, x, 0) }, s.untear b)
      | .error (.fail c x q) => some ({ t with failed := some (c, x, q) }, s)
      | .ok ((win, segs), u) =>
        if win == .mailbox || segs.any u.fenced then some ({ t with failed := some (6, BitVec.ofNat 64 v, 0) }, u)
        else some ({ t with queue := rest, due := s.now + s.period s.core.pos },
          u.engineStore (leBytes t.size x) segs)

/-- The stream register of class v or g with index i: g(24 + i) or v(12 + i). -/
def Core.streamOf (c : Core) (isV : Bool) (i : Nat) : Option Stream :=
  if isV then (c.vs.toList.getD i none) else (c.gs.toList.getD i none)

/-- Replace it. -/
def Core.setStream (c : Core) (isV : Bool) (i : Nat) (t : Option Stream) : Core :=
  if isV then { c with vs := c.vs.setIfInBounds i t } else { c with gs := c.gs.setIfInBounds i t }

/-- What the engine makes of a stream register of the current core, by fetching or by draining. -/
def State.serveStream (s : State) (isV write : Bool) (i : Nat) : Option State :=
  match s.core.streamOf isV i with
  | none => none
  | some t =>
    if !write && !s.served? t (t.addr (t.next + t.queue.length)) then none
    else (if write then s.drainElement t else s.fetchElement t isV).map
      (fun r => { r.2 with core := r.2.core.setStream isV i (some r.1) })

/-- STREAM_FETCH: the engine of the current core reads the next element of a read stream (R323). -/
def execStreamFetch (v : Bool) (i : BitVec 3) (s : State) : Out :=
  match s.serveStream v false i.toNat with
  | some t => .next t
  | none => .refused (.notEnabled "STREAM_FETCH")

/-- STREAM_WRITE: it writes the oldest appended element of a write stream. -/
def execStreamWrite (v : Bool) (i : BitVec 3) (s : State) : Out :=
  match s.serveStream v true i.toNat with
  | some t => .next t
  | none => .refused (.notEnabled "STREAM_WRITE")

/-! ## SBIND and SFREE -/

/-- Release a stream register (R168): a write stream waits for its appended elements, and a failure of one is raised here. The
register number is i in its class. -/
def freeStream (isV : Bool) (i : Nat) : M Unit := do
  match (← getC).streamOf isV i with
  | none => pure ()
  | some t =>
    if t.isWrite then
      match t.failed with
      | some (cause, xval, q) => throw (.element isV i cause xval q)
      | none => if t.queue.isEmpty && t.landing.isEmpty then pure () else throw (.stall 3)
    modC (fun c => c.setStream isV i none)

/-- The checks of SBIND on a descriptor and a mode (R165, R166). -/
def bindable (s : State) (isV : Bool) (x y : Word) : Bool :=
  let a := x.toNat
  let p := localPlace s.core.pos a
  let size := s.getNat (p + 20) 2
  let tag := y.toNat / 256 % 32
  decide (a + 48 ≤ 0x20000) && a % 16 == 0 && s.getNat (p + 22) 2 == 0 &&
  decide (1 ≤ s.getNat (p + 8) 4) && decide (1 ≤ s.getNat (p + 12) 4) && decide (1 ≤ s.getNat (p + 16) 4) &&
  (if isV then size == 64 && vtagOk tag && tag != 0 else size == 1 || size == 2 || size == 4 || size == 8)

/-- SBIND: a bound register is freed first; if the descriptor or the mode is not valid, STREAM is raised with nothing bound
(R166; log 18). DESIGN CHOICE (log 75): A and B are read, and pop, before the register is freed. -/
def bindStream (isV : Bool) (i reg : Nat) (a b : BitVec 5) : M Unit := do
  let s0 ← get
  let x ← readG a
  let y ← readG b
  freeStream isV i
  let s ← get
  if bindable s isV x y then
    let t := readDescriptor s s.core.pos x.toNat (BitVec.ofNat 13 y.toNat) (fun _ _ => 0)
    let due := s.now + ((s.firstDelay s.core.pos (t.addr 0)).getD 0) * s.period s.core.pos
    modC (fun c => c.setStream isV i (some { t with due := due }))
  else
    set { s0 with core := s0.core.setStream isV i none }
    throw (.trapHere 17 (streamXval reg isV 4) 0)

/-- SBIND gD (R166). -/
def execSbindG (d : BitVec 3) (a b : BitVec 5) : State → Out := issue 4 (bindStream false d.toNat (24 + d.toNat) a b)

/-- SBIND vD (R166). -/
def execSbindV (d : BitVec 2) (a b : BitVec 5) : State → Out := issue 4 (bindStream true d.toNat (12 + d.toNat) a b)

/-- SFREE gD (R168). -/
def execSfreeG (d : BitVec 3) : State → Out := issue 4 (freeStream false d.toNat)

/-- SFREE vD (R168). -/
def execSfreeV (d : BitVec 2) : State → Out := issue 4 (freeStream true d.toNat)

end Sys2Proof.Machine
end

