-- ==== Sys2Proof/Machine/Launches.lean ====
section
/-! DEFINITION. Launches and tokens: the status words of a control block (R341, R342), the tokens a launch draws (R348, R350),
the loading of a context (R80), stopping and resuming a core (R39-R42, R392), and the end of a launch (R355). -/

namespace Sys2Proof.Machine

/-! ## Launches of a region -/

/-- A launch that has not ended. -/
def LState.unfinished : LState → Bool
  | .waiting | .ready | .loading | .running | .suspended => true
  | _ => false

/-- LSTATE (R342). -/
def LState.code : LState → Nat
  | .none => 0
  | .waiting => 1
  | .ready => 2
  | .loading => 3
  | .running => 4
  | .suspended => 5
  | .done => 6
  | .refused => 7
  | .void => 8

/-- A launch by its number. -/
def Region.launch? (r : Region) (seq : Nat) : Option Launch := r.launches.find? (fun l => l.seq == seq)

/-- The launch that runs. -/
def Region.running? (r : Region) : Option Launch := r.launches.find? (fun l => l.state == .running)

/-- Change a launch. -/
def State.modLaunch (s : State) (q : RegionId) (seq : Nat) (f : Launch → Launch) : State :=
  s.modRegion q (fun r => { r with launches := r.launches.map (fun l => if l.seq = seq then f l else l) })

/-- The region and the launch of a core that a launch is placed on. -/
def State.placedOn (s : State) (pos : Nat) : Option (Region × Launch) :=
  (s.region? (s.owner pos)).bind (fun r => (r.launch? (s.coreAt pos).launch).map (fun l => (r, l)))

/-- Whether a core still takes part in a launch of region q (R20, R346). -/
def State.takesPart (s : State) (q : RegionId) (seq pos : Nat) : Bool :=
  s.owner pos == q && (s.coreAt pos).launch == seq

/-- The cores of a region that are not lent (R20). -/
def State.freeCores (s : State) (r : Region) : List Nat :=
  (if r.id = 1 then List.range meshSize else r.cmap).filter (fun p => s.owner p == r.id)

/-! ## The block as the dealer writes it (R341, R342) -/

/-- RSTATE (R340). -/
def RState.code : RState → Nat
  | .live => 1
  | .revoking => 2
  | .retired => 3

/-- LSTAT (R342): a launch that has lost its deadline promise shows 8 until it ends. -/
def Region.lstat (r : Region) : Nat :=
  match r.refused with
  | some c => r.seq * 2 ^ 32 + c * 2 ^ 16 + 7
  | none => match r.launch? r.seq with
    | some l => l.seq * 2 ^ 32 + l.code * 2 ^ 16 + (if l.voided && l.state.unfinished then 8 else l.state.code)
    | none => 0

/-- Write the dealer's fields of a region's block. The root has no block. -/
def State.writeBlock (s : State) (q : RegionId) : State :=
  match s.region? q with
  | none => s
  | some r =>
    if r.id = 1 then s
    else
      let t := s.poke r.home r.block (leBytes 2 r.id.toNat ++ leBytes 1 r.depth ++ leBytes 1 r.state.code ++ leBytes 2 r.parent.toNat)
      t.poke r.home (r.block + 0x110) (leBytes 8 r.lstat ++ leBytes 8 (BitVec.ofInt 64 r.balance).toNat ++ leBytes 8 r.marker ++
        leBytes 8 r.earmark)

/-- A launch loses its deadline promise but goes on (R342). -/
def State.voidLaunch (s : State) (q : RegionId) (seq code : Nat) : State :=
  (s.modLaunch q seq (fun l => { l with voided := true, code := code })).writeBlock q

/-! ## Tokens (R348, R350) -/

/-- BALANCE − EARMARK. -/
def Region.unpledged (r : Region) : Int := r.balance - r.earmark

/-- Draw what the placed launch of a region has used up to now: from its earmark first, then from what is not pledged. -/
def State.settleTokens (s : State) (q : RegionId) : State :=
  match s.region? q with
  | none => s
  | some r => match r.current? with
    | none => s
    | some l =>
      let n := l.cores.length * (s.ticks - l.settled)
      let e := min n l.earmark
      let d := min (n - e) r.unpledged.toNat
      (s.modRegion q (fun r => { r with balance := r.balance - ((e + d : Nat) : Int), earmark := r.earmark - e })).modLaunch q l.seq
        (fun l => { l with earmark := l.earmark - e, settled := s.ticks })

/-- What a region could borrow now (R350). -/
def State.loan (s : State) (r : Region) : Nat :=
  match s.region? r.parent with
  | none => 0
  | some p => if r.id = 1 then 0 else min 16384 (min p.pool (r.borrow - r.marker))

/-- The tick in which the placed launch of a region needs a draw that finds nothing unpledged. -/
def Region.exhaustTick (r : Region) : Option Nat :=
  r.current?.bind (fun l =>
    if l.cores.isEmpty then none else some (l.settled + (l.earmark + r.unpledged.toNat) / l.cores.length))

/-- Whether a launch could draw (R348). -/
def State.canDraw (s : State) (r : Region) (l : Launch) : Bool :=
  decide (0 < l.earmark) || decide (0 < r.unpledged) || decide (0 < s.loan r)

/-! ## Loading a context (R80) -/

/-- Governor commands re-enter the queue ahead of every unstarted command, in their saved order (R242). An LPROD takes the
snapshot that it left behind (R277). -/
def State.requeue (s : State) (pos : Nat) (img : List Byte) : State :=
  let c := s.coreAt pos
  let cs := (List.range 7).filterMap (fun e =>
    (loadCmd s pos (s.nextId + e) img (0x800 + 72 * e)).map (fun k =>
      let d := k.withTags c
      { d with marks := d.lines }))
  let t := s.modGroup (groupOf pos) (fun g => { g with
    queue := g.queue.filter (fun k => k.started) ++ cs ++ g.queue.filter (fun k => !k.started) })
  { t with
    nextId := s.nextId + 7
    snaps := t.snaps.map (fun x => match x.home with
      | some (p, l, ws, e) =>
        if p = pos ∧ l = c.launch ∧ ws = c.cwp then { x with owner := s.nextId + e, home := none } else x
      | none => x)
    deliveries := t.deliveries.map (fun e =>
      match cs.find? CubeCmd.isPart with
      | some k => if e.cmd = 0 ∧ groupOf e.core = groupOf pos ∧ e.launch = c.launch then { e with cmd := k.id } else e
      | none => e) }

/-- A write stream that is restored where it stands bound still has the appended elements that wait to be written (R385). -/
def keepAppended : Option Stream → Option Stream → Option Stream
  | some old, some new =>
    if old.isWrite && old.desc == new.desc && old.mode == new.mode then
      some { new with queue := old.queue, landing := old.landing, failed := old.failed, due := old.due, after := old.after }
    else some new
  | _, new => new

/-- A core loads an image: registers, tags, streams, counters, sequencer. A core that was parked or stopped keeps the increments
that it has received since (R388, R316). -/
def State.loadContext (s : State) (pos : Nat) (img : List Byte) (parked : Bool) : State :=
  let t := s.modCore pos (fun c =>
    let d := c.load s img
    let d := { d with
      gs := Vector.ofFn (fun i => keepAppended c.gs[i] d.gs[i])
      vs := Vector.ofFn (fun i => keepAppended c.vs[i] d.vs[i]) }
    if parked then
      { d with counters := Vector.ofFn (fun i => d.counters[i] + ((c.counters[i] : BitVec 32) - c.park[i])) }
    else d)
  t.requeue pos img

/-- A core's 16-KiB image in its own local memory. -/
def State.imageAt (s : State) (pos a : Nat) : List Byte := s.getBytes (localPlace pos a) 0x4000

/-! ## Stopping and resuming (R39-R42, R392) -/

/-- A core that issues or waits. A core that awaits the dealer is not interrupted (R385). -/
def Core.active (c : Core) : Bool :=
  match c.status with
  | .running | .halting => true
  | .waiting (.answer _) => false
  | .waiting _ => true
  | _ => false

/-- A gang stop of one core, as of a time: its landings complete, a wait is abandoned, its workspace is written back in place
(R39, R392). -/
def State.stopCore (s : State) (at_ : Nat) (pos : Nat) : State :=
  if (s.coreAt pos).active then
    let t := (s.finishGathers pos).modCore pos (fun c =>
      let d := c.drain
      let d := match c.status with | .waiting _ => d.unpop | _ => d
      { d with
        status := .running, cseg := c.csegNow at_, segFrom := at_, popped := [], refetch := none, half := none, late := 0
        draining := false, stopped := true })
    let c := t.coreAt pos
    ((t.syncRelease pos none).writeBack pos c.cstat c.pc).modCore pos (fun c => { c with park := c.counters })
  else s

/-- The core that sends a message; none for a remote add. -/
def Msg.sender? (m : Msg) : Option Nat :=
  match m.src with
  | .post p | .signal p => some p
  | .remote _ => none

/-- Where a message of a core stands after a gang switch, by a free value: it is delivered whole, or it stays in the send queue of
its core, or it moves to the kitty of a router. DESIGN CHOICE (log 78): R40 does not say which messages have started, nor which of
those are moved. -/
def spilledTo (x pos : Nat) : Option Nat :=
  if x % 3 = 0 then none else if x % 3 = 1 then some pos else some (x / 3 % meshSize)

/-- The messages of some cores at a gang switch (R40). -/
def State.spill (s : State) (cores : List Nat) : State :=
  { s with
    free := s.free + s.msgs.length
    msgs := s.msgs.mapIdx (fun i m => match m.sender? with
      | some p => if cores.contains p then { m with kitty := spilledTo (Config.freeNat (s.free + i)) p } else m
      | none => m) }

/-- The messages of some cores leave the kitties and are sent again (R41). -/
def State.unspill (s : State) (cores : List Nat) : State :=
  { s with msgs := s.msgs.map (fun m => match m.sender? with
    | some p => if cores.contains p then { m with kitty := none } else m
    | none => m) }

/-- A read stream of the current core is filled again, up to its depth. -/
def State.refillStream (isV : Bool) (i : Nat) : Nat → State → State
  | 0, s => s
  | n + 1, s =>
    match (s.core.streamOf isV i).bind (fun t => if t.isWrite then none else s.fetchElement t isV) with
    | some (t, u) =>
      State.refillStream isV i n { u with groups := s.groups, core := u.core.setStream isV i (some { t with due := s.now + s.period s.core.pos }) }
    | none => s

/-- Before Tr the engine has filled the read streams of a stopped core again, so that a timetable goes on without a deviation
(R42). The scratchpad's banks are free for it. -/
def State.refill (s : State) (pos : Nat) : State :=
  let t := (s.modGroup (groupOf pos) (fun g => { g with banks := [], queue := [] })).turn pos
  let u := (List.range 8).foldl (fun u i => State.refillStream false i 16 u) t
  let u := (List.range 4).foldl (fun u i => State.refillStream true i 4 u) u
  { u.turn s.core.pos with groups := s.groups }

/-- A stopped core resumes from its image: a timetable and a suit go on shifted by the time of the stop; other cores issue at
Tr (R41, R42). A core that the dealer has answered, or that has left its parking, in the meantime goes on at Tr too. -/
def State.resumeCore (s : State) (pos ts tr : Nat) : State :=
  let k := s.coreAt pos
  let shift := 12 * (tr - ts)
  if k.stopped then
    let t := s.loadContext pos (s.imageAt pos k.cwp.toNat) true
    let t := if k.timed then t.refill pos else t
    t.modCore pos (fun c => { c with
      readyAt := if c.timed || c.suit.act then max (c.readyAt + shift) (12 * tr) else 12 * tr
      follow := c.follow.map (fun q => { q with due := q.due + shift })
      segFrom := 12 * tr
      dbg := true
      stopped := false
      held := false })
  else if k.status == .running then
    s.modCore pos (fun c => { c with readyAt := max c.readyAt (12 * tr), dbg := true, held := false })
  else s.modCore pos (fun c => { c with held := false })

/-! ## The end of a launch (R355) -/

/-- A core that no launch is placed on any more. Its counters and memory stay (R21), and its batch records (R309). -/
def Core.vacate (c : Core) : Core :=
  { c with
    status := .idle, launch := 0, suit := Suit.idle, follow := [], lead := none, windows := [], flagsDue := [], timed := false,
    gs := Vector.replicate 8 none, vs := Vector.replicate 4 none, access := [], broken := false, held := false, ract := false,
    stopped := false, popped := [], refetch := none, half := none, late := 0, draining := false, reflecting := none }

/-- Whether a context is resident on a core (R316): that of the launch placed on it, from its start on. -/
def Core.resident (c : Core) : Bool := c.launch != 0 && c.status != .idle

/-- What the contexts of a launch that has ended leave on the cores of its region goes: batch records, and snapshots of stopped
LPRODs. -/
def State.forget (s : State) (q : RegionId) (l : Launch) : State :=
  let mine := l.cores.filter (fun p => s.owner p == q)
  let t := mine.foldl (fun t p => t.modCore p (fun c => { c with batches := c.batches.filter (fun b => b.launch != l.seq) })) s
  { t with snaps := t.snaps.filter (fun x => match x.home with
      | some (p, n, _, _) => !(mine.contains p && n == l.seq)
      | none => true) }

/-- Release the pair registers of a region with their shadows (R318). -/
def State.dropPairs (s : State) (q : RegionId) : State :=
  let gone := s.groups.flatMap (fun g => (g.pairs.filter (fun p => p.owner == q)).map (fun p => (g.id, p.base)))
  { s with
    groups := s.groups.map (fun g => { g with pairs := g.pairs.filter (fun p => p.owner != q) })
    pubs := s.pubs.map (fun p => { p with pairs := p.pairs.filter (fun e => !gone.contains e) }) }

/-- Drop a publish group that can no longer be published: its shadow pages are released. -/
def State.dropGroup (s : State) (g : PubGroup) : State :=
  let t := g.pages.foldl (fun t e => (t.release (framePlace e.2.2 0) 65536).uncharge e.1 1) s
  { t with pubs := t.pubs.filter (fun x => x.key != g.key) }

/-- Drop the PUBM 5 groups of a launch. -/
def State.dropLaunchGroups (s : State) (q : RegionId) (seq : Nat) : State :=
  (s.pubs.filter (fun g => match g.key with | .launch r n _ => r == q && n == seq | _ => false)).foldl State.dropGroup s

/-- A launch leaves the queue in a final state: its earmark and its queue entry are released, its cores are vacant. -/
def State.closeLaunch (s : State) (q : RegionId) (seq : Nat) (st : LState) (code : Nat) : State :=
  let s := s.settleTokens q
  match (s.region? q).bind (fun r => r.launch? seq) with
  | none => s
  | some l =>
    let t := ((l.cores.filter (s.takesPart q seq)).foldl (fun t p => t.modCore p Core.vacate) s).forget q l
    let u := t.modRegion q (fun r => { r with
      earmark := r.earmark - l.earmark
      queueUsed := r.queueUsed - 1
      launches := (r.launches.map (fun l =>
          if l.seq = seq then { l with state := st, code := code, earmark := 0, saved := [] } else l)).filter
        (fun l => l.state.unfinished || l.seq == r.seq) })
    ((u.dropLaunchGroups q seq).dropPairs q).writeBlock q

/-- When every participating core has halted, the launch ends (R20, R355). -/
def State.endIfHalted (s : State) (q : RegionId) (seq : Nat) : State :=
  match (s.region? q).bind (fun r => r.launch? seq) with
  | none => s
  | some l =>
    if l.state == .running && l.cores.all (fun p => !s.takesPart q seq p || (s.coreAt p).status == .halted) then
      s.closeLaunch q seq .done l.code
    else s

/-- Whether HALT of a core is complete: its landings, appended elements, governor, copy and network commands and send queue
(R384); a trap that the governor has raised comes first (R244). -/
def State.haltDone (s : State) (pos : Nat) : Bool :=
  let c := s.coreAt pos
  let idle (o : Option Stream) : Bool := match o with | some t => !t.isWrite || (t.queue.isEmpty && t.landing.isEmpty) | none => true
  decide (c.drainTime s.now ≤ s.now) && s.gathers.all (fun g => g.core != pos) && c.gs.toList.all idle && c.vs.toList.all idle &&
  s.cubeDone pos && c.posted.isEmpty && s.cmds.all (fun e => e.core != pos) && (s.unsent pos).isEmpty

/-- The current core stops for good (R384). -/
def State.haltCore (s : State) : State :=
  let pos := s.core.pos
  let c := s.core.drain
  let t := { s with core := { c with status := .halted, cseg := c.csegNow s.now, timed := false, follow := [], lead := none } }
  t.endIfHalted (t.owner pos) t.core.launch

end Sys2Proof.Machine
end

