-- ==== Sys2Proof/Machine/Control.lean ====
section
/-! DEFINITION. Control registers and the workspace switch (R73-R81, R405), and the instructions of MAJ 0x3D (R344-R358,
R383-R389, R394, R403) up to the dealer's answer. -/

namespace Sys2Proof.Machine

/-! ## CRD and CWR (R73-R75) -/

/-- A control register as it stands; none for a number that names none (R73). -/
def State.control (s : State) (n : Nat) : Option Word :=
  let c := s.core
  let reg : Word := BitVec.ofNat 64 (s.owner c.pos).toNat
  match n with
  | 0x000 => some c.cwp
  | 0x001 => some c.cstat
  | 0x010 => some c.xpc
  | 0x011 => some c.xcause
  | 0x012 => some c.xval
  | 0x013 => some c.xscratch
  | 0x020 => some (BitVec.ofNat 64 (c.lx.toNat + c.ly.toNat * 2 ^ 8 + c.lw.toNat * 2 ^ 16 + c.lh.toNat * 2 ^ 24))
  | 0x021 => some (BitVec.ofNat 64 c.pos)
  | 0x022 => some reg
  | 0x023 => some reg
  | 0x030 => some (BitVec.ofNat 64 s.ticks)
  | 0x031 => some (c.csegNow s.now)
  | 0x040 => some (BitVec.ofNat 64 c.crb.toNat)
  | 0x041 => some (BitVec.ofNat 64 c.csat.toNat)
  | 0x042 => some (BitVec.ofNat 64 c.crnd.toNat)
  | 0x050 => some c.suit.word
  | 0x060 => some (BitVec.ofNat 64 c.cbatch.toNat)
  | _ => none

/-- CRD (R75). While a raised flag is on its way, CSAT reads as undefined (R87). A number that names no register makes the word an
illegal encoding (R73). -/
def execCrd (d : BitVec 5) (i : BitVec 15) : State → Out :=
  issue 4 do
    let s ← get
    if i = 0x041 && s.core.flagsDue.any (fun e => decide (s.now < e.1)) then writeG d (BitVec.ofNat 64 ((← fresh) % 256)) 1
    else match s.control i.toNat with
      | some x => writeG d x 1
      | none => raise 1 (BitVec.ofNat 64 (Instr.encode (.crd d i)))

/-- The flags that land in this cycle (R128). -/
def Core.landingFlags (c : Core) (now : Nat) : BitVec 8 :=
  (c.flagsDue.filter (fun e => e.1 == now)).foldl (fun (a : BitVec 8) (e : Nat × BitVec 8) => a ||| e.2) 0

/-- A control register written; a flag that lands in this cycle is ORed into what CSAT takes (R128). None where CWR raises ILLEGAL (R73, R75). -/
def Core.setControl (c : Core) (now n : Nat) (x : Word) : Option Core :=
  match n with
  | 0x010 => some { c with xpc := x }
  | 0x011 => some { c with xcause := x }
  | 0x012 => some { c with xval := x }
  | 0x013 => some { c with xscratch := x }
  | 0x040 => if x.toNat ≤ 16 then some { c with crb := BitVec.ofNat 5 x.toNat } else none
  | 0x041 => if x.toNat < 256 then some { c with csat := BitVec.ofNat 8 x.toNat ||| c.landingFlags now } else none
  | 0x042 => if x.toNat < 4 then some { c with crnd := BitVec.ofNat 2 x.toNat } else none
  | _ => none

/-- CWR (R75). -/
def execCwr (d : BitVec 5) (i : BitVec 15) : State → Out :=
  issue 4 do
    let x ← readG d
    let s ← get
    match s.core.setControl s.now i.toNat x with
    | some c => modC (fun _ => c)
    | none => raise 1 (BitVec.ofNat 64 (Instr.encode (.cwr d i)))

/-! ## WSWP (R80, R81) -/

/-- The failure of an appended element of a core, which a drain raises as SFREE does: the class and index of its stream register,
and the failure (R80, R166, R384). -/
def Core.failedAppend (c : Core) : Option ((Bool × Nat) × Nat × Word × RegionId) :=
  let one (v : Bool) (e : Nat × Option Stream) : Option ((Bool × Nat) × Nat × Word × RegionId) :=
    match e.2 with
    | some t => if t.isWrite then t.failed.map (fun f => ((v, e.1), f)) else none
    | none => none
  (((List.range 8).zip c.gs.toList).findSome? (one false)) <|> (((List.range 4).zip c.vs.toList).findSome? (one true))

/-- Raise it. -/
def raiseAppend : M Unit := do
  match (← getC).failedAppend with
  | some ((v, i), cause, x, q) => throw (.element v i cause x q)
  | none => pure ()

/-- Whether the follow-on of a copy of a core that is not finished locks a tile: the tile part of a WSWP image waits for it (R239,
R243). The locks of the core's commands in the queue go with the write-back (R242). -/
def State.followLocked (s : State) (pos i : Nat) : Bool :=
  (s.cmds.filter (fun e => e.core == pos)).any (fun e =>
    e.follow.any (fun c => c.fullLocks.contains i || c.writeLocks.contains i))

/-- WSWP: the drain, the write-back with resume PC = PC + 4, the load of the workspace at gD, 48 cycles (R80). In timed code a
drain that takes a cycle is a deviation with resource code 8 (R81). -/
def execWswp (d : BitVec 5) : State → Out :=
  issueOwn do
    let x ← readG d
    let s ← get
    let c := s.core
    let pos := c.pos
    check (!c.suit.act) 1 (BitVec.ofNat 64 (Instr.encode (.wswp d)))
    check (x.toNat % 0x4000 == 0) 3 x
    check (decide (x.toNat ≤ 0x1C000)) 4 x
    raiseAppend
    if c.appending then throw (.stall 8)
    if c.timed && (decide (s.now < c.drainTime s.now) || s.gathers.any (fun g => g.core == pos)) then throw (.stall 8)
    if !s.atBoundary pos then throw (.stall 8)
    if (List.range 8).any (s.followLocked pos) then throw (.stall 1)
    let done := c.drainTime s.now
    let t := s.finishGathers pos
    let t := { t with core := t.core.drain }
    let u := t.writeBack pos t.core.cstat (c.pc + 4)
    let img := u.imageAt pos x.toNat
    match badTagOffset img with
    | some off =>
      set { s with mem := u.mem, scrub := u.scrub }
      throw (.trapHere 2 (BitVec.ofNat 64 off) 0)
    | none =>
      let v := u.syncRelease pos none
      let v := ({ v with core := { v.core with cwp := x } }.loadContext pos img false).replayLog pos
      set { v with core := { v.core with readyAt := done + 48 * s.period pos, dbg := false } }

/-! ## Supersteps, timed segments -/

/-- RYIELD (R356). -/
def execRyield : State → Out :=
  issue 4 (modify (fun s => s.modLaunch (s.owner s.core.pos) s.core.launch (fun l => { l with yield := true })))

/-- The scope of a GBAR: every participating core. With a lent core in the region's rectangle it is not the whole region
(R327, R330). -/
def State.gbarScope (s : State) (pos : Nat) : Scope :=
  match s.placedOn pos with
  | none => none
  | some (r, l) =>
    if l.cores.length = (r.lw + 1) * (r.lh + 1) then none
    else some (BitVec.ofNat 32 (r.lw * 2 ^ 16 + r.lh * 2 ^ 24))

/-- GBAR: the arrival; the boundary is an event (R36, R357). -/
def execGbar : State → Out :=
  issueOwn do
    let s ← get
    beginWait s .gbar
    modify (fun t => t.releaseMarks s.core.pos (s.gbarScope s.core.pos))

/-- TBEGIN: the clock is held at 2.0 GHz, and the core waits for CTIME = T − 1; the segment's start is an event (R358). T − issue cycle is taken as a difference of
integers, so that a T that has passed raises TIMESLIP (R29). -/
def execTbegin (a : BitVec 5) : State → Out :=
  issueOwn do
    let w : Word := BitVec.ofNat 64 (Instr.encode (.tbegin a))
    check (!(← getC).timed) 1 w
    let s0 ← get
    let x ← readG a
    let s ← get
    check (decide (x.toNat < s.ticks + 2 ^ 32)) 1 w
    check (decide (s.ticks < x.toNat)) 8 (BitVec.ofNat 64 (10 + s.core.suit.spos.toNat * 256))
    set (s.standAt s0 (.start x)).fullClock

/-- TEND: the segment ends, CSEG keeps its value; in free code nothing changes (R35, R358). -/
def execTend : State → Out :=
  issue 4 (modify (fun s => { s with core := { s.core with cseg := s.core.csegNow s.now, timed := false, refetch := none } }))

/-! ## Returning and halting -/

/-- ERET (R383). -/
def execEret : State → Out :=
  issueOwn do
    let c ← getC
    check (c.inh && !c.timed) 1 (BitVec.ofNat 64 (Instr.encode .eret))
    modify State.eret

/-- The core parked by a trap that was delivered to region h, by the address of its record (R389). -/
def State.parkedAt (s : State) (h : RegionId) (a : Nat) : Option Nat :=
  (s.cores.find? (fun c => c.status == .parked (some a) h)).map Core.pos

/-- A parked core goes on from its record (R389). -/
def State.resumeParked (s : State) (p : Nat) (img : List Byte) : State :=
  (s.loadContext p img true).modCore p (fun c => { c with
    status := .running
    inh := slice img 0x6E0 1 / 2 % 2 == 1
    readyAt := s.now + 48 * s.period p
    access := []
    held := c.held || c.broken
    broken := false })

/-- ERET gA (R389): the caller stalls while the parked core loads its record. -/
def execEretResume (a : BitVec 5) : State → Out :=
  issueOwn do
    check (!(← getC).timed) 1 (BitVec.ofNat 64 (Instr.encode (.eretResume a)))
    let x ← readG a
    let s ← get
    let me := s.core.pos
    let h := s.owner me
    let rec_ := x.toNat % 2 ^ 48
    match s.parkedAt h rec_ with
    | none => raise 6 x
    | some p =>
      match (List.range 2).findSome? (fun i =>
          match s.xlate 8 h (rec_ + 0x3FFF * i) .load with | .error f => some f | .ok _ => none) with
      | some f => throw (.trap (if f.perm then 6 else 5) (BitVec.ofNat 64 (f.addr / 65536 * 65536)) (if f.stage = h then 0 else f.stage))
      | none =>
        let img := (s.peek h rec_ 0x4000).getD []
        match badTagOffset img with
        | some off => raise 2 (BitVec.ofNat 64 off)
        | none =>
          let t := ((s.holdSuit me (47 * s.period me)).syncRelease me none).resumeParked p img
          set { t with core := { t.core with pc := t.core.pc + 4, readyAt := s.now + 48 * s.period me, dbg := false } }

/-- HALT: the core's region ends, a timed segment ends, and the core stops once everything of R384 is complete. -/
def execHalt : State → Out :=
  issueOwn do
    raiseAppend
    let s ← get
    let t := s.syncRelease s.core.pos none
    let t := { t with core := { t.core with
      status := .halting, cseg := t.core.csegNow s.now, timed := false, readyAt := s.now + s.period s.core.pos, dbg := false } }
    set (if t.haltDone t.core.pos then t.haltCore else t)

/-! ## Requests to the dealer -/

/-- The region of which the control block lies at address a of region q's space. -/
def State.blockRegion (s : State) (q : RegionId) (a : Nat) : Option Region :=
  match s.xlate 8 q a .load with
  | .error _ => none
  | .ok x => s.regions.find? (fun r => r.id != 1 &&
      (match s.xlate 8 r.home r.block .load with | .ok y => y.pa == x.pa | .error _ => false))

/-- The checks of R345 on a block address; w is the instruction word. -/
def checkBlock (w : Nat) (a : Word) : M Unit := do
  let s ← get
  check (!s.core.timed) 1 (BitVec.ofNat 64 w)
  check (a.toNat % 64 == 0) 3 a
  check (decide (2 ^ 32 ≤ a.toNat) && decide (a.toNat + 512 ≤ 2 ^ 48)) 4 a
  let q := s.owner s.core.pos
  match [(0, AccKind.load), (0, .store), (511, .load), (511, .store)].findSome? (fun e =>
      match s.xlate 8 q (a.toNat + e.1) e.2 with | .error f => some f | .ok _ => none) with
  | some f =>
    if f.stage = q then raise (if f.perm then 6 else 5) a
    else throw (.trap (if f.perm then 6 else 5) (BitVec.ofNat 64 (f.addr / 65536 * 65536)) f.stage)
  | none => pure ()

/-- The physical page, its VERSION and the offset in it of an address of a region's space. -/
def State.imageKey (s : State) (q : RegionId) (a : Nat) : Option (Nat × Nat × Nat) :=
  match s.xlate 8 q a .load with
  | .ok x => some (x.pa / 65536, s.version (x.pa / 65536), x.pa % 65536)
  | .error _ => none

/-- Whether the dealer holds an image as verified at an address under the current VERSION of its page (R345). -/
def State.isVerified (s : State) (q : RegionId) (a : Nat) : Bool :=
  match s.imageKey q a with
  | some (p, v, o) => s.verified.any (fun e => e.1 == p && e.2.1 == v && e.2.2.1 == o)
  | none => false

/-- The request goes to the dealer; the core stalls until its answer (R345, R385). gD is tried first: where it is a bound
stream register, an append that must fail fails before anything is done. -/
def ask (op : Nat) (d : BitVec 5) (a arg : Word) (bound : Nat) : M Unit := do
  let s ← get
  writeG d 0 1
  set s
  let t := s.syncRelease s.core.pos none
  set { t with
    core := { t.core with status := .waiting (.answer d), readyAt := s.now + s.period s.core.pos, dbg := false, popped := [] }
    requests := t.requests ++ [Request.mk s.core.pos (s.ticks + bound) op a.toNat arg s.ticks] }

/-- RCREATE, up to the answer (R344-R346). -/
def execRcreate (d a : BitVec 5) : State → Out :=
  issueOwn do
    check (!(← getC).timed) 1 (BitVec.ofNat 64 (Instr.encode (.rcreate d a)))
    let x ← readG a
    checkBlock (Instr.encode (.rcreate d a)) x
    ask 0 d x 0 4000

/-- RLAUNCH, up to the answer: an image not yet verified takes longer (R344, R345, R347). -/
def execRlaunch (d a : BitVec 5) : State → Out :=
  issueOwn do
    check (!(← getC).timed) 1 (BitVec.ofNat 64 (Instr.encode (.rlaunch d a)))
    let x ← readG a
    checkBlock (Instr.encode (.rlaunch d a)) x
    let s ← get
    let q := s.owner s.core.pos
    ask 1 d x 0 (if s.isVerified q (s.peekNat q (x.toNat + 0x10) 8) then 4000 else 80000)

/-- RREVOKE, up to the answer (R394). -/
def execRrevoke (d a b : BitVec 5) : State → Out :=
  issueOwn do
    check (!(← getC).timed) 1 (BitVec.ofNat 64 (Instr.encode (.rrevoke d a b)))
    let x ← readG a
    let y ← readG b
    checkBlock (Instr.encode (.rrevoke d a b)) x
    ask 2 d x y 4000

/-- When every store and element load that the cores of some regions have under way in virtual memory is performed: the
requests that may use a translation of these regions (R403). -/
def State.requestsDone (s : State) (rs : List RegionId) : Nat :=
  let virtualOf (core place : Nat) : Bool := decide (2 ^ 36 ≤ place) && rs.contains (s.owner core)
  (((s.later.filter (fun e => virtualOf e.core e.place)).map Later.visible) ++
    ((s.gathers.filter (fun e => e.places.any (virtualOf e.core))).map Gather.due)).foldl max s.now

/-- RINVAL: every sluice drops the cached translations of a region and all below it, and the core stalls at least until the
requests under way that used one are complete (R403). How long the dropping takes has no figure. -/
def execRinval (a : BitVec 5) : State → Out :=
  issue 4 do
    let w := Instr.encode (.rinval a)
    check (!(← getC).timed) 1 (BitVec.ofNat 64 w)
    let x ← readG a
    let s ← get
    let q := s.owner s.core.pos
    let top ← (if x = 0 then pure q else do
      checkBlock w x
      match s.blockRegion q x.toNat with
      | some r =>
        check (r.state == .live && r.id != q && s.below 8 q r.id) 6 x
        pure r.id
      | none => raise 6 x)
    let s ← get
    let rs := (s.subtree top).map Region.id
    set ((s.syncRelease s.core.pos none).dropCached rs)
    let k ← fresh
    stallFor (k + (s.requestsDone rs - s.now + s.period s.core.pos - 1) / s.period s.core.pos)

end Sys2Proof.Machine
end

