-- ==== Sys2Proof/Machine/Image.lean ====
section
/-! DEFINITION. Cerby images as the dealer reads them: the checks of R106-R113, signatures (R113, R429), what is loaded (R109,
R112), relocations at placement (R111), and the lineage nodes of an image (R279). -/

namespace Sys2Proof.Machine

/-- An entry of the section table (R107). -/
structure Section where
  name : Nat
  kind : Nat
  align : Nat
  flags : Nat
  addr : Nat
  foff : Nat
  size : Nat
  deriving DecidableEq, Repr

/-- An entry of the symbol table (R108). -/
structure Symbol where
  sect : Nat
  stype : Nat
  value : Nat
  deriving DecidableEq, Repr

/-- An entry of the relocation table (R111). -/
structure Reloc where
  sect : Nat
  off : Nat
  sym : Nat
  rtype : Nat
  addend : Int
  deriving DecidableEq, Repr

/-- An executable image: its tables, the contents of its sections, where its signature block stands (0: unsigned). -/
structure Cerby where
  secs : List Section
  syms : List Symbol
  rels : List Reloc
  data : List (List Byte)
  sigOff : Nat
  deriving DecidableEq, Repr

/-- Reads bytes of a file; none where they cannot be read. -/
abbrev Reader := Nat → Nat → Option (List Byte)

/-! ## The checks of the format -/

/-- Name, flags and least alignment of a section kind (R109). -/
def sectionRule (kind : Nat) : Option (String × Nat × Nat) :=
  match kind with
  | 1 => some (".text", 3, 2)
  | 2 => some (".data", 5, 3)
  | 3 => some (".rodata", 1, 6)
  | 4 => some (".bss", 13, 3)
  | 5 => some (".wsp", 5, 14)
  | 6 => some (".lnt", 1, 6)
  | 7 => some (".cbk", 1, 5)
  | 8 => some (".stn", 1, 6)
  | 9 => some (".rcb", 5, 6)
  | 10 => some (".ttab", 0, 3)
  | 11 => some (".dbg", 0, 0)
  | _ => none

/-- The zero-terminated name at an offset of the string table (R107). -/
def nameAt (strs : List Byte) (off : Nat) : List Nat := ((strs.drop off).takeWhile (fun b => b != 0)).map BitVec.toNat

/-- The header (R106) of an executable: it has an entry symbol (R112 step 7), and its tables end by the signature block, which
stands last (R113). -/
def headerOk (h : List Byte) : Bool :=
  let signed := slice h 0x08 4 % 2 == 1
  slice h 0x00 4 == 0x00594243 && slice h 0x04 2 == 1 && slice h 0x06 2 == 2 && decide (slice h 0x08 4 < 2) &&
  decide (slice h 0x0C 4 < slice h 0x24 4) && slice h 0x1E 2 == 0 &&
  (if signed then
    slice h 0x3C 4 == 29832 && slice h 0x38 4 != 0 && decide (slice h 0x18 4 + 32 * slice h 0x1C 2 ≤ slice h 0x38 4) &&
    decide (slice h 0x20 4 + 32 * slice h 0x24 4 ≤ slice h 0x38 4) && decide (slice h 0x28 4 + 24 * slice h 0x2C 4 ≤ slice h 0x38 4) &&
    decide (slice h 0x30 4 + slice h 0x34 4 ≤ slice h 0x38 4)
   else slice h 0x38 4 == 0 && slice h 0x3C 4 == 0)

/-- One section entry (R107, R109); `lim` is the end of what may stand before the signature. -/
def sectionOk (strs : List Byte) (lim : Nat) (e : List Byte) : Bool :=
  let flags := slice e 0x06 2
  match sectionRule (slice e 0x04 1) with
  | none => false
  | some (name, fl, al) =>
    nameAt strs (slice e 0 4) == name.toList.map Char.toNat && decide (slice e 0 4 < strs.length) && flags == fl &&
    decide (al ≤ slice e 0x05 1) && decide (slice e 0x05 1 ≤ 16) && slice e 0x18 8 == 0 &&
    slice e 0x08 8 % 2 ^ slice e 0x05 1 == 0 &&
    (if fl / 8 % 2 = 1 then slice e 0x10 4 == 0 else decide (slice e 0x10 4 + slice e 0x14 4 ≤ lim))

/-- A section from its entry. -/
def sectionOf (e : List Byte) : Section :=
  ⟨slice e 0 4, slice e 4 1, slice e 5 1, slice e 6 2, slice e 8 8, slice e 0x10 4, slice e 0x14 4⟩

/-- The section in which the symbols of a type are defined, where only one is (R102, R108). -/
def homeKind (stype : Nat) : Option Nat :=
  match stype with
  | 4 => some 6
  | 5 => some 7
  | 6 => some 8
  | 7 => some 3
  | 8 => some 5
  | 9 => some 9
  | _ => none

/-- Bytes that the directive defining a symbol emits (R102, R108): of a label none, of a tensor its elements, of a stencil table one of
the two sizes of R300. -/
def emitted (stype rows cols tag : Nat) : List Nat :=
  match stype with
  | 3 => [elemBytes (tagWidth tag) (rows * cols)]
  | 4 => [64]
  | 5 => [32]
  | 6 => [128, 192]
  | 7 => [48]
  | 8 => [0x4000]
  | 9 => [512]
  | _ => [0]

/-- Whether the symbols of a type stand at the records of their section (R102). -/
def recordAt (stype value : Nat) : Bool :=
  match stype with
  | 4 => value % 64 == 0
  | 5 => value % 32 == 0
  | 8 => value % 0x4000 == 0
  | 9 => value % 64 == 0
  | _ => true

/-- One symbol entry but the first, which is all zero (R108): what it names lies in its section. DESIGN CHOICE (log 80): a tensor may
carry every assigned tag of R82 but those that only tiles have. -/
def symbolOk (strs : List Byte) (secs : List Section) (e : List Byte) : Bool :=
  let stype := slice e 7 1
  decide (slice e 0 4 < strs.length) &&
  (match secs[slice e 4 2]? with
    | some x => decide (slice e 8 8 + slice e 0x10 4 ≤ x.size) && (homeKind stype).all (fun k => k == x.kind)
    | none => decide (0xFFFE ≤ slice e 4 2) && (homeKind stype).isNone) &&
  decide (slice e 6 1 ≤ 1) && decide (stype ≤ 9) && slice e 0x1D 3 == 0 && recordAt stype (slice e 8 8) &&
  (emitted stype (slice e 0x14 4) (slice e 0x18 4) (slice e 0x1C 1)).contains (slice e 0x10 4) &&
  (if stype = 3 then
    decide (1 ≤ slice e 0x14 4) && decide (slice e 0x14 4 ≤ 2 ^ 20) && decide (1 ≤ slice e 0x18 4) &&
    decide (slice e 0x18 4 ≤ 2 ^ 20) && tagAssigned (slice e 0x1C 1) && decide (slice e 0x1C 1 < 20)
   else slice e 0x14 9 == 0)

/-- One relocation of an executable: MESH16 or LHANDLE (R111, R112 step 5). -/
def relocOk (secs : List Section) (syms : List Symbol) (e : List Byte) : Bool :=
  let place (n : Nat) : Bool := match secs[slice e 0 4]? with
    | some x => decide (slice e 4 4 + n ≤ x.size) && x.flags % 2 == 1 && x.kind != 4
    | none => false
  slice e 0xE 2 == 0 &&
  (if slice e 0xC 2 = 9 then place 2 && slice e 8 4 == 0
   else slice e 0xC 2 == 10 && place 4 && slice e 0x10 8 == 0 &&
     (match syms[slice e 8 4]? with | some y => y.stype == 4 | none => false))

/-- Whether an instruction is an anchor (R30). -/
def isAnchor : Instr → Bool
  | .tbegin _ | .waitc _ _ _ | .waitb _ _ _ | .waitn _ | .tfence | .gbar | .suitBar _ => true
  | _ => false

/-- Whether the word of a 32-bit instruction is an anchor's (R30). -/
def anchorWord (w : Nat) : Bool :=
  (match fld w 1 6 with
    | 0x27 => (decodeMaj27 w).filter Instr.wf
    | 0x35 => (decodeMaj35 w).filter Instr.wf
    | 0x3B => (decodeMaj3B w).filter Instr.wf
    | 0x3D => (decodeMaj3D w).filter Instr.wf
    | _ => none).any isAnchor

/-- One entry of the timetable (R110): its reserved bits are zero, its slot is 0xFFFF where it depends on the path and only there,
it names a place of `.text` and says whether an anchor stands there, and a TBEGIN has slot 0. -/
def slotOk (text : List Byte) (e : Nat) : Bool :=
  let off := e % 2 ^ 32
  let path := e / 2 ^ 57 % 2 == 1
  let word := slice text off 4
  let tbegin := word % 2 ^ 12 == 0x7B && word / 2 ^ 17 == 0x300
  e / 2 ^ 58 == 0 && decide (e / 2 ^ 48 % 256 ≤ 16) && (path == (e / 2 ^ 32 % 2 ^ 16 == 0xFFFF)) &&
  off % 2 == 0 && decide (off + (if slice text off 1 % 2 = 1 then 4 else 2) ≤ text.length) &&
  (e / 2 ^ 56 % 2 == 1) == (slice text off 1 % 2 == 1 && anchorWord word) &&
  (!tbegin || (!path && e / 2 ^ 32 % 2 ^ 16 == 0))

/-- The timetable (R110): entries in address order. -/
def ttabOk (text bs : List Byte) : Bool :=
  let es := (List.range (bs.length / 8)).map (fun i => slice bs (8 * i) 8)
  bs.length % 8 == 0 && es.all (slotOk text) && (es.zip (es.drop 1)).all (fun p => decide (p.1 % 2 ^ 32 < p.2 % 2 ^ 32))

/-- Sections that hold records of one size. DESIGN CHOICE (log 80): one that ends within a record breaks a rule of R106, though no
rule states its size. -/
def recordsOk (text : List Byte) (x : Section) (bs : List Byte) : Bool :=
  match x.kind with
  | 5 => x.size % 0x4000 == 0
  | 6 => x.size % 64 == 0
  | 7 => x.size % 32 == 0
  | 9 => x.size % 512 == 0
  | 10 => ttabOk text bs
  | _ => true

/-- The order in which sections lie in local memory (R112 step 2). -/
def localKinds : List Nat := [1, 3, 2, 7, 8, 4, 5]

/-- The sections that are loaded into local memory, in that order. -/
def localSecs (secs : List Section) : List Section := localKinds.flatMap (fun k => secs.filter (fun x => x.kind == k))

/-- `.text` lies at 0 and every section after the one before it (R112 step 2). -/
def layoutOk : Nat → List Section → Bool
  | _, [] => true
  | top, x :: r => decide (top ≤ x.addr) && (x.kind != 1 || x.addr == 0) && layoutOk (x.addr + x.size) r

/-- The entries of a table. -/
def tableOf (rd : Reader) (off n size : Nat) : Option (List (List Byte)) :=
  (rd off (n * size)).map (fun bs => (List.range n).map (fun i => (bs.drop (i * size)).take size))

/-- The entry symbol is a label in `.text`, at ENTRY (R102, R106), and not the null entry. -/
def entrySymOk (secs : List Section) (syms : List Symbol) (sym entry : Nat) : Bool :=
  match if sym = 0 then none else syms[sym]? with
  | some y => (match secs[y.sect]? with | some x => x.kind == 1 && x.addr + y.value == entry | none => false)
  | none => false

/-- An executable image, if it breaks no rule of R106-R113. That each TBEGIN of `.text` has its entry in `.ttab` (R110) the file does
not show: `.text` may hold data (R102). -/
def parseImage (rd : Reader) : Option Cerby := do
  let h ← rd 0 64
  guard (headerOk h)
  let sigOff := slice h 0x38 4
  let strs ← rd (slice h 0x30 4) (slice h 0x34 4)
  guard (strs.getLast? == none || strs.getLast? == some 0)
  let es ← tableOf rd (slice h 0x18 4) (slice h 0x1C 2) 32
  guard (es.all (sectionOk strs (if sigOff = 0 then 2 ^ 32 else sigOff)))
  let secs := es.map sectionOf
  guard ((secs.map Section.kind).Nodup ∧ layoutOk 0 (localSecs secs))
  let ys ← tableOf rd (slice h 0x20 4) (slice h 0x24 4) 32
  guard (!ys.isEmpty && (ys.take 1).all (fun y => y.all (fun b => b == 0)) && (ys.drop 1).all (symbolOk strs secs))
  let syms := ys.map (fun y => (⟨slice y 4 2, slice y 7 1, slice y 8 8⟩ : Symbol))
  guard (entrySymOk secs syms (slice h 0x0C 4) (slice h 0x10 8))
  let rs ← tableOf rd (slice h 0x28 4) (slice h 0x2C 4) 24
  guard (rs.all (relocOk secs syms))
  let rels := rs.map (fun r =>
    (⟨slice r 0 4, slice r 4 4, slice r 8 4, slice r 0xC 2, (BitVec.ofNat 64 (slice r 0x10 8)).toInt⟩ : Reloc))
  let data ← allSome (secs.map (fun x => if x.flags / 8 % 2 = 1 then some [] else rd x.foff x.size))
  let text := ((secs.zip data).find? (fun e => e.1.kind == 1)).elim [] Prod.snd
  guard ((secs.zip data).all (fun e => recordsOk text e.1 e.2))
  pure ⟨secs, syms, rels, data, sigOff⟩

/-! ## Signatures (R113, R429) -/

/-- The number of the image key that an image's signature verifies under; none where it verifies under none. -/
def signer (keys : List (Nat × List Byte)) (rd : Reader) (sigOff : Nat) : Option Nat := do
  guard (sigOff ≠ 0)
  let msg ← rd 0 sigOff
  let blk ← rd sigOff 29832
  guard (slice blk 0 4 = 1 ∧ slice blk 4 4 = 29792)
  let keyid := (blk.drop 8).take 32
  let k ← keys.find? (fun k => Config.shake256 32 k.2 == keyid)
  guard (Config.slhDsaVerify k.2 msg (blk.drop 0x28))
  pure k.1

/-- Whether a signature block has the layout of R113. -/
def sigBlockOk (rd : Reader) (sigOff : Nat) : Bool :=
  sigOff == 0 || (match rd sigOff 8 with | some b => slice b 0 4 == 1 && slice b 4 4 == 29792 | none => false)

/-- A file held as a list of bytes. -/
def listReader (bs : List Byte) : Reader := fun off n => if off + n ≤ bs.length then some ((bs.drop off).take n) else none

/-- A file at an address of a region's space; for region 0, the root image that the device holds (R432). -/
def State.fileAt (s : State) (q : RegionId) (a : Nat) : Reader :=
  if q = 0 then listReader s.device.rootImage else fun off n => s.peek q (a + off) n

/-! ## What is loaded -/

/-- First byte after the highest loaded byte of local memory. -/
def Cerby.top (im : Cerby) : Nat := (localSecs im.secs).foldl (fun m x => max m (x.addr + x.size)) 0

/-- The bytes loaded into each core: B of R351. A `.bss`, which is LOADED too, counts (log 50). -/
def Cerby.loaded (im : Cerby) : Nat := (localSecs im.secs).foldl (fun n x => n + x.size) 0

/-- Whether an address is an even one within `.text` (R340). -/
def Cerby.entryOk (im : Cerby) (entry : Nat) : Bool :=
  entry % 2 == 0 && im.secs.any (fun x => x.kind == 1 && decide (x.addr ≤ entry) && decide (entry < x.addr + x.size))

/-- Bytes put into a list at an offset. -/
def patch (bs : List Byte) (off : Nat) (new : List Byte) : List Byte := bs.take off ++ new ++ bs.drop (off + new.length)

/-- Index in the image of the lineage node that a symbol names: nodes count from 1 (R112 step 3). -/
def Cerby.nodeOf (im : Cerby) (sym : Nat) : Nat := (im.syms[sym]?.map (fun y => y.value / 64 + 1)).getD 0

/-- The contents of a section with its relocations applied for a region; none where a MESH16 position lies outside it (R111,
R355). -/
def Cerby.placed (im : Cerby) (r : Region) (handles : List (Nat × Nat)) (i : Nat) : Option (List Byte) :=
  (im.rels.filter (fun e => e.sect == i)).foldl (fun acc e => acc.bind (fun bs =>
    if e.rtype = 9 then
      if e.addend < 0 then none
      else (r.at? (e.addend.toNat % 256) (e.addend.toNat / 256)).map (fun p => patch bs e.off (leBytes 2 p))
    else some (patch bs e.off (leBytes 4 (alookup 0 handles (im.nodeOf e.sym)))))) (some (im.data.getD i []))

/-- The sections loaded into local memory, each with its address; `.bss` is zeroed (R109). -/
def Cerby.locals (im : Cerby) (r : Region) (handles : List (Nat × Nat)) : Option (List (Nat × List Byte)) :=
  allSome ((localSecs im.secs).map (fun x =>
    (if x.kind = 4 then some (zeros x.size) else im.placed r handles (im.secs.idxOf x)).map (fun bs => (x.addr, bs))))

/-- The `.rcb` sections as placed, each with its address. -/
def Cerby.blocks (im : Cerby) (r : Region) (handles : List (Nat × Nat)) : Option (List (Nat × List Byte)) :=
  allSome ((im.secs.filter (fun x => x.kind == 9)).map (fun x =>
    (im.placed r handles (im.secs.idxOf x)).map (fun bs => (x.addr, bs))))

/-! ## Lineage nodes of an image (R279) -/

/-- The node images of `.lnt`, each with its PARENT as a node index of the image, 0 for none. -/
def Cerby.nodes (im : Cerby) : List (Node × Nat) :=
  match im.secs.findIdx? (fun x => x.kind == 6) with
  | none => []
  | some i =>
    let bs := im.data.getD i []
    (List.range (bs.length / 64)).map (fun k =>
      let rel := im.rels.find? (fun e => e.sect == i && e.off == 64 * k && e.rtype == 10)
      (Node.ofBytes (bs.drop (64 * k)), match rel with | some e => im.nodeOf e.sym | none => 0))

/-- Bytes of the image's local memory, for the data of its nodes. -/
def Cerby.dataAt (im : Cerby) (a n : Nat) : Option (List Byte) :=
  (im.secs.zip im.data).findSome? (fun e =>
    if localKinds.contains e.1.kind && e.1.kind != 4 && decide (e.1.addr ≤ a) && decide (a + n ≤ e.1.addr + e.1.size) then
      some ((e.2.drop (a - e.1.addr)).take n)
    else none)

/-- Enter node k + 1 of an image into the table t for region q; answers its handle (R279). -/
def enterNode (t : Region) (q : RegionId) (im : Cerby) (k : Nat) (e : Node × Nat) (handles : List (Nat × Nat)) : L Nat := do
  let i := k + 1
  if t.lntCap ≤ i then linFail 8 0
  let old ← getNode t i
  if old.state ≠ 0 then linFail 8 0
  let n := e.1
  let par := alookup 0 handles e.2
  if !nodeTag n.tag || n.total == 0 || (e.2 != 0 && par == 0) || (n.depth == 0) != (e.2 == 0) then linFail 9 0
  let base : Node := { n with parent := par, state := 2, children := 0, owner := q.toNat, gen := old.gen, pending := false,
                              deferred := false, ncount := 0, pages := 0, daddr := 0, dsize := 0 }
  let done ← (if e.2 = 0 then
      match im.dataAt n.daddr (elemBytes n.width n.total) with
      | none => linFail 9 0
      | some bs => storeImage t i base 0 (bs ++ zeros ((64 - bs.length % 64) % 64)) 0 0
    else do
      let head := (im.dataAt n.daddr 16).getD []
      let nv := slice head 4 4
      match im.dataAt n.daddr (16 + 8 * slice head 0 4 + nv + elemBytes n.width nv) with
      | none => linFail 9 0
      | some bs =>
        if head.isEmpty || (elemPositions n.width n.total bs).isNone then linFail 9 0
        else storeImage t i base 1 bs nv 0)
  putNode t i done
  if e.2 = 0 then pure ()
  else do
    let p ← getNode t e.2
    if p.tag ≠ n.tag || p.rows ≠ n.rows || p.cols ≠ n.cols || p.depth + 1 ≠ n.depth then linFail 9 0
    putNode t e.2 { p with children := p.children + 1 }
  pure (i * 256 + old.gen)

/-- Enter the nodes of an image in order; answers index and handle of each. -/
def enterNodes (t : Region) (q : RegionId) (im : Cerby) : Nat → List (Node × Nat) → List (Nat × Nat) → L (List (Nat × Nat))
  | _, [], hs => pure hs
  | k, e :: r, hs => do
    let h ← enterNode t q im k e hs
    enterNodes t q im (k + 1) r (hs ++ [(k + 1, h)])

/-- Enter an image's nodes for region q, all or none: the handles and the state, or none (R279). -/
def State.enterImage (s : State) (q : RegionId) (im : Cerby) : Option (List (Nat × Nat) × State) :=
  if im.nodes.isEmpty then some ([], s)
  else match s.region? (s.tableOwner 8 q) with
    | none => none
    | some t => match enterNodes t q im 0 im.nodes [] s with
      | .ok hs u => some (hs, u)
      | .error _ _ => none

end Sys2Proof.Machine
end

