-- ==== Sys2Proof/Machine/Regions.lean ====
section
/-! DEFINITION. The dealer's answers: creating a region (R340-R346, R387), admitting a launch (R347, R351, R352), revoking
(R394). -/

namespace Sys2Proof.Machine

/-- The code of the first check that fails. -/
def firstRefusal : List (Bool × Nat) → Option Nat
  | [] => none
  | (ok, c) :: r => if ok then firstRefusal r else some c

/-! ## RCREATE (R346) -/

/-- A value of a block field, 0 for the parent's (R18). -/
def orElse (x y : Nat) : Nat := if x = 0 then y else x

/-- The core map of a block (R340); none where it cannot be read. -/
def State.coreMap (s : State) (q : RegionId) (b : List Byte) : Option (List Nat) :=
  let n := (slice b 0x8A 1 + 1) * (slice b 0x8B 1 + 1)
  (s.peek q (slice b 0x90 8) (2 * n)).map (fun bs => (List.range n).map (fun i => slice bs (2 * i) 2))

/-- The child that a block describes, with the identifier it would get. -/
def childOf (p : Region) (id : RegionId) (a : Nat) (b : List Byte) (cmap : List Nat) : Region where
  id := id
  depth := p.depth + 1
  parent := p.id
  state := .live
  block := a
  home := p.id
  prio := orElse (slice b 0x06 1) p.prio
  dbgGang := slice b 0x07 1 % 2 == 1
  watchdog := if slice b 0x07 1 / 2 % 2 = 1 then slice b 0x58 8 else p.watchdog
  fdom := orElse (slice b 0x60 2) p.fdom
  weight := orElse (slice b 0x88 2) p.weight
  tclass := if slice b 0x130 1 = 0 then p.tclass else slice b 0x130 1 - 1
  hmask := if slice b 0x07 1 / 4 % 2 = 1 then BitVec.ofNat 32 (slice b 0x8C 4) else p.hmask
  hvec := if slice b 0x07 1 / 4 % 2 = 1 then BitVec.ofNat 64 (slice b 0xA0 8) else p.hvec
  xroot := slice b 0x98 8
  ownLnt := slice b 0x07 1 / 8 % 2 == 1
  lntBase := slice b 0xA8 8
  lntCap := slice b 0xB0 4
  poolBase := slice b 0xB8 8
  poolPages := slice b 0xB4 4
  alog := slice b 0xC0 8
  swap := slice b 0xC8 8
  cores := slice b 0x68 4
  pages := slice b 0x6C 4
  queue := slice b 0x62 2
  contexts := slice b 0x64 2
  res := slice b 0x66 2
  tokens := slice b 0x70 8
  pagesUsed := 0
  queueUsed := 0
  contextsUsed := 0
  carved := [slice b 0x68 4, slice b 0x6C 4, slice b 0x70 8, slice b 0x62 2, slice b 0x64 2, slice b 0x66 2]
  borrow := slice b 0x78 8
  repay := slice b 0x80 8
  balance := (slice b 0x70 8 : Nat)
  marker := 0
  earmark := 0
  pool := 0
  deficit := 0
  lw := slice b 0x8A 1
  lh := slice b 0x8B 1
  cmap := cmap
  seq := 0
  launches := []
  refused := none
  revokeTs := none
  revoker := none
  placed := []
  lost := []

/-- The lowest free identifier from 2 on, among n candidates (R16). -/
def State.freeId (s : State) : Nat → Nat → Option Nat
  | 0, _ => none
  | n + 1, i =>
    if s.regions.any (fun r => r.state != .retired && r.id.toNat == i) then s.freeId n (i + 1) else some i

/-- The fields of a block that stand for themselves (code 1). -/
def blockOk (b : List Byte) : Bool :=
  let rf := slice b 0x07 1
  (b.drop 0x131).all (fun x => x == 0) && decide (rf < 16) && decide (slice b 0x06 1 ≤ 8) && decide (slice b 0x130 1 ≤ 6) &&
  (rf / 4 % 2 == 0 || (slice b 0x8C 4 % 2 == 0 && decide (slice b 0x8C 4 < 2 ^ 19))) &&
  slice b 0x98 8 % 0x8000 == 0 && slice b 0xC8 8 % 0x10000 == 0 &&
  (rf / 8 % 2 == 0 || (decide (2 ≤ slice b 0xB0 4) && decide (slice b 0xB0 4 ≤ 2 ^ 24) && slice b 0xA8 8 % 64 == 0 &&
    slice b 0xB8 8 % 0x10000 == 0))

/-- The areas that a child names translate as their rules require (R247, R316, R388); t holds the child already. -/
def State.areasOk (t : State) (r : Region) : Bool :=
  let n := (r.lw + 1) * (r.lh + 1)
  t.spanOk r.id r.alog (n * 256) .load && t.spanOk r.id r.alog (n * 256) .store &&
  (r.swap == 0 || t.spanOk r.parent r.swap (n * 2 ^ 17) .store) &&
  (r.swap != 0 || r.hmask.toNat / 2 % 2 ^ 18 == 2 ^ 18 - 1) &&
  (!r.ownLnt || (t.spanOk r.id r.lntBase (64 * r.lntCap) .load && (r.poolPages == 0 ||
    (t.spanOk r.id r.poolBase (65536 * r.poolPages) .load && t.spanOk r.id r.poolBase (65536 * r.poolPages) .store))))

/-- Whether a fault domain may be named by a child of p: p's own, or one that no live region outside p's subtree uses (R18). -/
def State.fdomOk (s : State) (p : Region) (f : Nat) : Bool :=
  f == 0 || f == p.fdom || s.regions.all (fun r => r.state == .retired || s.below 8 p.id r.id || r.fdom != f)

/-- Whether a core may be given to a child (code 5). -/
def State.givable (s : State) (p : Region) (pos : Nat) : Bool :=
  s.owner pos == p.id && p.supervisor != pos &&
  (match p.current? with
   | some l => !(l.cores.contains pos && s.takesPart p.id l.seq pos) || (s.coreAt pos).status == .halted
   | none => true)

/-- A region's local memories and scratchpads as they pass to another region (R21, R396). -/
def State.passCores (s : State) (cores : List Nat) : State :=
  cores.foldl (fun t p =>
    let u := t.release (localPlace p 0) (2 ^ 17)
    if groupPos p = 0 then u.release (spadPlace (groupOf p) 0) (2 ^ 22) else u) s

/-- RCREATE at block a of region p's space: the refusal code, or the identifier and the state (R346). -/
def State.create (s : State) (p : Region) (a : Nat) : Except Nat (RegionId × State) :=
  let b := (s.peek p.id a 512).getD []
  let cmap := s.coreMap p.id b
  let m := cmap.getD []
  let id := s.freeId 0xFFFD 2
  let c := { childOf p (BitVec.ofNat 16 (id.getD 0xFFFF)) a b m with lost := s.lostPages }
  let with_ : State := { s with regions := s.regions ++ [c] }
  match firstRefusal [
      (p.state == .live, 17),
      (blockOk b && cmap.isSome && m.all (fun e => decide (e < meshSize)) && decide m.Nodup && s.fdomOk p (slice b 0x60 2) &&
        with_.areasOk c, 1),
      (decide (p.depth < 7), 3),
      (m.all (s.givable p) && c.cores == m.length, 5),
      (decide (c.cores ≤ p.cores) && decide (c.pages + p.pagesUsed ≤ p.pages) && decide (c.tokens ≤ p.tokens) &&
        decide (c.queue + p.queueUsed ≤ p.queue) && decide (c.contexts + p.contextsUsed ≤ p.contexts) && decide (c.res ≤ p.res) &&
        decide (c.prio ≤ p.prio) && decide (c.weight ≤ p.weight), 6),
      (id.isSome, 4)] with
  | some code => .error code
  | none =>
    let key := (s.xlate 8 p.id a .load).toOption.map XOk.pa
    let stale (r : Region) : Bool := r.state == .retired && (r.id == c.id ||
      (key.isSome && (s.xlate 8 r.home r.block .load).toOption.map XOk.pa == key))
    let t : State := { s with regions := (s.regions.filter (fun r => !stale r)) ++ [c] }
    let t := t.modRegion p.id (fun r => { r with
      cores := r.cores - c.cores, pages := r.pages - c.pages, tokens := r.tokens - c.tokens, queue := r.queue - c.queue,
      contexts := r.contexts - c.contexts, res := r.res - c.res })
    let u := (t.passCores m).writeBlock c.id
    let u := m.foldl (fun u q => u.modCore q (fun _ => Core.reset q)) u
    .ok (c.id, match p.current? with | some l => u.endIfHalted p.id l.seq | none => u)

/-! ## RLAUNCH (R347, R351, R352) -/

/-- A region with its ancestors, the region first. -/
def State.lineOf (s : State) : Nat → RegionId → List Region
  | 0, _ => []
  | n + 1, q => match s.region? q with
    | none => []
    | some r => r :: (if q = 1 then [] else s.lineOf n r.parent)

/-- The context of a region that yielded last on a core (R356). -/
def Region.yielded (r : Region) (pos : Nat) : Option Core :=
  let es := r.launches.flatMap (fun l => (l.saved.filter (fun c => c.pos == pos)).map (fun c => (l.order, c)))
  (es.find? (fun e => es.all (fun d => decide (d.1 ≤ e.1)))).map Prod.snd

/-- A mailbox counter as a dependence reads it, for the nearest region of a line that maps its core (R352): the resident
counter, or the saved value, that of the yield copy in SWAP where there is one, with the arrival log's sum. -/
def State.depCounter (s : State) (line : List Region) (pos : Nat) (idx : BitVec 6) : BitVec 32 :=
  match line.find? (fun r => r.maps pos) with
  | none => 0
  | some r =>
    let mine := s.owner pos == r.id
    let kept : BitVec 32 :=
      if mine && (s.coreAt pos).resident then (s.coreAt pos).counters[idx.toNat]
      else match r.yielded pos with
        | some c => BitVec.ofNat 32 (s.peekNat r.home (r.swap + 2 ^ 17 * r.indexOf pos + c.cwp.toNat + 0xA00 + 4 * idx.toNat) 4)
        | none => if mine then (s.coreAt pos).counters[idx.toNat] else 0
    kept + s.logSum r pos idx

/-- Whether every dependence of a launch holds (R352). -/
def State.depsHold (s : State) (q : RegionId) (l : Launch) : Bool :=
  l.deps.all (fun d => counterReached (s.depCounter (s.lineOf 8 q) d.1 d.2.1) d.2.2)

/-- A launch becomes ready; a deadline launch that does so after its latest start turns void (R352). -/
def State.makeReady (s : State) (q : RegionId) (seq : Nat) : State :=
  let t := ({ s with readied := s.readied + 1 }).modLaunch q seq (fun l => { l with
    state := .ready, order := s.readied, readyTick := s.ticks })
  match (t.region? q).bind (fun r => r.launch? seq) with
  | none => t
  | some l => match l.deadline with
    | none => t
    | some td => if td < s.ticks + l.worst + l.load + 64 then t.voidLaunch q seq 0x20 else t

/-- The sum of TOKENS − repay over some deals to come (R351 test 4). -/
def Region.supply (r : Region) (n : Nat) : Int := (n * r.tokens : Nat) - (min r.marker (n * r.repay) : Nat)

/-- No die that a launch of some cores would use and no layer is near its throttle point (R411, R434). -/
def State.coolEnough (s : State) (cores : List Nat) : Bool :=
  s.device.dies.all (fun d => !(cores.any (fun p => dieOf p == d.id)) || (decide (d.temp < 110) && !d.stopped)) &&
  s.device.baseDies.toList.all (fun k => k.temps.all (fun t => decide (t < 100)))

/-- The launch queue as the admission test sees it: loads admitted and not yet begun to run (R351 test 5). -/
def State.admittedLoads (s : State) : List (Nat × Nat) :=
  s.regions.flatMap (fun r => (r.launches.filter (fun l =>
    l.deadline.isSome && (l.state == .waiting || l.state == .ready || l.state == .loading))).map
      (fun l => (l.promise.1 - l.load - 64, l.promise.1)))

/-- The admission test (R351): the refusal code, or the promised start and end. t is the issue tick of RLAUNCH. -/
def State.admission (s : State) (r : Region) (t deadline tstart worst load cost : Nat) : Except Nat (Nat × Nat) :=
  let td := t + deadline
  let open_ := r.launches.filter (fun l => l.state.unfinished)
  let f := open_.foldl (fun m l => max m l.promise.2) 0
  let ts0 := t + load + 64
  let ts := if tstart = 0 then ts0 else tstart
  let span := (ts - load - 64, ts)
  match firstRefusal [
      (open_.all (fun l => l.deadline.isSome), 11),
      (tstart == 0 || decide (ts0 ≤ tstart), 10),
      (decide (max ts f + worst ≤ td), 8),
      (decide ((r.earmark + cost : Nat) ≤ r.balance + r.supply (td / 200000 - s.dealt)), 9),
      (decide ((s.admittedLoads.filter (fun e => decide (e.1 ≤ span.2) && decide (span.1 ≤ e.2))).length < 16), 15),
      (s.coolEnough (s.freeCores r), 16)] with
  | some c => .error c
  | none => .ok (ts, max ts f + worst)

/-- The dependences of a block (R340): none where one is malformed (R352). -/
def State.depsOf (s : State) (q : RegionId) (b : List Byte) : Option (List (Nat × BitVec 6 × BitVec 32)) :=
  let line := s.lineOf 8 q
  let words := ((List.range 8).map (fun i => slice b (0xD0 + 8 * i) 8)).filter (fun d => d % 2 ^ 32 != 0)
  allSome (words.map (fun d => (counterAddr (d % 2 ^ 32)).bind (fun e =>
    if line.any (fun r => r.maps e.1) then some (e.1, e.2, BitVec.ofNat 32 (d / 2 ^ 32)) else none)))

/-- Verification of an image at an address of region q's space: the state that remembers it, or none (R113, R345). -/
def State.verify (s : State) (q : RegionId) (a sigOff : Nat) : Option State :=
  if s.isVerified q a then some s
  else match signer s.device.keys (s.fileAt q a) sigOff, s.imageKey q a with
    | some k, some (p, v, o) => some { s with verified := (p, v, o, k) :: s.verified }
    | _, _ => none

/-- RLAUNCH of region r from the block b read in region q's space: the refusal code, or the launch number and the state
(R347). -/
def State.submit (s : State) (q : RegionId) (r : Region) (b : List Byte) (issued : Nat) : Except Nat (Nat × State) :=
  let image := slice b 0x10 8
  let worst := slice b 0x38 8
  let wsbase := slice b 0x54 4
  let deps := s.depsOf r.id b
  let rd := s.fileAt q image
  if r.state != .live then .error 17
  else if !(decide (1 ≤ worst) && decide (worst ≤ 2 ^ 40) && wsbase % 0x4000 == 0 && decide (wsbase ≤ 0x1C000) &&
      image % 64 == 0 && deps.isSome) then .error 1
  else match parseImage rd with
  | none => .error 12
  | some im =>
    if !(sigBlockOk rd im.sigOff && decide (im.top ≤ orElse wsbase 0x1C000) && im.entryOk (slice b 0x08 8)) then .error 12
    else match s.verify q image im.sigOff with
    | none => .error 13
    | some s1 =>
      let load := 2048 + (im.loaded + 63) / 64
      let cost := r.cores * (worst + load + 64)
      let deadline := slice b 0x40 8
      if r.queue ≤ r.queueUsed then .error 7
      else match (if deadline = 0 then .ok (0, 0) else s1.admission r issued deadline (slice b 0x48 8) worst load cost) with
      | .error c => .error c
      | .ok promise => match s1.enterImage r.id im with
        | none => .error 14
        | some (handles, t) =>
          let l : Launch := {
            seq := r.seq + 1, entry := BitVec.ofNat 64 (slice b 0x08 8), image := BitVec.ofNat 64 image, space := q, keys := s.device.keys
            args := (List.range 4).map (fun i => BitVec.ofNat 64 (slice b (0x18 + 8 * i) 8)), worst := worst
            deadline := if deadline = 0 then none else some (issued + deadline), tstart := slice b 0x48 8
            stack := slice b 0x50 4, wsbase := orElse wsbase 0x1C000, deps := deps.getD [], load := load, cost := cost
            promise := promise, handles := handles, earmark := if deadline = 0 then 0 else cost, state := .waiting, code := 0
            voided := false, order := 0, readyTick := 0, cores := [], loadAt := 0, startAt := 0, settled := 0, superstep := 0, boundary := 0
            yield := false, stopTs := none, stopped := false, resumeTr := none, saved := [] }
          let u := t.modRegion r.id (fun r => { r with
            seq := r.seq + 1, launches := r.launches.filter (fun l => l.state.unfinished) ++ [l], refused := none
            queueUsed := r.queueUsed + 1, earmark := r.earmark + l.earmark })
          let u := if u.depsHold r.id l then u.makeReady r.id l.seq else u
          .ok (l.seq, u.writeBlock r.id)

/-! ## RREVOKE (R394) -/

/-- Every launch of a region that has not started is dropped with code 0x23. -/
def State.dropWaiting (s : State) (q : RegionId) : State :=
  match s.region? q with
  | none => s
  | some r => (r.launches.filter (fun l => l.state == .waiting || l.state == .ready || l.state == .suspended)).foldl
      (fun t l => t.closeLaunch q l.seq .void 0x23) s

/-- RREVOKE of region r, answered now, by the core at `by_` (R394). -/
def State.revoke (s : State) (r : Region) (grace by_ : Nat) : State :=
  let ts := s.ticks + max grace 256
  let t := (s.subtree r.id).foldl (fun t x =>
    let u := (t.dropWaiting x.id).modRegion x.id (fun y => { y with
      state := .revoking
      revokeTs := some (min ts (y.revokeTs.getD ts))
      revoker := if y.id == r.id then some by_ else none })
    let u := u.writeBlock x.id
    if x.current?.isSome then u.queueTree x.supervisor true (BitVec.ofNat 64 ts) else u) s
  t

/-! ## The answer -/

/-- A refusal as gD receives it (R345). -/
def refusalWord (code : Nat) : Word := BitVec.ofNat 64 (2 ^ 63 + code)

/-- What the dealer makes of a request of the core at e.core: the result word and the state (R345-R347, R394). -/
def State.serve (s : State) (e : Request) : Word × State :=
  let q := s.owner e.core
  let none2 : Word × State := (refusalWord 2, s)
  match s.region? q with
  | none => none2
  | some p =>
    let s := s.settleTokens q
    match e.op with
    | 0 => match s.create (s.region? q |>.getD p) e.addr with
      | .ok (id, t) => (BitVec.ofNat 64 id.toNat, t)
      | .error c => (refusalWord c, s)
    | 1 => match s.blockRegion q e.addr with
      | none => none2
      | some r =>
        if !(s.below 8 q r.id) then none2
        else
          let s := s.settleTokens r.id
          match s.submit q ((s.region? r.id).getD r) ((s.peek q e.addr 512).getD []) e.issued with
          | .ok (seq, t) => (BitVec.ofNat 64 seq, t)
          | .error c => (refusalWord c, (s.modRegion r.id (fun r => { r with refused := some c })).writeBlock r.id)
    | _ => match s.blockRegion q e.addr with
      | none => none2
      | some r =>
        if r.id == q || !(s.below 8 q r.id) then none2
        else if r.state != .live then (refusalWord 17, s)
        else if 2 ^ 40 < e.arg.toNat then (refusalWord 1, s)
        else (0, s.revoke r e.arg.toNat e.core)

/-- The launch placed on the current core, where a gang stop of it has been taken and holds this core. -/
def State.stopTaken (s : State) : Option Launch :=
  (s.placedOn s.core.pos).bind (fun e => if e.2.stopped && s.stopping s.core.pos then some e.2 else none)

/-- The answer to the current core's request: the dealer acts, gD receives the result, the core goes on (R345); at a gang stop
that came before, it stops now (R385, R392). -/
def State.answer (s : State) : Option Out :=
  match s.requests.find? (fun e => e.core == s.core.pos), s.core.status with
  | some e, .waiting (.answer d) =>
    let (x, t) := { s with requests := s.requests.filter (fun r => r.core != s.core.pos) }.serve e
    let t := { t with core := { t.core with status := .running } }
    match writeG d x 1 t with
    | .ok _ u =>
      let v := { u with core := { u.core with readyAt := u.now } }.advance 4
      some (.next (match v.stopTaken with
        | some l => v.stopCore (12 * l.stopTs.getD v.ticks) v.core.pos
        | none => v))
    | .error (.stall _) _ => none
    | .error st _ => some (stopped t t st)
  | _, _ => none

/-- DEALER_ANSWER (R345). -/
def execDealerAnswer (s : State) : Out :=
  match s.answer with
  | some o => o
  | none => .refused (.notEnabled "DEALER_ANSWER")

end Sys2Proof.Machine
end

