-- ==== Sys2Proof/Machine/Tokens.lean ====
section
/-! DEFINITION. The deal (R349), a loan (R350), and a launch that runs past WORST (R342). -/

namespace Sys2Proof.Machine

/-- The regions that stand, parents before children and within one depth by ascending identifier (R349). -/
def State.dealOrder (s : State) : List RegionId :=
  (sortNats ((s.regions.filter (fun r => r.state != .retired)).map (fun r => r.depth * 2 ^ 16 + r.id.toNat))).map
    (BitVec.ofNat 16)

/-- A region is dealt to: it lends what it has when it has no launch, it repays, it is refilled (R349). -/
def State.dealTo (s : State) (q : RegionId) : State :=
  match s.region? q with
  | none => s
  | some r =>
    let lends := r.id != 1 && decide (0 < r.balance) && r.launches.all (fun l => !l.state.unfinished)
    let t := if lends then s.modRegion r.parent (fun p => { p with pool := p.pool + r.balance.toNat }) else s
    let b := if lends then 0 else r.balance
    let repay := min r.marker r.repay
    (t.modRegion q (fun r => { r with
      marker := r.marker - repay
      balance := min b (Int.ofNat r.tokens) + (Int.ofNat r.tokens - Int.ofNat repay) })).writeBlock q

/-- One deal: earlier loans' sources expire, then every region in order. -/
def State.deal (s : State) : State :=
  let s := s.dealOrder.foldl State.settleTokens s
  let t : State := { s with regions := s.regions.map (fun (r : Region) => { r with pool := 0 }), dealt := s.dealt + 1 }
  t.dealOrder.foldl State.dealTo t

/-- DEAL (R349). -/
def execDeal : State → Out :=
  event "DEAL" (fun s => decide ((s.dealt + 1) * 200000 ≤ s.ticks)) State.deal

/-- A loan (R350): the draw that finds nothing unpledged takes what it may from the parent's pool. -/
def State.borrow (s : State) (q : RegionId) : State :=
  let s := s.settleTokens q
  match s.region? q with
  | none => s
  | some r =>
    let x := s.loan r
    (s.modRegion q (fun r => { r with balance := r.balance + Int.ofNat x, marker := r.marker + x })).modRegion r.parent
      (fun p => if p.id == r.id then p else { p with pool := p.pool - x })

/-- BALANCE_EXHAUSTED (R350). With nothing to borrow, the region keeps no tokens until its next deal. -/
def execBalanceExhausted (reg : RegionId) : State → Out :=
  event "BALANCE_EXHAUSTED"
    (fun s => match (s.region? reg).bind Region.exhaustTick with | some t => decide (t ≤ s.ticks) | none => false)
    (fun s => s.borrow reg)

/-- The tick in which a running deadline launch has run past WORST. -/
def Region.worstTick (r : Region) : Option Nat :=
  r.running?.bind (fun l => if l.deadline.isSome && !l.voided && l.stopTs.isNone then some (l.startAt + l.worst + 1) else none)

/-- WORST_EXCEEDED (R342): the launch loses its promise with code 0x21 and runs on. -/
def execWorstExceeded (reg : RegionId) : State → Out :=
  event "WORST_EXCEEDED"
    (fun s => match (s.region? reg).bind Region.worstTick with | some t => decide (t ≤ s.ticks) | none => false)
    (fun s => match (s.region? reg).bind Region.running? with | some l => s.voidLaunch reg l.seq 0x21 | none => s)

end Sys2Proof.Machine
end

