-- ==== Sys2Proof/Machine/SchedEvents.lean ====
section
/-! DEFINITION. What the dealer does by itself: readiness, placement and start of launches (R352-R355, R21), superstep
boundaries and yield (R36-R38, R356), gang stops (R39-R42, R391, R392), dismantling (R395), and the arrival of increments
(R316). -/

namespace Sys2Proof.Machine

/-! ## Readiness and placement -/

/-- LAUNCH_READY (R352). -/
def execLaunchReady (reg : RegionId) (seq : Nat) : State → Out :=
  event "LAUNCH_READY"
    (fun s => match (s.region? reg).bind (fun r => r.launch? seq) with
      | some l => l.state == .waiting && s.depsHold reg l
      | none => false)
    (fun s => s.makeReady reg seq)

/-- The launch of a region that is placed next: the first to have become ready (R353, R356). -/
def Region.head? (r : Region) : Option Launch :=
  let ls := r.launches.filter (fun l => l.state == .ready || l.state == .suspended)
  ls.find? (fun l => ls.all (fun m => decide (l.order ≤ m.order)))

/-- The earliest tick at which the dealer starts to load a launch (R355). -/
def Launch.loadFrom (l : Launch) : Nat := if l.tstart = 0 ∨ l.state = .suspended then 0 else l.tstart - l.load - 64

/-- The head of a region that could be loaded now (R353, R355). -/
def State.eligible (s : State) (r : Region) : Option Launch :=
  if r.state == .live && r.current?.isNone then
    r.head?.bind (fun l =>
      if s.canDraw r l && decide (l.loadFrom ≤ s.ticks) then some l else none)
  else none

/-- Latest start of a deadline launch (R352). -/
def Launch.latest (l : Launch) : Option Nat := l.deadline.map (fun td => td - l.worst - l.load - 64)

/-- The region that the dealer serves next (R353): deadline launches by latest start; else the highest priority, and within it
the next identifier in turn. A load costs at most 3,840, less than Q, so that every visit of a region serves its head and
leaves it without an eligible item: every deficit is 0 between placements. -/
def State.choice (s : State) : Option RegionId :=
  let es := s.regions.filterMap (fun r => (s.eligible r).map (fun l => (r, l)))
  let key (e : Region × Launch) : Nat := (e.2.latest.getD 0) * 2 ^ 16 + e.1.id.toNat
  let dl := es.filter (fun e => e.2.deadline.isSome)
  if 16 ≤ (s.regions.filter (fun r => r.launches.any (fun l => l.state == .loading))).length then none
  else match dl.find? (fun e => dl.all (fun d => decide (key e ≤ key d))) with
    | some e => some e.1.id
    | none =>
      let top := es.foldl (fun m e => max m e.1.prio) 0
      let rest := es.filter (fun e => e.1.prio == top)
      let turn (e : Region × Launch) : Nat := (e.1.id.toNat + (2 ^ 16 - 1) - s.served.toNat) % 2 ^ 16
      (rest.find? (fun e => rest.all (fun d => decide (turn e ≤ turn d)))).map (fun e => e.1.id)

/-- A group on which a launch of a region is placed: its tag table and codebook are cleared if its last launch was another
region's (R161, R235). -/
def Group.take (g : Group) (q : RegionId) : Group :=
  if g.last = q then g else { g with tags := [], codebook := Vector.replicate 4 (Vector.replicate 16 0), last := q }

/-- The image of a launch is put into the cores, section by section, and its blocks at the first placement into the region's
memory; none where it cannot be placed (R21, R355). -/
def State.loadImage (s : State) (r : Region) (l : Launch) (im : Cerby) (cores : List Nat) : Option State := do
  let parts ← im.locals r l.handles
  let blocks ← im.blocks r l.handles
  let first := !r.placed.contains l.image
  guard (!first || blocks.all (fun b => s.spanOk r.id b.1 b.2.length .store))
  let t := cores.foldl (fun t p => parts.foldl (fun t e =>
    (t.setBytes (localPlace p e.1) e.2).healed (localPlace p e.1) e.2.length) t) s
  let t := if first then blocks.foldl (fun t b => t.poke r.id b.1 b.2) t else t
  pure (t.modRegion r.id (fun r => { r with placed := if first then l.image :: r.placed else r.placed }))

/-- The memories of a suspended launch come back from SWAP (R356). -/
def State.restoreMemory (s : State) (r : Region) (cores : List Nat) : State :=
  cores.foldl (fun t p => t.setBytes (localPlace p 0) ((t.peek r.home (r.swap + 2 ^ 17 * r.indexOf p) (2 ^ 17)).getD [])) s

/-- The memories as a launch is placed: those of a suspended one come back, and any other loads its image; the code of a failure. The
dealer loads only an image whose signature verifies (R113), as its bytes stand now (log 50) and under the keys that stood when the
launch was admitted (R429); the root's was verified at the start (R432). -/
def State.fillCores (s : State) (r : Region) (l : Launch) (cores : List Nat) : Except Nat State :=
  if l.state == .suspended then .ok (s.restoreMemory r cores)
  else
    let rd := s.fileAt l.space l.image.toNat
    match parseImage rd with
    | none => .error 12
    | some im =>
      if l.space != 0 && (signer l.keys rd im.sigOff).isNone then .error 13
      else match s.loadImage r l im cores with
        | none => .error 12
        | some t => .ok t

/-- Whether a suspended launch left a timed segment running on some core: the segment goes on at 2.0 GHz (R46, R356). -/
def Launch.timed (l : Launch) : Bool := l.saved.any Core.timed

/-- A launch is placed: loading starts now, the agreed start is T (R355), and the dies of an admitted deadline launch run at
2.0 GHz (R433). A launch whose image cannot be placed fails. -/
def State.place (s : State) (r : Region) (l : Launch) : State :=
  let cores := if l.state == .suspended then l.cores.filter (fun p => s.owner p == r.id) else s.freeCores r
  match s.fillCores r l cores with
  | .error c => s.closeLaunch r.id l.seq .refused c
  | .ok t =>
    let start := s.ticks + l.load + 64
    let u := (cores.map groupOf).eraseDups.foldl (fun u g => u.modGroup g (fun g => g.take r.id)) t
    let u := cores.foldl (fun u p => u.modCore p (fun c => { c with launch := l.seq, status := .idle })) u
    let u := if l.deadline.isSome then u.fastDies (fun d => cores.any (fun p => dieOf p == d)) else u
    let u := if l.timed then u.fullClock else u
    { u.modLaunch r.id l.seq (fun l => { l with
        state := .loading, cores := cores, loadAt := s.ticks, settled := s.ticks
        startAt := if l.state == .suspended then start else max l.tstart start }) with served := r.id }

/-- LAUNCH_PLACE (R355). -/
def execLaunchPlace (reg : RegionId) (s : State) : Out :=
  match s.region? reg with
  | none => .refused (.notEnabled "LAUNCH_PLACE")
  | some r => match s.eligible r with
    | some l => if s.choice = some reg then .next (s.place r l) else .refused (.notEnabled "LAUNCH_PLACE")
    | none => .refused (.notEnabled "LAUNCH_PLACE")

/-! ## Start (R21) -/

/-- A core at entry (R21). Counters, pending interrupts and unreported batches stay. -/
def Core.enter (c : Core) (r : Region) (l : Launch) : Core :=
  let (lx, ly) := r.logical c.pos
  { Core.reset c.pos with
    g := Vector.ofFn (fun i =>
      if i = 2 then BitVec.ofNat 64 (orElse l.stack 0x1C000)
      else if 4 ≤ i.val ∧ i.val ≤ 7 then l.args.getD (i.val - 4) 0 else 0)
    pc := l.entry
    cwp := BitVec.ofNat 64 l.wsbase
    lx := BitVec.ofNat 8 lx
    ly := BitVec.ofNat 8 ly
    lw := BitVec.ofNat 8 r.lw
    lh := BitVec.ofNat 8 r.lh
    counters := c.counters
    pending := c.pending
    batches := c.batches
    status := .running
    readyAt := 12 * l.startAt
    segFrom := 12 * l.startAt
    launch := l.seq }

/-- A core of a suspended launch goes on at the agreed timestamp (R356, R41). -/
def State.reenter (s : State) (r : Region) (l : Launch) (saved : Core) : State :=
  let p := saved.pos
  if s.owner p == r.id then
    let c := s.coreAt p
    let t := s.modCore p (fun _ => { saved with pending := c.pending, batches := c.batches })
    if saved.stopped then
      (t.loadContext p (t.imageAt p saved.cwp.toNat) false).modCore p (fun d => { d with
        readyAt := 12 * l.startAt, segFrom := 12 * l.startAt
        follow := [], dbg := false, stopped := false })
    else t
  else s

/-- The agreed timestamp: every participating core starts in the entry state, or goes on; logged increments are replayed
(R21, R316). -/
def State.startLaunch (s : State) (r : Region) (l : Launch) : State :=
  let t := if l.saved.isEmpty then l.cores.foldl (fun t p => t.modCore p (fun c => c.enter r l)) s
    else l.saved.foldl (fun t c => t.reenter r l c) (if l.timed then s.fullClock else s)
  let u := l.cores.foldl State.replayLog t
  u.modLaunch r.id l.seq (fun x => { x with
    state := .running, saved := [], boundary := l.startAt, superstep := if l.saved.isEmpty then 0 else x.superstep })

/-- The launch of a region that is being loaded. -/
def Region.loading? (r : Region) : Option Launch := r.launches.find? (fun l => l.state == .loading)

/-- LAUNCH_START (R21). -/
def execLaunchStart (reg : RegionId) (s : State) : Out :=
  match s.region? reg with
  | none => .refused (.notEnabled "LAUNCH_START")
  | some r => match r.loading? with
    | some l => if l.startAt ≤ s.ticks then .next (s.startLaunch r l) else .refused (.notEnabled "LAUNCH_START")
    | none => .refused (.notEnabled "LAUNCH_START")

/-! ## Superstep boundaries (R36-R38, R356, R357) -/

/-- Whether a message of a launch is in flight: an increment of its cores, or a network command (R37, R376). -/
def State.inFlight (s : State) (q : RegionId) (l : Launch) : Bool :=
  s.msgs.any (fun m => m.sender?.any l.cores.contains) ||
  s.cmds.any (fun c => c.isNet && c.region == q && c.launch == l.seq)

/-- Whether every participating core of a launch has arrived at GBAR, one of them waiting; a halted core counts as arrived
(R357). GBAR is a release: the stores of its cores have been performed (R328). -/
def State.allArrived (s : State) (q : RegionId) (l : Launch) : Bool :=
  let st (p : Nat) : CoreStatus := (s.coreAt p).status
  l.cores.all (fun p => !s.takesPart q l.seq p || st p == .waiting .gbar || st p == .halted) &&
  l.cores.any (fun p => s.takesPart q l.seq p && st p == .waiting .gbar) &&
  s.later.all (fun e => !(l.cores.contains e.core && s.takesPart q l.seq e.core))

/-- The PUBM 5 groups of a launch of which every command has completed are published (R317). -/
def State.publishLaunch (s : State) (q : RegionId) (seq : Nat) : State :=
  (s.pubs.filter (fun g => match g.key with
    | .launch r n _ => r == q && n == seq && s.cmds.all (fun c => c.group s != some g.key)
    | _ => false)).foldl (fun t g => t.closeGroup g.key) s

/-- A core whose wait is over: its next instruction issues in the cycle after, a follower's k cycles later (R24, R30). -/
def Core.wake (c : Core) (now period : Nat) : Core :=
  { c with status := .running, pc := c.pc + 4, readyAt := edgeAfter period now + c.suit.spos.toNat * period, dbg := false, popped := [] }

/-- A launch yields: its cores' local memories go to SWAP, and it waits its turn again (R356). -/
def State.yieldLaunch (s : State) (r : Region) (l : Launch) : State :=
  let mine := l.cores.filter (s.takesPart r.id l.seq)
  let t := mine.foldl (fun t p => t.stopCore s.now p) (s.settleTokens r.id)
  let saved := mine.map t.coreAt
  let t := mine.foldl (fun t p =>
    (t.poke r.home (r.swap + 2 ^ 17 * r.indexOf p) (t.getBytes (localPlace p 0) (2 ^ 17))).modCore p Core.vacate) t
  let u := { t with readied := t.readied + 1 }.modLaunch r.id l.seq (fun x => { x with
    state := .suspended, yield := false, saved := saved, order := t.readied, readyTick := s.ticks })
  if l.deadline.isSome then u.voidLaunch r.id l.seq 0x22 else u

/-- What a boundary brings beside GBAR: a revoked launch stops, a yield is taken or dropped (R37, R356, R394). -/
def State.atEdge (s : State) (q : RegionId) (seq : Nat) : State :=
  match s.region? q with
  | none => s
  | some r => match r.launch? seq with
    | none => s
    | some l =>
      if s.inFlight q l then s
      else if r.state == .revoking then s.closeLaunch q seq .void 0x23
      else if l.yield then
        if r.swap != 0 && r.launches.any (fun x => x.state == .ready || x.state == .suspended) then s.yieldLaunch r l
        else s.modLaunch q seq (fun x => { x with yield := false })
      else s

/-- A superstep boundary: publishes first, then GBAR completes on every core (R36, R357). -/
def State.boundary (s : State) (q : RegionId) (l : Launch) : State :=
  let t := s.publishLaunch q l.seq
  let u := l.cores.foldl (fun t p =>
    if t.takesPart q l.seq p && (t.coreAt p).status == .waiting .gbar then t.modCore p (fun c => c.wake s.now (s.period p)) else t) t
  (u.modLaunch q l.seq (fun x => { x with superstep := x.superstep + 1, boundary := s.ticks })).atEdge q l.seq

/-- SUPERSTEP_BOUNDARY (R36). -/
def execSuperstepBoundary (reg : RegionId) (s : State) : Out :=
  match (s.region? reg).bind Region.running? with
  | some l => if s.allArrived reg l then .next (s.boundary reg l)
    else .refused (.notEnabled "SUPERSTEP_BOUNDARY")
  | none => .refused (.notEnabled "SUPERSTEP_BOUNDARY")

/-- The tick at which the watchdog of a region expires (R38): it does not count during a debug stop, from the BREAK on, in which a
core halts by debug, to Tr. DESIGN CHOICE (log 77): a core that has taken BREAK in a region with DBGGANG = 0 runs on in its handler
and does not count as halted by debug. -/
def Region.watchTick (r : Region) : Option Nat :=
  r.running?.bind (fun l => if r.watchdog != 0 && l.stopTs.isNone then some (l.boundary + r.watchdog) else none)

/-- When the count of the watchdog began, once a debug stop is over: it has been held from the BREAK, 256 ticks before Ts, to Tr; a
boundary in between began it anew (R38). -/
def heldCount (boundary ts tr : Nat) : Nat := if ts - 256 ≤ boundary then tr else boundary + (tr - (ts - 256))

/-- TIMER at a core; the latest XVAL stays (R380). -/
def State.raiseTimer (s : State) (pos : Nat) (x : Word) : State :=
  s.modCore pos (fun c => { c with pending := { c.pending with timer := some x } })

/-- SUPERSTEP_WATCHDOG (R38). -/
def execSuperstepWatchdog (reg : RegionId) (s : State) : Out :=
  match s.region? reg with
  | none => .refused (.notEnabled "SUPERSTEP_WATCHDOG")
  | some r => match r.watchTick, r.running? with
    | some t, some l =>
      if t ≤ s.ticks then
        .next ((s.modLaunch reg l.seq (fun l => { l with boundary := t })).raiseTimer r.supervisor (BitVec.ofNat 64 l.superstep))
      else .refused (.notEnabled "SUPERSTEP_WATCHDOG")
    | _, _ => .refused (.notEnabled "SUPERSTEP_WATCHDOG")

/-! ## Gang stops (R39-R42, R391-R394) -/

/-- The timestamp of a gang stop of a region that is due or to come. -/
def Region.stopAt (r : Region) : Option Nat :=
  match r.current?, r.revokeTs with
  | some _, some ts => some ts
  | some l, none => if l.stopped then none else l.stopTs
  | none, _ => none

/-- Stop the placed launch of a region: for a revocation it ends with code 0x23, for a debug stop every core but the broken ones
stands until Tr. The interface of a core in a handler, or parked, keeps sending (R393). -/
def State.gangStop (s : State) (r : Region) (l : Launch) : State :=
  let mine := l.cores.filter (s.takesPart r.id l.seq)
  let all (ps : List Nat) : State := (ps.foldl (fun t p => t.stopCore (12 * r.stopAt.getD s.ticks) p) s).spill
    (ps.filter (fun p => match (s.coreAt p).status with | .parked _ _ => false | _ => true))
  if r.revokeTs.isSome then
    (all (mine.filter (fun p => (s.coreAt p).status != .idle))).closeLaunch r.id l.seq .void 0x23
  else
    (all (mine.filter (fun p => !(s.coreAt p).broken && !(s.coreAt p).held))).modLaunch r.id l.seq (fun l => { l with stopped := true })

/-- GANG_STOP (R392): at Ts, once running governor commands stand at a block boundary (R242). -/
def execGangStop (reg : RegionId) (s : State) : Out :=
  match s.region? reg with
  | none => .refused (.notEnabled "GANG_STOP")
  | some r => match r.stopAt, r.current? with
    | some ts, some l =>
      if ts ≤ s.ticks && l.cores.all s.atBoundary then .next (s.gangStop r l) else .refused (.notEnabled "GANG_STOP")
    | _, _ => .refused (.notEnabled "GANG_STOP")

/-- A core of a debug stop goes on at Tr: from its image, or, when it broke and has returned, where it stands (R391). -/
def State.release_ (s : State) (pos ts tr : Nat) : State :=
  if (s.coreAt pos).held then s.modCore pos (fun c => { c with held := false, readyAt := 12 * tr, dbg := true })
  else s.resumeCore pos ts tr

/-- GANG_RESUME (R41, R391). -/
def execGangResume (reg : RegionId) (s : State) : Out :=
  match s.region? reg with
  | none => .refused (.notEnabled "GANG_RESUME")
  | some r => match r.running? with
    | none => .refused (.notEnabled "GANG_RESUME")
    | some l => match l.stopTs, l.resumeTr with
      | some ts, some tr =>
        if tr ≤ s.ticks && l.stopped then
          let t := ((l.cores.filter (s.takesPart reg l.seq)).foldl (fun t p => t.release_ p ts tr) s).unspill l.cores
          let t := t.modLaunch reg l.seq (fun l => { l with
            stopTs := none, stopped := false, resumeTr := none
            boundary := heldCount l.boundary ts tr, startAt := l.startAt + (tr - ts) })
          .next (t.modCore r.supervisor (fun c => { c with pending := { c.pending with switch := some (BitVec.ofNat 64 (tr - ts)) } }))
        else .refused (.notEnabled "GANG_RESUME")
      | _, _ => .refused (.notEnabled "GANG_RESUME")

/-- Whether every broken core of a debug stop has returned (R391). -/
def State.allBack (s : State) (r : Region) : Option Launch :=
  r.running?.bind (fun l =>
    if l.stopTs.isSome && l.resumeTr.isNone && (l.cores.filter (s.takesPart r.id l.seq)).all (fun p => !(s.coreAt p).broken)
    then some l else none)

/-- DEBUG_STOP_END (R391): Tr is fixed 256 cycles on. -/
def execDebugStopEnd (reg : RegionId) (s : State) : Out :=
  match (s.region? reg).bind s.allBack with
  | some l => .next (s.modLaunch reg l.seq (fun l => { l with resumeTr := some (s.ticks + 256) }))
  | none => .refused (.notEnabled "DEBUG_STOP_END")

/-! ## Dismantling (R395) -/

/-- Steps 1 and 2: the unfinished commands of a region fail with code 0x1E, its publish groups are discarded, its pair registers
released. -/
def State.endCommands (s : State) (q : RegionId) : State :=
  let mine := s.cmds.filter (fun c => c.region == q)
  let t := s.endInstance (mine.map EngCmd.id)
  let t := mine.foldl (fun t c =>
    let t := if c.failed.isNone then t.failCommand c 0x1E 0 0 else t
    let t := match c.kind, t.tableFor c with | .lflat, some b | .lrebase, some b => t.unpend b c | _, _ => t
    ((t.cmd? c.id).bind t.complete).getD t) t
  let t : State := { t with groups := t.groups.map (fun (g : Group) => { g with queue := g.queue.filter (fun c => t.owner c.core != q) }) }
  let live := t.groups.flatMap (fun g => g.queue.map CubeCmd.id) ++ t.cmds.map EngCmd.id
  let t : State := { t with snaps := t.snaps.filter (fun x => match x.home with
    | some (p, _, _, _) => t.owner p != q
    | none => live.contains x.owner) }
  let his (k : PubKey) : Bool := match k with
    | .alone _ => false
    | .barrier b => b.reg == q
    | .batch c _ _ _ | .key c _ => t.owner c == q
    | .launch r _ _ => r == q
  ((t.pubs.filter (fun g => his g.key)).foldl (fun t g => t.discard g.key) t).dropPairs q

/-- Step 3: the nodes that a region owns are dropped in descending depth (R280). -/
def State.dropNodes (s : State) (q : RegionId) : State :=
  match s.region? (s.tableOwner 8 q) with
  | none => s
  | some b =>
    let ns := (s.nodes b).filter (fun i => let n := s.nodeAt b i; n.owner == q.toNat && (n.state == 1 || n.state == 2))
    (List.range 9).reverse.foldl (fun t d =>
      (ns.filter (fun i => (s.nodeAt b i).depth == d)).foldl (fun t i =>
        (t.tryLin (do dropNode b i (← getNode b i))).getD t) t) s

/-- Step 6 for a table that goes with its region: the pages of its images are released. -/
def State.dropTable (s : State) (q : RegionId) : State :=
  match s.region? q with
  | none => s
  | some b =>
    let t := if b.ownLnt then (s.runs.filter (fun e => e.table == q)).foldl
      (fun t e => t.dropRun b (b.poolBase + 65536 * e.first)) s else s
    { t with housework := t.housework.filter (fun e => e.1 != q || !b.ownLnt) }

/-- Step 4: messages, logs and records are discarded. -/
def State.dropMessages (s : State) (r : Region) : State :=
  let t : State := { s with
    msgs := s.msgs.filter (fun m => m.region != r.id)
    requests := s.requests.filter (fun e => s.owner e.core != r.id) }
  t.poke r.id r.alog (zeros (256 * (r.lw + 1) * (r.lh + 1)))

/-- Step 5: cores return to the parent, their memories become scrub-pending, tag tables and codebooks are cleared. -/
def State.returnCores (s : State) (r : Region) : State :=
  let mine := r.cmap.filter (fun p => s.owner p == r.id)
  let t := (s.passCores mine).modRegion r.id (fun x => { x with state := .retired })
  let t := mine.foldl (fun t p => t.modCore p (fun c => { Core.reset p with readyAt := c.readyAt })) t
  let t := { t with
    marks := t.marks.filter (fun k => k.wreg != r.id)
    later := t.later.filter (fun e => !mine.contains e.core)
    gathers := t.gathers.filter (fun e => !mine.contains e.core)
    deliveries := t.deliveries.filter (fun e => !mine.contains e.core) }
  (mine.map groupOf).eraseDups.foldl (fun t g => t.modGroup g (fun g =>
    { g with tags := [], codebook := Vector.replicate 4 (Vector.replicate 16 0), last := 0 })) t

/-- Step 6: the carved budget and a positive balance go back to the parent (R359), which has drawn up to now from what it had
(R348). -/
def State.returnBudget (s : State) (r : Region) : State :=
  let s := s.settleTokens r.parent
  let c (i : Nat) : Nat := r.carved.getD i 0
  (s.modRegion r.parent (fun p => { p with
    cores := p.cores + c 0, pages := p.pages + c 1, tokens := p.tokens + c 2, queue := p.queue + c 3, contexts := p.contexts + c 4
    res := p.res + c 5, balance := p.balance + max r.balance 0 })).modRegion r.id (fun x => { x with
      balance := 0, marker := 0, earmark := 0 })

/-- One region is dismantled (R395). -/
def State.dismantle (s : State) (q : RegionId) : State :=
  match s.region? q with
  | none => s
  | some r =>
    let t := ((((s.endCommands q).dropNodes q).dropMessages r).dropTable q).returnCores r
    let r' := (t.region? q).getD r
    (((t.returnBudget r').dropCached [q]).writeBlock q).writeBlock r.parent

/-- The identifiers of a subtree, deepest first and within one depth ascending (R395). -/
def State.dismantleOrder (s : State) (q : RegionId) : List RegionId :=
  let ids := (sortNats ((s.subtree q).map (fun r => r.depth * 2 ^ 16 + r.id.toNat)))
  (List.range 9).reverse.flatMap (fun d => (ids.filter (fun k => k / 2 ^ 16 == d)).map (BitVec.ofNat 16))

/-- Whether a node owned by a region is PENDING by an LFLAT or LREBASE of a region outside a subtree: its drop waits for that
command, as every LDROP does (R269, R280). -/
def State.pendingOutside (s : State) (q : RegionId) (x : Region) : Bool :=
  match s.region? (s.tableOwner 8 x.id) with
  | none => false
  | some b =>
    s.cmds.any (fun c => (match c.kind with | .lflat | .lrebase => true | _ => false) && c.started && !s.below 8 q c.region &&
        s.tableOwner 8 c.region == b.id) &&
    (s.nodes b).any (fun i => let n := s.nodeAt b i; n.owner == x.id.toNat && n.pending)

/-- Whether a revocation can go on to dismantling: every launch of the subtree has stopped (R395), and no drop of a node waits. -/
def State.revokedTop (s : State) (q : RegionId) : Option (Region × Nat) :=
  (s.region? q).bind (fun r => r.revoker.bind (fun c =>
    if r.state == .revoking && (s.subtree q).all (fun x => x.current?.isNone && !s.pendingOutside q x) then some (r, c) else none))

/-- REVOKE_DISMANTLE (R395). -/
def execRevokeDismantle (reg : RegionId) (s : State) : Out :=
  match s.revokedTop reg with
  | some (_, c) =>
    let t := (s.dismantleOrder reg).foldl State.dismantle s
    .next (t.queueTree c true (BitVec.ofNat 64 (2 ^ 63 + reg.toNat)))
  | none => .refused (.notEnabled "REVOKE_DISMANTLE")

/-! ## Increments (R315, R316) -/

/-- Address of a counter. -/
def counterWord (pos : Nat) (idx : BitVec 6) : Word := BitVec.ofNat 64 (0x60000000 + pos * 0x100 + idx.toNat * 4)

/-- An increment arrives: at the counter of a resident context of its region, or in the log of its region's context, or nowhere
where the log cannot be reached. -/
def State.arriveMsg (s : State) (m : Msg) : State :=
  let done (t : State) : State := match m.src with
    | .remote _ => { t with outbox := .ack :: t.outbox }
    | _ => t
  let lost (t : State) : State := match m.src with
    | .post p | .signal p => t.postReject p (counterWord m.dst m.idx)
    | .remote _ => { t with outbox := .nack .translation :: t.outbox }
  if s.owner m.dst == m.region && (s.coreAt m.dst).resident then done (s.modCore m.dst (fun c => c.increment m.idx m.add))
  else
    match s.region? m.region with
    | none => lost s
    | some r =>
      if r.state != .retired && r.maps m.dst && s.logReachable r m.dst m.idx.toNat then
        done (s.setLog r m.dst m.idx (s.logSum r m.dst m.idx + m.add))
      else lost s

/-- Whether an increment keeps its order behind an earlier one: one of the same source to the same core (R40, R41), or of the same
ordered flow (R366). -/
def Msg.behind (m e : Msg) : Bool :=
  match m.src with
  | .remote none => false
  | .remote (some _) => e.src == m.src
  | _ => e.src == m.src && e.dst == m.dst

/-- Whether increment n may arrive now: it does not stand in a kitty, what it releases has been performed (R328), and none before it
goes the same way; an add of an ordered flow follows the flow's earlier operations too (R366). -/
def State.mayArrive (s : State) (n : Nat) : Option Msg :=
  match s.msgs[n]? with
  | none => none
  | some m =>
    let flow : Bool := match m.src with | .remote (some f) => s.remotes.any (fun o => o.flow == some f) | _ => false
    if m.kitty.isSome || decide (s.now < m.after) || (s.msgs.take n).any m.behind || flow then none else some m

/-- MAILBOX_INCREMENT (R316). -/
def execMailboxIncrement (n : Nat) (s : State) : Out :=
  match s.mayArrive n with
  | some m => .next ({ s with msgs := s.msgs.eraseIdx n }.arriveMsg m)
  | none => .refused (.notEnabled "MAILBOX_INCREMENT")

end Sys2Proof.Machine
end

