-- ==== Sys2Proof/Machine/CoreEvents.lean ====
section
/-! DEFINITION. The events of one core: illegal words (R60), landings (R87), interrupts (R382), the completion of waits, suit
barriers and HALT (R26, R175-R180, R236, R308, R322, R384), the start of a timed segment (R358). -/

namespace Sys2Proof.Machine

/-- ILLEGAL_WORD: a fetched word that is no legal encoding raises ILLEGAL with the word (R60). -/
def execIllegalWord (long : Bool) (w : BitVec 32) : State → Out :=
  issueOwn (raise 1 (if long then w.zeroExtend 64 else (w.truncate 16).zeroExtend 64))

/-- REGISTER_LANDING: what is due at the current core lands (R87, R128). -/
def execRegisterLanding : State → Out :=
  event "REGISTER_LANDING"
    (fun s => s.core.windows.any (fun w => decide (w.closes ≤ s.now)) || s.core.flagsDue.any (fun e => decide (e.1 ≤ s.now)))
    (fun s => { s with core := s.core.land s.now })

/-- TAKE_INTERRUPT (R382). -/
def execTakeInterrupt : State → Out :=
  event "TAKE_INTERRUPT" (fun s => s.interruptible && s.core.posted.isEmpty) State.takeInterrupt

/-! ## Suits and waits -/

/-- The cores of which the wait of the current core is one: its suit, if it leads one, or itself (R26). A follower's wait is its
leader's. -/
def State.waiters (s : State) : List Nat :=
  if s.core.suit.act then (if s.core.suit.spos = 0 then s.suitMembers s.core.pos else []) else [s.core.pos]

/-- Whether every waiter waits, and its condition holds. -/
def State.allHold (s : State) (holds : Nat → Wait → Bool) : Bool :=
  !s.waiters.isEmpty && s.waiters.all (fun p => match (s.coreAt p).status with | .waiting w => holds p w | _ => false)

/-- The waits are satisfied: the next instructions issue from the cycle after on (R24, R30). -/
def State.wakeAll (s : State) : State := s.waiters.foldl (fun t p => t.modCore p (fun c => c.wake s.now (s.period p))) s

/-- A trap taken by a core that may not be the current one. -/
def State.trapAt (s : State) (pos cause : Nat) (x : Word) : State :=
  if pos = s.core.pos then s.takeTrap false cause x 0 else ((s.turn pos).takeTrap false cause x 0).turn s.core.pos

/-- SUIT_BARRIER_COMPLETE (R180): CSUIT is set on every member; the leader issues one cycle later. -/
def execSuitBarrierComplete (grp : Nat) (mask : BitVec 16) (s : State) : Out :=
  let named := ((List.range 16).filter (fun i => mask.getLsbD i)).map (groupCore grp)
  if !named.isEmpty && named.all (fun p => (s.coreAt p).status == .waiting (.suitBar mask)) then
    .next (named.foldl (fun t p => t.modCore p (fun c => (c.joinSuit mask).wake s.now (s.period p))) s)
  else .refused (.notEnabled "SUIT_BARRIER_COMPLETE")

/-- The time of the first instruction of a timed segment: that of T, and for a suit's leader not before every member's own T,
k cycles earlier (R24, R26, R358). -/
def State.segmentTime (s : State) (t : Nat) : Nat :=
  s.waiters.foldl (fun m p => match (s.coreAt p).status with
    | .waiting (.start u) => max m (12 * u.toNat - (s.coreAt p).suit.spos.toNat * s.period p)
    | _ => m) (12 * t)

/-- TIMED_SEGMENT_START (R358): CSEG is 0 and TIMED 1 in the cycle CTIME = T, in which the next instruction issues. -/
def execTimedSegmentStart (s : State) : Out :=
  match s.core.status with
  | .waiting (.start t) =>
    if t.toNat ≤ s.ticks then
      .next { s.fullClock with core := { s.core with
        status := .running, timed := true, cseg := 0, segFrom := 12 * t.toNat, pc := s.core.pc + 4
        readyAt := s.segmentTime t.toNat, dbg := false, popped := [], refetch := none } }
    else .refused (.notEnabled "TIMED_SEGMENT_START")
  | _ => .refused (.notEnabled "TIMED_SEGMENT_START")

/-- WAITC_SATISFIED (R175). -/
def execWaitcSatisfied : State → Out :=
  event "WAITC_SATISFIED"
    (fun s => s.allHold (fun p w => match w with | .counter _ _ _ => s.waitHolds p w | _ => false)) State.wakeAll

/-- The first waiter whose barrier has its error bit set, with the barrier's address. -/
def State.barrierError (s : State) : Option (Nat × Nat) :=
  s.waiters.findSome? (fun p => match (s.coreAt p).status with
    | .waiting (.barrier a _ _) => if s.barrierErr p a then some (p, a) else none
    | _ => none)

/-- WAITB_SATISFIED (R176): with the error bit set, ENGINE is raised instead. -/
def execWaitbSatisfied : State → Out :=
  event "WAITB_SATISFIED"
    (fun s => s.allHold (fun p w => match w with | .barrier _ _ _ => s.waitHolds p w | _ => false))
    (fun s => match s.barrierError with
      | some (p, a) => s.trapAt p 11 (BitVec.ofNat 64 a)
      | none => s.wakeAll)

/-- WAITN_SATISFIED (R308): a failed batch raises ENGINE instead, and counts as reported from then on. -/
def execWaitnSatisfied : State → Out :=
  event "WAITN_SATISFIED"
    (fun s => s.allHold (fun p w => match w with | .batch n => decide (s.openBatches p ≤ n.toNat) | _ => false))
    (fun s => match s.waiters.findSome? (fun p => (s.failedBatch p).map (fun n => (p, n))) with
      | some (p, n) => (s.reportBatch p).trapAt p 11 (BitVec.ofNat 64 n.toNat)
      | none => s.wakeAll)

/-- FENCE_COMPLETE (R177): the release takes effect, then the fence completes. -/
def execFenceComplete : State → Out :=
  event "FENCE_COMPLETE"
    (fun s => s.allHold (fun p w => match w with | .fence _ => s.accessesDone p | _ => false))
    (fun s => (s.waiters.foldl (fun t p => match (s.coreAt p).status with
      | .waiting (.fence q) => t.releaseMarks p (s.scope q)
      | _ => t) s).wakeAll)

/-- TFENCE_COMPLETE (R236); a trap that the governor has raised abandons the TFENCE instead (R244). -/
def execTfenceComplete : State → Out :=
  event "TFENCE_COMPLETE"
    (fun s => s.allHold (fun p w => match w with | .tfence => s.cubeDone p && (s.coreAt p).posted.isEmpty | _ => false))
    State.wakeAll

/-- Close the group of the key that a core waits for in PUB; the batch of a failure. -/
def State.closeWaited (s : State) (p : Nat) : State × Option (BitVec 32) :=
  match (s.coreAt p).status with
  | .waiting (.pub k) => s.closeKey p k
  | _ => (s, none)

/-- PUB_COMPLETE (R322): the group is published, a release; or it is discarded and ENGINE raised. -/
def execPubComplete : State → Out :=
  event "PUB_COMPLETE"
    (fun s => s.allHold (fun p w => match w with | .pub k => !s.keyBusy p k | _ => false))
    (fun s => match s.waiters.findSome? (fun p => (s.closeWaited p).2.map (fun n => (p, n))) with
      | some (p, n) => (s.closeWaited p).1.trapAt p 11 (BitVec.ofNat 64 n.toNat)
      | none => (s.waiters.foldl (fun t p => (t.closeWaited p).1.releaseMarks p none) s).wakeAll)

/-- CORE_HALT (R384): the drains of HALT are complete; or an appended element fails, which is raised as by SFREE. -/
def execCoreHalt (s : State) : Out :=
  if s.core.status == .halting then
    match s.core.failedAppend with
    | some ((v, i), cause, x, q) => .next ({ s with core := s.core.retryElement v i }.takeTrap false cause x q)
    | none => if s.haltDone s.core.pos then .next s.haltCore else .refused (.notEnabled "CORE_HALT")
  else .refused (.notEnabled "CORE_HALT")

end Sys2Proof.Machine
end

