-- ==== Sys2Proof/Machine/MemoryEvents.lean ====
section
/-! DEFINITION. What the memory behind the sluices does by itself: scrubbing, refresh, retirement of pages, promotion, and the
expanders of the capacity tier (R396, R404, R406-R423, R436). -/

namespace Sys2Proof.Machine

/-- Answer to the outside. -/
def State.reply (s : State) (r : Reply) : State := { s with outbox := r :: s.outbox }

/-- A base die by number. -/
def State.stackAt (s : State) (k : Nat) : Stack := s.device.baseDies.toList.getD k ⟨[], [], 0, [], false, false, 0, [], 0⟩

/-- Change a base die. -/
def State.modStack (s : State) (k : Nat) (f : Stack → Stack) : State :=
  s.modDevice (fun d => { d with baseDies := d.baseDies.mapIdx (fun i x => if i = k then f x else x) })

/-- Number of HBM5 pages (R406). -/
def hbmPages : Nat := 16 * 0x180000

/-- An event of the memory of a running device; in safe mode these units do not run (R428). -/
def running (name : String) (ok : State → Bool) (act : State → State) : State → Out :=
  event name (fun s => s.device.phase == .running && ok s) act

/-- Mark every granule of a frame poisoned. -/
def State.poisonFrame (s : State) (f : Nat) : State :=
  (List.range 1024).foldl (fun u i => u.poisonGranule (framePlace f (64 * i))) s

/-- The page that a frame holds, when one does. -/
def State.pageOf (s : State) (f : Nat) : Option Nat :=
  match s.remap.find? (fun e => e.2 == f) with
  | some e => some e.1
  | none => if s.remap.any (fun e => e.1 == f) then none else some f

/-! ## Scrub-pending lines (R396) -/

/-- SCRUB_LINE (R396): the background scrub zeroes a pending line. -/
def execScrubLine (s : State) : Out :=
  match s.scrub.find? (fun e => decide (0 < e.2)) with
  | some e => .next (s.cleanLine e.1)
  | none => .refused (.notEnabled "SCRUB_LINE")

/-! ## Retirement (R404, R413, R414) -/

/-- A page's content moves to a spare frame, and its mapping follows. A region's first access to a page with poison then raises
LOSTPAGE (R404). -/
def State.retire (s : State) (page : Nat) : State :=
  let old := s.frame page
  let f := s.nextFrame
  let t := ({ s with nextFrame := f + 1 }.copyFrame old f).remapPage page f
  if (t.frameBad f).isEmpty then t else t.lose [page]

/-- PAGE_RETIRE (R404): an HBM5 page; pages of the capacity tier do not retire. -/
def execPageRetire (page : Nat) : State → Out :=
  running "PAGE_RETIRE" (fun s => s.pageExists page && (linkOf (s.frame page)).isNone) (fun s => s.retire page)

/-- Whether a frame is a shadow page of an open group (R319). -/
def State.isShadow (s : State) (f : Nat) : Bool := decide (2 ^ 32 ≤ f) && s.pubs.any (fun g => g.pages.any (fun e => e.2.2 == f))

/-- A frame retires as a shadow page (R414): its group goes on with a spare frame. -/
def State.retireShadow (s : State) (old : Nat) : State :=
  let f := s.nextFrame
  let t := { s with nextFrame := f + 1 }.copyFrame old f
  { t with pubs := t.pubs.map (fun g => if g.pages.any (fun e => e.2.2 == old) then { g with
      pages := g.pages.map (fun e => if e.2.2 = old then (e.1, e.2.1, f) else e)
      worn := if (t.frameBad f).isEmpty then g.worn else f :: g.worn } else g) }

/-- Whether a CP.M has moved a page into a frame and not yet published it. -/
def State.isMoving (s : State) (f : Nat) : Bool := s.cmds.any (fun c => c.moves.any (fun m => m.2 == f))

/-- A frame retires into which a CP.M has moved a page (R414): the command goes on with a spare frame. -/
def State.retireMoved (s : State) (old : Nat) : State :=
  let f := s.nextFrame
  let t := { s with nextFrame := f + 1 }.copyFrame old f
  { t with cmds := t.cmds.map (fun c => if c.moves.any (fun m => m.2 == old) then { c with
      moves := c.moves.map (fun m => if m.2 = old then (m.1, f) else m)
      worn := if (t.frameBad f).isEmpty then c.worn else f :: c.worn } else c) }

/-- The stack of a granule (R406); the spare frames, which have no address, are spread over the stacks (log 61). -/
def granuleStack (granule : Nat) : Nat :=
  if granule < hbmPages * 1024 then granule / (0x180000 * 1024) else granule / 1024 % 16

/-- Whether a granule lies in HBM5: at an address of R406, or in a spare frame in use. -/
def State.inHbm (s : State) (granule : Nat) : Bool :=
  let f := granule / 1024
  decide (granule < hbmPages * 1024) || (decide (2 ^ 32 ≤ f) &&
    (s.isShadow f || s.isMoving f || s.device.freeHbm.contains f || s.remap.any (fun e => e.2 == f)))

/-- Ticks within which a pass of the patrol scrubber ends: 24 hours (R413). -/
def passTime : Nat := 172800000000000

/-- A granule is read, by the patrol scrubber of its stack or by an ordinary access, and perhaps corrected (R414). The scrubber begins
a new pass with a granule at or below the last one that it read; a pass is over after 24 hours (R413). -/
def State.patrolled (s : State) (granule : Nat) (scrub corrected : Bool) : State :=
  s.modStack (granuleStack granule) (fun k =>
    let new := (scrub && decide (granule ≤ k.patrol)) || decide (k.passAt + passTime < s.ticks)
    let fixed := if new then [] else k.fixed
    { k with
      patrol := if scrub then granule else k.patrol
      fixed := if corrected && !fixed.contains granule then granule :: fixed else fixed
      passAt := if new then s.ticks else k.passAt })

/-- The page of a granule enters retirement (R414): its copy is the next happening of the device, a shadow page's is made at
once. A frame that holds no page leaves the free store. -/
def State.retireNext (s : State) (frame : Nat) : State :=
  if s.device.freeHbm.contains frame then s.modDevice (fun d => { d with freeHbm := d.freeHbm.filter (fun f => f != frame) })
  else if s.isShadow frame then s.retireShadow frame
  else if s.isMoving frame then s.retireMoved frame
  else match s.pageOf frame with
    | some p => { s with inputs := .pageRetire p :: s.inputs }
    | none => s

/-- The granules of a page that this pass has corrected. -/
def State.correctedIn (s : State) (granule : Nat) : Nat :=
  ((s.stackAt (granuleStack granule)).fixed.filter (fun g => g / 1024 == granule / 1024)).length

/-- A granule was corrected: with the eighth of its page in a pass the page retires (R414). -/
def State.corrected (s : State) (granule : Nat) (scrub : Bool) : State :=
  let t := s.patrolled granule scrub true
  if t.correctedIn granule = 8 ∧ s.correctedIn granule ≠ 8 then t.retireNext (granule / 1024) else t

/-- A granule has an error beyond correction: it is poisoned in place, and its page retires (R407, R413, R414). -/
def State.uncorrectable (s : State) (granule : Nat) (scrub : Bool) : State :=
  ((s.patrolled granule scrub false).poisonGranule (framePlace (granule / 1024) (granule % 1024 * 64))).retireNext (granule / 1024)

/-- PATROL_SCRUB (R413, R414): granule numbers count over the HBM5 addresses of R406, those of spare frames after them. What ordinary
reads find comes the same way. -/
def execPatrolScrub (granule : Nat) (outcome : ScrubFinding) : State → Out :=
  running "PATROL_SCRUB" (fun s => s.inHbm granule) (fun s =>
    match outcome with
    | .clean => s.patrolled granule true false
    | .corrected => s.corrected granule true
    | .uncorrectable => s.uncorrectable granule true
    | .readCorrected => s.corrected granule false
    | .readUncorrectable => s.uncorrectable granule false)

/-! ## Refresh (R410-R412) -/

/-- Refresh interval of a layer, in nanoseconds (R410). -/
def refreshInterval (temp : Nat) : Nat := if temp < 85 then 3900 else if temp < 95 then 1950 else 975

/-- REFRESH_UPDATE (R410): temps lists the layers' readings stack by stack. A base die whose management
core has stopped keeps its intervals. -/
def execRefreshUpdate (temps : List Nat) : State → Out :=
  event "REFRESH_UPDATE" (fun s => temps.length == 16 * Config.layers && s.device.phase != .powerOn) (fun s =>
    let n := Config.layers
    s.modDevice (fun d => { d with baseDies := d.baseDies.mapIdx (fun i k =>
      let ts := (temps.drop (n * i)).take n
      if k.dead then { k with temps := ts } else { k with temps := ts, intervals := ts.map refreshInterval }) }))

/-- HEARTBEAT (R412). -/
def execHeartbeat (stack : Nat) : State → Out :=
  event "HEARTBEAT" (fun s => decide (stack < 16) && !(s.stackAt stack).dead) (fun s =>
    s.modStack stack (fun k => { k with heartbeat := s.ticks, beat := k.intervals }))

/-- REFRESH_TAKEOVER (R412): 200,000 ticks after the last heartbeat, every layer is refreshed at the fastest interval
that one had at that heartbeat. -/
def execRefreshTakeover (stack : Nat) : State → Out :=
  running "REFRESH_TAKEOVER"
    (fun s => decide (stack < 16) && !(s.stackAt stack).takeover && decide ((s.stackAt stack).heartbeat + 200000 ≤ s.ticks))
    (fun s => (s.modStack stack (fun k =>
      let fast := k.beat.foldl min 3900
      { k with takeover := true, dead := true, intervals := k.intervals.map (fun _ => fast) })).record (.takeover stack))

/-- MGMT_CORE_RESTART (R412). -/
def execMgmtCoreRestart (stack : Nat) : State → Out :=
  event "MGMT_CORE_RESTART" (fun _ => decide (stack < 16)) (fun s =>
    s.modStack stack (fun k => { k with
      takeover := false, dead := false, heartbeat := s.ticks
      intervals := k.temps.map refreshInterval, beat := k.temps.map refreshInterval }))

/-! ## Promotion (R418, R420) -/

/-- Whether a page is compressed, and can be promoted now: no CP.M is moving it (R420). -/
def State.promotable (s : State) (page : Nat) : Bool :=
  s.isCompressed (s.frame page) && !s.frameIsolated (s.frame page) && !s.device.freeHbm.isEmpty && !s.promoting page

/-- IMPLICIT_PROMOTION (R420). -/
def execImplicitPromotion (page : Nat) : State → Out :=
  running "IMPLICIT_PROMOTION" (fun s => s.promotable page) (fun s => (s.promotePage page).getD s)

/-- Whether the decoder stops with a code (R418): codes 3 and 4 come from a fault of the expander or the link, the others from
the stored image. -/
def State.decoderStops (s : State) (page code : Nat) : Bool :=
  code == 3 || code == 4 || (match s.expanded (s.frame page) with | .error e => e == code | .ok _ => false)

/-- DECODER_WATCHDOG (R418): the promotion treats every granule of the page as poisoned. -/
def execDecoderWatchdog (page : Nat) (code : Nat) : State → Out :=
  running "DECODER_WATCHDOG" (fun s => s.promotable page && s.decoderStops page code) (fun s =>
    (s.promoteAs page (.error code)).getD s)

/-! ## Expanders (R415, R422, R423) -/

/-- Ticks after which a request to an expander times out (R422). -/
def linkTimeout : Nat := 2000000

/-- When the first request of a link that its expander has left unanswered times out (R422). -/
def Link.timesOut (k : Link) : Option Nat := if k.isolated then none else k.asked.map (fun t => t + 12 * linkTimeout)

/-- EXPANDER_TIMEOUT (R422): the pages of the writes that were not acknowledged have a write pending (R423). -/
def execExpanderTimeout (link : Nat) : State → Out :=
  running "EXPANDER_TIMEOUT" (fun s => decide (link < 8) && (s.linkAt link).timesOut.any (fun t => decide (t ≤ s.now))) (fun s =>
    s.modLink link (fun k => { k with isolated := true, asked := none }))

/-- EXPANDER_REINSTATE (R423). -/
def execExpanderReinstate (link : Nat) : State → Out :=
  running "EXPANDER_REINSTATE" (fun s => decide (link < 8) && (s.linkAt link).isolated) (fun s =>
    ((s.linkAt link).writing.foldl (fun t p => t.poisonFrame (t.frame p)) s).modLink link
      (fun k => { k with isolated := false, writing := [] }))

/-- First frame of a 256-MiB unit behind a link (R406). -/
def unitFrame (link unit_ : Nat) : Nat := 2 ^ 30 + link * 2 ^ 27 + unit_ * 4096

/-- Whether an extent may be added (R415). -/
def State.extentOk (s : State) (link first count : Nat) : Bool :=
  decide (0 < count) && decide (first + count ≤ 32768) && decide ((s.linkAt link).extents.length < 64) &&
  (s.linkAt link).extents.all (fun e => decide (e.1 + e.2 ≤ first) || decide (first + count ≤ e.1))

/-- EXTENT_ADD (R415): first and count are in units of 256 MiB. -/
def execExtentAdd (link : Nat) (first : Nat) (count : Nat) : State → Out :=
  event "EXTENT_ADD" (fun s => decide (link < 8) && s.device.phase == .running) (fun s =>
    if s.extentOk link first count then
      ((s.modLink link (fun k => { k with extents := (first, count) :: k.extents })).modDevice (fun d => { d with
        freeCap := d.freeCap ++ (List.range (count * 4096)).map (fun i => unitFrame link first + i) })).reply .accepted
    else s.reply .refused)

/-- A page's content goes into another frame of the capacity tier, raw or compressed as it was. -/
def State.moveFrame (s : State) (page dst : Nat) : State :=
  let old := s.frame page
  let t := ((s.copyFrame old dst).release (framePlace old 0) 65536).remapPage page dst
  { t with compressed := t.compressed.map (fun e => if e.1 = old then (dst, e.2) else e) }

/-- A page leaves an extent that is being released: to a free frame outside it, or up to HBM5; none where neither is free. -/
def State.evict (s : State) (inside : Nat → Bool) (page : Nat) : Option State :=
  match s.device.freeCap.find? (fun f => !inside f && !s.frameIsolated f) with
  | some f => some ((s.modDevice (fun d => { d with freeCap := d.freeCap.filter (fun x => x != f) })).moveFrame page f)
  | none =>
    if s.isCompressed (s.frame page) then s.promotePage page
    else match s.device.freeHbm with
      | [] => none
      | f :: fs => some ((s.modDevice (fun d => { d with freeHbm := fs })).moveFrame page f)

/-- The pages in count frames from a first one on that are mapped there: those that have been moved into a frame, and those that stand in
their own, which the free store does not hold. -/
def State.pagesIn (s : State) (first count : Nat) : List Nat :=
  let inside (f : Nat) : Bool := decide (first ≤ f) && decide (f < first + count)
  let moved := s.remap.filter (fun m => inside m.2)
  if (s.device.freeCap.filter inside).length + moved.length = count then moved.map Prod.fst
  else moved.map Prod.fst ++ ((List.range count).map (first + ·)).filter (fun f =>
    !s.device.freeCap.contains f && s.remap.all (fun m => m.1 != f && m.2 != f))

/-- EXTENT_RELEASE (R415): granted once every page in the extent has moved, else refused with nothing moved. -/
def execExtentRelease (link : Nat) (first : Nat) : State → Out :=
  event "EXTENT_RELEASE" (fun s => decide (link < 8) && s.device.phase == .running) (fun s =>
    match (s.linkAt link).extents.find? (fun e => e.1 == first) with
    | none => s.reply .refused
    | some e =>
      let lo := unitFrame link first
      let inside (f : Nat) : Bool := decide (lo ≤ f) && decide (f < lo + e.2 * 4096)
      let pages := s.pagesIn lo (e.2 * 4096)
      let busy := s.cmds.any (fun c => c.moves.any (fun m => inside m.2 || pages.contains m.1)) || ((s.linkAt link).isolated && !pages.isEmpty)
      match (if busy then none else pages.foldl (fun acc p => acc.bind (fun t => t.evict inside p)) (some s)) with
      | none => s.reply .refused
      | some t =>
        ((t.modLink link (fun k => { k with extents := k.extents.filter (fun x => x.1 != first) })).modDevice (fun d => { d with
          freeCap := d.freeCap.filter (fun f => !inside f) })).reply .accepted)

/-- WEAR_LEVELLING (R436): the page at src moves to the free frame dst of the tier. -/
def execWearLevelling (src : Nat) (dst : Nat) : State → Out :=
  running "WEAR_LEVELLING"
    (fun s => !s.promoting src && (linkOf (s.frame src)).isSome && s.device.freeCap.contains dst && !s.device.freeCap.contains (s.frame src) &&
      !s.frameIsolated (s.frame src) && !s.frameIsolated dst)
    (fun s =>
      let old := s.frame src
      (s.modDevice (fun d => { d with freeCap := old :: d.freeCap.filter (fun f => f != dst) })).moveFrame src dst)

end Sys2Proof.Machine
end

