-- ==== Sys2Proof/Machine/HostEvents.lean ====
section
/-! DEFINITION. What arrives at the Ultra Ethernet ports: remote operations on host windows (R360-R367), the messages of the
management class that install windows, peer groups and keys, and the loss of a peer (R369, R374). -/

namespace Sys2Proof.Machine

/-- A packet is dropped, and its port counts it (R360, R428). -/
def State.dropPacket (s : State) (p : Packet) : State :=
  (s.modDevice (fun d => { d with ports := d.ports.set p.port.toNat (d.ports[p.port.toNat] + 1) })).record (.droppedPacket p.port.toNat)

/-- A packet of the data classes: one that uses an unsupported part, and any in safe mode, is dropped and counted (R360, R428);
`act` answers none while the operation waits. An operation of an ordered flow comes after the adds of that flow (R366). -/
def remote (name : String) (p : Packet) (act : State → Option State) (s : State) : Out :=
  match s.device.phase with
  | .powerOn => .refused (.notEnabled name)
  | .safe => .next (s.dropPacket p)
  | .running =>
    if !p.supported then .next (s.dropPacket p)
    else if p.flow.isSome && s.msgs.any (fun m => m.src == .remote p.flow) then .refused (.notEnabled name)
    else match act s with
      | some t => .next t
      | none => .refused (.notEnabled name)

/-- A message of the management class; in safe mode only those that R428 names are served. -/
def managed (name : String) (inSafe : Bool) (act : State → State) (s : State) : Out :=
  match s.device.phase with
  | .powerOn => .refused (.notEnabled name)
  | .safe => .next (if inSafe then act s else s.reply .refused)
  | .running => .next (act s)

/-! ## Windows (R362, R365) -/

/-- The window that a key names. -/
def State.windowOf (s : State) (key : BitVec 32) : Option HostWindow :=
  (s.device.windows.find? (fun e => e.2.key == key)).map Prod.snd

/-- The first failure among checks, each with what it names. -/
def firstFailure : List (Bool × RemoteFailure) → Option RemoteFailure
  | [] => none
  | (ok, f) :: r => if ok then firstFailure r else some f

/-- The memory window of an operation of n bytes with an alignment that needs a permission bit; or the failure that is named
(R365; log 45). -/
def State.memoryWindow (s : State) (key : BitVec 32) (off n al bit : Nat) : Except RemoteFailure HostWindow :=
  match s.windowOf key with
  | none => .error .key
  | some w =>
    match firstFailure [
        (!w.counter, .key), (w.perm.getLsbD bit, .perm), (off % al == 0, .align), (decide (off + n ≤ w.length), .bounds),
        ((s.region? w.region).any (fun r => r.state == .live), .region)] with
    | some f => .error f
    | none => .ok w

/-- Why a remote operation does not go through: it waits, or it fails (R365). -/
inductive NotRemote where
  | wait
  | fail (why : RemoteFailure)
  /-- the expander behind its page does not answer (R422): its link, and whether the request is a write -/
  | silent (link page : Nat) (write : Bool)
  /-- a compressed page is promoted for it and arrives with a block of which the guard tag does not fit (R324) -/
  | torn (block : Nat)
  deriving DecidableEq, Repr

/-- The piece of a remote operation in one page, translated by a sluice of the given die (R9, R363, R420, R422). -/
def State.remotePage (s : State) (die : Nat) (q : RegionId) (v n : Nat) (k : AccKind) : Except NotRemote (Seg × State) :=
  if v < 2 ^ 32 ∨ 2 ^ 48 ≤ v then .error (.fail .translation)
  else
    let (r, s) := s.translate die q v k
    match r with
    | .error _ => .error (.fail .translation)
    | .ok x =>
      let page := x.pa / 65536
      if k != .load && s.lineagePage q v then .error (.fail .translation)
      else if s.frameIsolated (s.frame page) then .error (.fail .timeout)
      else
        let packed := s.isCompressed (s.frame page)
        let link := (linkOf (s.frame page)).getD 0
        if packed && s.promoting page then .error .wait
        else if s.unanswered (s.frame page) then .error (.silent link page (k != .load && !packed))
        else
          let s := if (linkOf (s.frame page)).isSome && s.mayBeSilent link then { s with free := s.free + 1 } else s
          match if packed then s.pageTorn page v else none with
          | some (b, _) => .error (.torn b)
          | none => match (if packed then s.promotePage page else some s) with
            | none => .error .wait
            | some t => .ok (⟨t.physPlace x.pa, 2 ^ 36 + x.pa, n, v⟩, t)

/-- The pieces of a remote operation, page by page. -/
def State.remotePages (die : Nat) (q : RegionId) (k : AccKind) : Nat → Nat → Nat → State → Except NotRemote (List Seg × State)
  | 0, _, _, s => .ok ([], s)
  | fuel + 1, v, n, s =>
    if n = 0 then .ok ([], s)
    else
      let here := min n (65536 - v % 65536)
      match s.remotePage die q v here k with
      | .error e => .error e
      | .ok (g, t) => match State.remotePages die q k fuel (v + here) (n - here) t with
        | .error e => .error e
        | .ok (gs, u) => .ok (g :: gs, u)

/-- A number that no core has: remote operations are engine regions of no core (R363). -/
def remoteCore : Nat := 2 ^ 20

/-- A remote operation on n bytes of a window, which brings data that are written: it waits for core regions as an engine does (R335),
then acts on its pieces; its engine region stays, and its answer is under way, until it is acknowledged (R363). A failure is
acknowledged negatively; data with a guard tag that does not fit, written or read, fail it (R324, R365). It is translated at a die that
borders its I/O die: which dies do is not said, and a free value chooses (log 45). -/
def State.remoteOp (s : State) (p : Packet) (off n al bit : Nat) (k : AccKind) (data : List Byte)
    (act : State → List Seg → State × Reply) : Option State :=
  match s.memoryWindow p.key off n al bit with
  | .error f => some (s.reply (.nack f))
  | .ok w =>
    let (x, s) := s.draw
    match State.remotePages (x % 64) w.region k (n / 65536 + 2) (w.base + off) n s with
    | .error .wait => none
    | .error (.fail f) => some (s.reply (.nack f))
    | .error (.torn b) => some ((s.untear b).reply (.nack .integrity))
    | .error (.silent l page write) =>
      let t := { s with free := s.free + 1 }.unheard l page write
      some { t with remotes := t.remotes ++ [⟨p.flow, [], .nack .timeout, some l⟩] }
    | .ok (segs, t) =>
      let marks := joinMarks segs (k != .load) []
      if marks.any (fun l => t.heldUp remoteCore l.1 (k != .load)) || t.countFull t.nextId marks then none
      else match (if k == .store then (t.tornWrite data segs).map (fun e => (13, e.2, t.untear e.1)) else t.engineBad segs) with
        | some (c, _, u) => some (u.reply (if c = 13 then .nack .integrity else .poisonedData))
        | none =>
          let (u, answer) := act t segs
          some { u with remotes := u.remotes ++ [⟨p.flow, marks, answer, none⟩] }

/-- Whether a remote operation may be acknowledged: one whose request its expander has left unanswered, once that is isolated
(R422). -/
def State.answerable (s : State) (o : RemoteOp) : Bool := o.silent.all (fun l => (s.linkAt l).isolated)

/-- A remote operation is acknowledged: its engine region ends (R363). -/
def State.acknowledge (s : State) (n : Nat) : State :=
  match s.remotes[n]? with
  | some o => { s with remotes := s.remotes.eraseIdx n }.reply o.answer
  | none => s

/-- The bytes of some pieces. -/
def State.pieceBytes (s : State) (segs : List Seg) : List Byte := segs.flatMap (fun e => s.getBytes e.place e.len)

/-- REMOTE_WRITE (R363). A message of more than 2³² bytes is not supported (R360). -/
def execRemoteWrite (p : Packet) (off : Nat) (data : List Byte) : State → Out :=
  remote "REMOTE_WRITE" { p with supported := p.supported && decide (data.length ≤ 2 ^ 32) } (fun s =>
    s.remoteOp p off data.length 1 1 .store data (fun t segs => (t.engineStore data segs, .ack)))

/-- REMOTE_READ (R363). -/
def execRemoteRead (p : Packet) (off : Nat) (len : Nat) : State → Out :=
  remote "REMOTE_READ" { p with supported := p.supported && decide (len ≤ 2 ^ 32) } (fun s =>
    s.remoteOp p off len 1 0 .load [] (fun t segs => (t, .data (t.pieceBytes segs))))

/-- A remote atomic of 8 bytes: the old value is returned, f gives the new one. -/
def State.remoteAtomic (s : State) (p : Packet) (off : Nat) (f : Word → Word) : Option State :=
  s.remoteOp p off 8 8 2 .atomic [] (fun t segs =>
    let old := BitVec.ofNat 64 (leNat (t.pieceBytes segs))
    (t.engineStore (leBytes 8 (f old).toNat) segs, .word old))

/-- REMOTE_FETCH_ADD (R363). -/
def execRemoteFetchAdd (p : Packet) (off : Nat) (v : Word) : State → Out :=
  remote "REMOTE_FETCH_ADD" p (fun s => s.remoteAtomic p off (fun old => old + v))

/-- REMOTE_SWAP (R363). -/
def execRemoteSwap (p : Packet) (off : Nat) (v : Word) : State → Out :=
  remote "REMOTE_SWAP" p (fun s => s.remoteAtomic p off (fun _ => v))

/-- REMOTE_COMPARE_SWAP (R363). -/
def execRemoteCompareSwap (p : Packet) (off : Nat) (cmp : Word) (v : Word) : State → Out :=
  remote "REMOTE_COMPARE_SWAP" p (fun s => s.remoteAtomic p off (fun old => if old = cmp then v else old))

/-- The increment that an add to a counter window makes (R364), or the failure that is named: PERM first, of whichever kind the window
is (R365; log 45). -/
def State.remoteAdd (s : State) (p : Packet) (off : Nat) (v : BitVec 32) : Except RemoteFailure Msg :=
  match s.windowOf p.key with
  | none => .error .key
  | some w =>
    let region := (s.region? w.region).filter (fun r => r.state == .live)
    match firstFailure [
        (w.perm.getLsbD 2, .perm), (w.counter, .key), (off % 4 == 0, .align), (decide (off + 4 ≤ w.length), .bounds),
        (region.isSome, .region), (region.any (fun r => decide (off / 256 < (r.lw + 1) * (r.lh + 1))), .bounds)], region with
    | none, some r => .ok ⟨.remote p.flow, r.id, r.coreOf (off / 256), BitVec.ofNat 6 (off % 256 / 4), v, none, 0⟩
    | some f, _ => .error f
    | none, none => .error .region

/-- REMOTE_COUNTER_ADD (R364): the add is under way to its counter; it is acknowledged when it has been applied. -/
def execRemoteCounterAdd (p : Packet) (off : Nat) (v : BitVec 32) : State → Out :=
  remote "REMOTE_COUNTER_ADD" { p with flow := none } (fun s => some (match s.remoteAdd p off v with
    | .ok m => { s with msgs := s.msgs ++ [m] }
    | .error f => s.reply (.nack f)))

/-! ## The management class (R361) -/

/-- The fields of a window entry (R362): none where a field is out of range; VALID 0 leaves the slot empty. -/
def windowFields (e : BitVec 256) : Option (Option HostWindow) :=
  let f (hi lo : Nat) : Nat := e.toNat / 2 ^ lo % 2 ^ (hi - lo + 1)
  let counter := f 68 68 == 1
  if f 64 64 = 0 then some none
  else if f 79 72 ≠ 0 ∨ f 63 0 ≠ 0 ∨ 5 < f 71 69 ∨ 2 ^ 48 < f 191 128 then none
  else if (if counter then f 255 192 ≠ 0 else f 255 192 % 65536 ≠ 0 ∨ f 191 128 % 65536 ≠ 0) then none
  else some (some ⟨f 255 192, f 191 128, BitVec.ofNat 32 (f 127 96), BitVec.ofNat 16 (f 95 80), f 71 69, counter,
    BitVec.ofNat 3 (f 67 65)⟩)

/-- INSTALL_HOST_WINDOW (R362). -/
def execInstallHostWindow (slot : Nat) (entry : BitVec 256) : State → Out :=
  managed "INSTALL_HOST_WINDOW" false (fun s =>
    match (if slot < 1024 then windowFields entry else none) with
    | none => s.reply .refused
    | some w => (s.modDevice (fun d => { d with windows := match w with
        | none => d.windows.filter (fun e => e.1 != slot)
        | some x => ainsert d.windows slot x })).reply .accepted)

/-- INSTALL_PEER_GROUP (R369). -/
def execInstallPeerGroup (grp : Nat) (rank : Nat) (regs : List RegionId) : State → Out :=
  managed "INSTALL_PEER_GROUP" false (fun s =>
    if 1 ≤ grp ∧ grp ≤ 255 ∧ rank < regs.length ∧ regs.length ≤ 1024 then
      (s.modDevice (fun d => { d with
        peers := (grp, rank, regs) :: d.peers.filter (fun p => p.1 != grp)
        lostPeers := d.lostPeers.filter (fun p => p.1 != grp) })).reply .accepted
    else s.reply .refused)

/-- READ_TELEMETRY (R361): in safe mode, too, with the failure record (R428). -/
def execReadTelemetry : State → Out :=
  managed "READ_TELEMETRY" true (fun s => s.reply (.telemetry s.device.telemetry s.device.ports.toList s.device.failures))

/-- HOSTMSG (R380): queued 16 deep at the root's supervising core; a 17th is refused to the host. -/
def execHostmsg (msg : Word) : State → Out :=
  managed "HOSTMSG" false (fun s => match s.region? 1 with
    | none => s.reply .refused
    | some r =>
      if (s.coreAt r.supervisor).pending.hostmsg.length < 16 then
        (s.modCore r.supervisor (fun c => { c with pending := { c.pending with hostmsg := c.pending.hostmsg ++ [msg] } })).reply .accepted
      else s.reply .refused)

/-- TRANSPORT_KEY_INSTALL (R360). -/
def execTransportKeyInstall (cls : Nat) (key : List Byte) : State → Out :=
  managed "TRANSPORT_KEY_INSTALL" false (fun s =>
    if cls < 8 then (s.modDevice (fun d => { d with transportKeys := ainsert d.transportKeys cls key })).reply .accepted
    else s.reply .refused)

/-! ## A lost peer (R374) -/

/-- A started instance of a peer group fails: code 0x22 at its first participant here, 0x23 at the others. -/
def State.losePeer (s : State) (i : Instance) : State :=
  let es := s.cmds.filter (fun c => i.ids.contains c.id)
  (s.failAll es (fun id => if some id = i.ids.head? then some (0x22, 0) else none)).endInstance i.ids

/-- PEER_UNREACHABLE (R374): every unfinished instance of the group fails; one that has not started fails when it does. -/
def execPeerUnreachable (grp : Nat) (rank : Nat) : State → Out :=
  event "PEER_UNREACHABLE"
    (fun s => s.device.peers.any (fun p => p.1 == grp && decide (rank < p.2.2.length) && p.2.1 != rank))
    (fun s =>
      let t := s.modDevice (fun d => { d with
        lostPeers := if d.lostPeers.contains (grp, rank) then d.lostPeers else (grp, rank) :: d.lostPeers })
      (t.instances.filter (fun i => i.key.1 == grp)).foldl State.losePeer t)

end Sys2Proof.Machine
end

