-- ==== Sys2Proof/Machine/DeviceEvents.lean ====
section
/-! DEFINITION. Start, keys and attestation (R424-R432), the clocks of the dies (R433, R434), and hardware faults (R435). -/

namespace Sys2Proof.Machine

/-! ## Measurements (R429, R430) -/

/-- The signature block stands last in a firmware stage (R113): the offset where it begins. -/
def blockOffset (bs : List Byte) : Nat := bs.length - 29832

/-- KEYID of a key (R113). -/
def keyId (key : List Byte) : List Byte := Config.shake256 32 key

/-- Whether a firmware stage is signed by entry 0 (R429). -/
def stageSigned (bs : List Byte) : Bool := (signer [(0, Config.manufacturerKey)] (listReader bs) (blockOffset bs)).isSome

/-- Where the root image's signature block begins: SIGOFF of its header. -/
def rootSigOff (bs : List Byte) : Nat := slice bs 0x38 4

/-- The 104 bytes of a log entry (R430). -/
def LogEntry.bytes (e : LogEntry) (index : Nat) : List Byte := leBytes 4 index ++ leBytes 4 e.kind ++ e.keyid ++ e.digest

/-- The entries that stage 4 appends: firmware stages, the root image under its key, the key table last. -/
def Device.measurements (d : Device) (key : List Byte) : List LogEntry :=
  d.firmware.map (fun f => (⟨1, keyId Config.manufacturerKey, Config.shake256 64 (f.2.take (blockOffset f.2))⟩ : LogEntry)) ++
  [⟨2, keyId key, Config.shake256 64 (d.rootImage.take (rootSigOff d.rootImage))⟩,
   ⟨3, zeros 32, Config.shake256 64 (Config.keyTableBytes d.keys)⟩]

/-- The running value over some entries from an index on (R430). -/
def runningValue (r : List Byte) (i : Nat) : List LogEntry → List Byte
  | [] => r
  | e :: es => runningValue (Config.shake256 64 (r ++ e.bytes i)) (i + 1) es

/-! ## The root region (R432) -/

/-- HBM5 pages that the free store holds at stage 5: the last ones, how many is free (R408, R432; log 92). -/
def freeAtStart : Nat := Config.rootValue 15 % hbmPages

/-- The root region. What R432 does not give is free (log 23). -/
def rootRegion (image : List Byte) : Region where
  id := 1
  depth := 0
  parent := 0
  state := .live
  block := 0
  home := 1
  prio := Config.rootValue 0
  dbgGang := Config.rootValue 1 % 2 == 1
  watchdog := Config.rootValue 2
  fdom := 1
  weight := Config.rootValue 3
  tclass := 0
  hmask := 0x7FFFE
  hvec := BitVec.ofNat 64 (Config.rootValue 4)
  xroot := Config.rootStage image
  ownLnt := true
  lntBase := Config.rootValue 5
  lntCap := Config.rootValue 6
  poolBase := Config.rootValue 7
  poolPages := Config.rootValue 8
  alog := 0
  swap := Config.rootValue 9
  cores := meshSize
  pages := hbmPages - freeAtStart
  queue := Config.rootValue 10
  contexts := Config.rootValue 11
  res := 9900
  tokens := Config.rootValue 12
  pagesUsed := 0
  queueUsed := 0
  contextsUsed := 0
  carved := []
  borrow := Config.rootValue 13
  repay := Config.rootValue 14
  balance := (Config.rootValue 12 : Nat)
  marker := 0
  earmark := 0
  pool := 0
  deficit := 0
  lw := 255
  lh := 191
  cmap := []
  seq := 0
  launches := []
  refused := none
  revokeTs := none
  revoker := none
  placed := []
  lost := []

/-- The launch of the root image: no deadline, no arguments, the entry of the image's header (R432). -/
def rootLaunch (image : List Byte) (im : Cerby) (handles : List (Nat × Nat)) : Launch where
  seq := 1
  entry := BitVec.ofNat 64 (slice image 0x10 8)
  image := 0
  space := 0
  keys := []
  args := [0, 0, 0, 0]
  worst := 0
  deadline := none
  tstart := 0
  stack := 0
  wsbase := 0x1C000
  deps := []
  load := 2048 + (im.loaded + 63) / 64
  cost := 0
  promise := (0, 0)
  handles := handles
  earmark := 0
  state := .waiting
  code := 0
  voided := false
  order := 0
  readyTick := 0
  cores := []
  loadAt := 0
  startAt := 0
  settled := 0
  superstep := 0
  boundary := 0
  yield := false
  stopTs := none
  stopped := false
  resumeTr := none
  saved := []

/-- Stage 5: stage tables, root region, root launch; none where the root image cannot be launched. -/
def State.installRoot (s : State) : Option State :=
  let image := s.device.rootImage
  match parseImage (listReader image) with
  | none => none
  | some im =>
    if !(im.entryOk (slice image 0x10 8) && decide (im.top ≤ 0x1C000)) then none
    else
      let t := (Config.rootTables image).foldl (fun t e => t.setBytes (framePlace 0 e.1) e.2) s
      let t := { t with
        regions := [rootRegion image]
        device := { t.device with freeHbm := (List.range freeAtStart).map (fun i => hbmPages - 1 - i) } }
      match t.enterImage 1 im with
      | none => none
      | some (handles, u) =>
        some ((u.modRegion 1 (fun r => { r with
          seq := 1, queueUsed := 1, launches := [rootLaunch image im handles] })).makeReady 1 1)

/-! ## Starts (R424-R428) -/

/-- Readings of the 64 dies' sensors and of every layer's, as they are now. -/
def State.readSensors (s : State) : State :=
  let read (n : Nat) (i : Nat) : Nat := Config.freeNat (s.free + n + i)
  { s with
    free := s.free + 64 + 16 * Config.layers
    device := { s.device with
      dies := (List.range 64).map (fun i => (⟨i, 12, read 0 i, false⟩ : Die))
      baseDies := Vector.ofFn (fun (k : Fin 16) =>
        let ts := (List.range Config.layers).map (read (64 + k.val * Config.layers))
        (⟨ts, ts.map refreshInterval, 0, ts.map refreshInterval, false, false, 0, [], 0⟩ : Stack)) } }

/-- What the sensors read. -/
def Device.readings (d : Device) : List Nat := d.dies.map Die.temp ++ d.baseDies.toList.flatMap Stack.temps

/-- The bytes that the CRC-32C of a calibration record covers. DESIGN CHOICE (log 60): the training results, then the readings in two
bytes each. -/
def Calibration.bytes (training : List Byte) (readings : List Nat) : List Byte := training ++ readings.flatMap (leBytes 2)

/-- The calibration record that stage 2 writes (R426): its training results are free. -/
def State.writeRecord (s : State) : State :=
  let (x, s) := s.draw
  let training := leBytes 64 x
  s.modDevice (fun d => { d with
    calibration := some ⟨training, d.readings, crc32c (Calibration.bytes training d.readings)⟩ })

/-- The calibration record as it is read from the non-volatile store, which may have lost it: a free value chooses whether its CRC-32C
is still the one that was written (R426). -/
def State.readRecord (s : State) : State :=
  let (x, s) := s.draw
  if x % 2 = 0 then s
  else
    let (y, s) := s.draw
    s.modDevice (fun d => { d with calibration := d.calibration.map (fun c => { c with crc := BitVec.ofNat 32 y }) })

/-- Whether something that the outside does is the device's own doing in fact: a retirement that it has begun. -/
def ownDoing : Instr → Bool
  | .pageRetire _ => true
  | _ => false

/-- The machine as a start finds it: as at power-on, but for the non-volatile store and telemetry. -/
def State.restart (s : State) : State :=
  { State.reset with
    free := s.free, inputs := s.inputs.dropWhile ownDoing, stores := s.stores, sensors := s.sensors, outbox := s.outbox
    device := { Device.reset with
      failures := s.device.failures, calibration := s.device.calibration, keys := s.device.keys, firmware := s.device.firmware
      rootImage := s.device.rootImage, telemetry := s.device.telemetry } }

/-- Stages 3 to 5; the number of the stage that fails, with what the start has done by then: the log of stage 4 (R430). -/
def State.lateStages (s : State) : Except (Nat × State) State :=
  let d := s.device
  match (if d.firmware.all (fun f => stageSigned f.2) then signer d.keys (listReader d.rootImage) (rootSigOff d.rootImage) else none) with
  | none => .error (3, s)
  | some k =>
    let key := ((d.keys.find? (fun e => e.1 == k)).map Prod.snd).getD []
    let log := d.measurements key
    if 64 < log.length then .error (4, s)
    else
      let (x, s) := s.draw
      let d := { d with log := log, running := runningValue (zeros 64) 0 log }
      let t := { s with
        now := 12 * x, dealt := x / 200000
        device := { d with phase := .running, baseDies := d.baseDies.map (fun (k : Stack) => { k with heartbeat := x, passAt := x }) } }
      match t.installRoot with
      | none => .error (5, { s with device := d })
      | some u => .ok (u.modDevice (fun d => { d with failures := 0 }))

/-- One cold start: stages 1 and 2 end well or fail as a free value has it. -/
def State.coldStages (s : State) : Except (Nat × State) State :=
  let (x, s) := s.restart.draw
  if x % 3 ≠ 0 then .error (x % 3, s)
  else
    s.readSensors.writeRecord.lateStages

/-- A failed start (R427): counted; at three the device is in safe mode, where the log of the last start can be read (R428),
else a cold start follows. -/
def State.failStart : Nat → Nat → State → State
  | 0, _, s => s
  | fuel + 1, stage, s =>
    let t := (s.modDevice (fun d => { d with failures := d.failures + 1 })).record (.startFailed stage)
    if 3 ≤ t.device.failures then
      { t.restart with device := { t.restart.device with phase := .safe, log := t.device.log, running := t.device.running } }
    else match t.coldStages with
      | .ok u => u
      | .error (n, u) => State.failStart fuel n u

/-- A cold start, with those that follow its failures. -/
def State.coldStart (s : State) : State :=
  match s.coldStages with
  | .ok t => t
  | .error (n, t) => State.failStart 3 n t

/-- COLD_START (R424). -/
def execColdStart : State → Out := event "COLD_START" (fun _ => true) State.coldStart

/-- Whether the calibration record lets a warm start go on (R426). -/
def Calibration.fits (c : Calibration) (now : List Nat) : Bool :=
  c.crc == crc32c (Calibration.bytes c.training c.readings) && c.readings.length == now.length &&
  (c.readings.zip now).all (fun e => decide (e.1 ≤ e.2 + 10) && decide (e.2 ≤ e.1 + 10))

/-- WARM_START_REQUEST (R426): stages 3 to 5, or a cold start. -/
def execWarmStartRequest : State → Out :=
  managed "WARM_START_REQUEST" false (fun s =>
    let t := s.restart.readSensors.readRecord
    if t.device.calibration.any (fun c => c.fits t.device.readings) then
      match t.lateStages with
      | .ok u => u
      | .error (n, u) => State.failStart 3 n u
    else s.coldStart)

/-! ## Keys and attestation (R429, R431) -/

/-- KEY_INSTALL (R429). -/
def execKeyInstall (slot : Nat) (pub : List Byte) (sig : List Byte) : State → Out :=
  managed "KEY_INSTALL" false (fun s =>
    if 1 ≤ slot ∧ slot ≤ 15 ∧ pub.length = 64 ∧
        Config.slhDsaVerify Config.manufacturerKey (Config.installMessage slot pub) sig = true then
      ({ s with verified := s.verified.filter (fun e => e.2.2.2 != slot) }.modDevice (fun d => { d with
        keys := ainsert d.keys slot pub })).reply .accepted
    else s.reply .refused)

/-- KEY_REMOVAL (R429): verifications made under the key are discarded. -/
def execKeyRemoval (slot : Nat) (keyid : List Byte) (sig : List Byte) : State → Out :=
  managed "KEY_REMOVAL" false (fun s =>
    if 1 ≤ slot ∧ slot ≤ 15 ∧ s.device.keys.any (fun k => k.1 == slot && keyId k.2 == keyid) = true ∧
        Config.slhDsaVerify Config.manufacturerKey (Config.removalMessage slot keyid) sig = true then
      ({ s with verified := s.verified.filter (fun e => e.2.2.2 != slot) }.modDevice (fun d => { d with
        keys := d.keys.filter (fun k => k.1 != slot) })).reply .accepted
    else s.reply .refused)

/-- ATTESTATION_REQUEST (R431). -/
def execAttestationRequest (nonce : List Byte) : State → Out :=
  managed "ATTESTATION_REQUEST" true (fun s =>
    if nonce.length = 32 then
      let log := s.device.log
      let bytes := (List.range log.length).flatMap (fun i => (log[i]?.map (fun e => e.bytes i)).getD [])
      s.reply (.attestation log s.device.running nonce
        (Config.slhDsaSign (Config.attestationMessage bytes s.device.running nonce)))
    else s.reply .refused)

/-- FIRMWARE_REPLACE (R428): in safe mode alone. -/
def execFirmwareReplace (stage : Nat) (image : List Byte) : State → Out :=
  managed "FIRMWARE_REPLACE" true (fun s =>
    if s.device.phase = .safe then
      (s.modDevice (fun d => { d with firmware := ainsert d.firmware stage image })).reply .accepted
    else s.reply .refused)

/-! ## Clocks (R433, R46) -/

/-- Whether a region has a core on a die. -/
def Region.onDie (r : Region) (die : Nat) : Bool := r.id == 1 || r.cmap.any (fun p => dieOf p == die)

/-- Whether every launch with cores on a die stands between supersteps: its cores, on whatever die, all wait in GBAR, or have
halted. -/
def State.dieBetween (s : State) (die : Nat) : Bool :=
  s.regions.all (fun r => r.launches.all (fun l =>
    let mine := l.cores.filter (s.takesPart r.id l.seq)
    l.state != .running || mine.all (fun p => dieOf p != die) || mine.all (fun p =>
      (s.coreAt p).status == .waiting .gbar || (s.coreAt p).status == .halted)))

/-- Whether a timed segment runs, or is about to (R46): a core is in one or waits for its start, or a launch is being loaded that
left one running. -/
def State.timedRuns (s : State) : Bool :=
  s.cores.any (fun c => c.timed || (match c.status with | .waiting (.start _) => true | _ => false)) ||
  s.regions.any (fun r => r.launches.any (fun l => l.state == .loading && l.timed))

/-- Whether a die must run at 2.0 GHz (R433). -/
def State.heldFast (s : State) (die : Nat) : Bool :=
  s.timedRuns || s.regions.any (fun r => r.onDie die && r.launches.any (fun l => l.deadline.isSome && !l.voided && l.state.unfinished))

/-- Change a die. -/
def State.modDie (s : State) (die : Nat) (f : Die → Die) : State :=
  s.modDevice (fun d => { d with
    dies := putBy Die.id (f ((d.dies.find? (fun x => x.id == die)).getD ⟨die, 12, 0, false⟩)) d.dies })

/-- CLOCK_CHANGE (R433): the period in twelfths of a tick, 12, 15 or 20 for 2.0, 1.6 or 1.2 GHz. -/
def execClockChange (die : Nat) (period : Nat) : State → Out :=
  event "CLOCK_CHANGE"
    (fun s => decide (die < 64) && (period == 12 || period == 15 || period == 20) && s.dieBetween die &&
      (period == 12 || !s.heldFast die))
    (fun s => s.modDie die (fun d => { d with period := period }))

/-! ## Hardware faults (R434, R435) -/

/-- A hardware fault acts on every region of a fault domain (R435). -/
def State.strike (s : State) (fault : HardFault) (fdom : Nat) : State :=
  let hit := s.regions.filter (fun r => r.state != .retired && r.fdom == fdom)
  let t := hit.foldl (fun t r =>
    let u := if r.running?.isSome then t.queueTree r.supervisor true 0 else t
    (r.launches.filter (fun l => l.deadline.isSome && l.state.unfinished)).foldl (fun u l => u.voidLaunch r.id l.seq 0x24) u) s
  t.record (.hardwareFault fault fdom (hit.map Region.id))

/-- Whether a launch of a region in one of two states of being placed has a core on a die. -/
def State.launchOn (s : State) (r : Region) (die : Nat) (st : LState) : Bool :=
  r.launches.any (fun l => l.state == st && l.cores.any (fun p => dieOf p == die && s.takesPart r.id l.seq p))

/-- A launch that is being loaded onto a die whose clock stops: its promise is void, and its region is told (R434). -/
def State.strikeLoading (s : State) (q : RegionId) : State :=
  match s.region? q with
  | none => s
  | some r =>
    (r.launches.filter (fun l => l.state == .loading && l.deadline.isSome)).foldl (fun t l => t.voidLaunch q l.seq 0x24)
      (s.queueTree r.supervisor true 0)

/-- THERMAL_CLOCK_STOP (R434): a junction at 115 °C stops the clock of its die. Promises to every launch on the die are void; each
fault domain of a running launch there is acted on once (R435). -/
def execThermalClockStop (die : Nat) : State → Out :=
  running "THERMAL_CLOCK_STOP"
    (fun s => s.device.dies.any (fun d => d.id == die && !d.stopped && decide (115 ≤ d.temp)))
    (fun s =>
      let t := (s.modDie die (fun d => { d with stopped := true })).record (.clockStop die)
      let doms := ((s.regions.filter (fun r => s.launchOn r die .running)).map Region.fdom).eraseDups
      let u := doms.foldl (fun t f => t.strike (.clockStop die) f) t
      ((s.regions.filter (fun r => s.launchOn r die .loading)).map Region.id).foldl State.strikeLoading u)

/-- THERMAL_CLOCK_RESUME (R434): below 105 °C. -/
def execThermalClockResume (die : Nat) : State → Out :=
  running "THERMAL_CLOCK_RESUME"
    (fun s => s.device.dies.any (fun d => d.id == die && d.stopped && decide (d.temp < 105)))
    (fun s => (s.modDie die (fun d => { d with stopped := false })).record (.clockResume die))

/-- The sensor of a die reads anew (R434). -/
def State.sense (s : State) : State :=
  match s.sensors with
  | [] => s
  | (die, temp) :: rest => { s with sensors := rest }.modDevice (fun d => { d with
      dies := d.dies.map (fun (x : Die) => if x.id = die then { x with temp := temp } else x) })

/-- DIE_LINK_LOSS (R435): the core at pos, of a running launch, is out of reach. -/
def execDieLinkLoss (pos : Nat) : State → Out :=
  event "DIE_LINK_LOSS"
    (fun s => (s.placedOn pos).any (fun e => e.2.state == .running))
    (fun s => match s.placedOn pos with
      | some e => s.strike (.linkLoss pos) e.1.fdom
      | none => s)

/-! ## The free stores (R408) -/

/-- The root's system software puts a frame into a free store, or takes one out (R408). DESIGN CHOICE (log 92): a frame that lies in the
other tier, that a store holds already, or to which a page has been moved, does not go in. -/
def State.restock (s : State) : State :=
  match s.stores with
  | [] => s
  | o :: rest =>
    let s := { s with stores := rest }
    let other := (linkOf o.frame).isSome == o.hbm
    let used := s.device.freeHbm.contains o.frame || s.device.freeCap.contains o.frame || s.remap.any (fun e => e.2 == o.frame) ||
      s.isShadow o.frame || s.isMoving o.frame
    if o.fill && (other || used || !s.pageExists o.frame) then s
    else
      let change (l : List Nat) : List Nat := if o.fill then o.frame :: l else l.filter (fun f => f != o.frame)
      s.modDevice (fun d => if o.hbm then { d with freeHbm := change d.freeHbm } else { d with freeCap := change d.freeCap })

end Sys2Proof.Machine
end

