-- ==== Sys2Proof/Machine/Float.lean ====
section
/-! DEFINITION. Floating point on g registers (R141-R143). -/

namespace Sys2Proof.Machine

/-- A register as an operand of a format: the whole of it, or bits [31:0] (R141). -/
def fsrc (F : Fmt) (x : Word) : Nat := x.toNat % 2 ^ F.w

/-- gD from one float source, flags landing with the result. -/
def float1 (F : Fmt) (l : Nat) (f : Nat → Nat × Fl) (d a : BitVec 5) : State → Out :=
  issue 4 do
    let x ← readG a
    let r := f (fsrc F x)
    writeG d (BitVec.ofNat 64 r.1) l
    raiseFlags r.2 l

/-- gD from two float sources. -/
def float2 (F : Fmt) (l : Nat) (f : Nat → Nat → Nat × Fl) (d a b : BitVec 5) : State → Out :=
  issue 4 do
    let x ← readG a
    let y ← readG b
    let r := f (fsrc F x) (fsrc F y)
    writeG d (BitVec.ofNat 64 r.1) l
    raiseFlags r.2 l

/-- gD from three float sources A, B, D. -/
def float3 (F : Fmt) (l : Nat) (f : Nat → Nat → Nat → Nat × Fl) (d a b : BitVec 5) : State → Out :=
  issue 4 do
    let x ← readG a
    let y ← readG b
    let z ← readG d
    let r := f (fsrc F x) (fsrc F y) (fsrc F z)
    writeG d (BitVec.ofNat 64 r.1) l
    raiseFlags r.2 l

/-- A comparison as a register value (R141). -/
def cmpResult (F : Fmt) (c : Cmp) (a b : Nat) : Nat × Fl :=
  let r := fcmp F c a b
  (r.1.toNat, r.2)

/-- The sign bit of a format. -/
def signBit (F : Fmt) : Nat := 2 ^ (F.w - 1)

/-- A code without its sign bit. -/
def magnitude (F : Fmt) (a : Nat) : Nat := a % signBit F

/-- FMV.NEG. -/
def fmvNeg (F : Fmt) (a : Nat) : Nat × Fl := (magnitude F a + (if a / signBit F % 2 = 1 then 0 else signBit F), 0)
/-- FMV.ABS. -/
def fmvAbs (F : Fmt) (a : Nat) : Nat × Fl := (magnitude F a, 0)
/-- FMV.CPS. -/
def fmvCps (F : Fmt) (a b : Nat) : Nat × Fl := (magnitude F a + b / signBit F % 2 * signBit F, 0)

/-- Mode of a rounding code; code 0 is CRND's (R63, R120). -/
def modeOfCode (crnd : BitVec 2) (r : Nat) : Mode :=
  match r with
  | 0 => modeOf crnd
  | 1 => .rne
  | 2 => .rtz
  | 3 => .rup
  | _ => .rdn

/-- FCVT: a conversion in the mode of its rounding code (R142); `F` is the source's format, or FP64 for L and LU. -/
def convert1 (F : Fmt) (f : Mode → Nat → Nat × Fl) (d a : BitVec 5) (r : BitVec 4) : State → Out :=
  issue 4 do
    let x ← readG a
    let c ← getC
    let y := f (modeOfCode c.crnd r.toNat) (fsrc F x)
    writeG d (BitVec.ofNat 64 y.1) 3
    raiseFlags y.2 3

/-- Float to L or LU (R126, R142). -/
def cvtToInt (F : Fmt) (signed : Bool) (mode : Mode) (a : Nat) : Nat × Fl :=
  let r := floatToInt signed 64 mode (decodeF F a)
  (intCode 64 r.1, r.2)

/-- L or LU to float. -/
def cvtFromInt (F : Fmt) (signed : Bool) (mode : Mode) (a : Nat) : Nat × Fl := intToFloat F mode (intVal signed 64 a)

/-! ## MAJ 0x10: .D -/

/-- FADD.D (R141). -/
def execFaddD (d a b : BitVec 5) : State → Out := float2 fp64 4 (fadd fp64) d a b

/-- FSUB.D (R141). -/
def execFsubD (d a b : BitVec 5) : State → Out := float2 fp64 4 (fsub fp64) d a b

/-- FMUL.D (R141). -/
def execFmulD (d a b : BitVec 5) : State → Out := float2 fp64 4 (fmul fp64) d a b

/-- FFMA.D (R141). -/
def execFfmaD (d a b : BitVec 5) : State → Out := float3 fp64 5 (ffma fp64) d a b

/-- FDIV.D (R141). -/
def execFdivD (d a b : BitVec 5) : State → Out := float2 fp64 22 (fdiv fp64) d a b

/-- FSQRT.D (R141). -/
def execFsqrtD (d a : BitVec 5) : State → Out := float1 fp64 22 (fsqrt fp64) d a

/-- FMIN.D (R141). -/
def execFminD (d a b : BitVec 5) : State → Out := float2 fp64 4 (fminmax fp64 false) d a b

/-- FMAX.D (R141). -/
def execFmaxD (d a b : BitVec 5) : State → Out := float2 fp64 4 (fminmax fp64 true) d a b

/-- FCMP.EQ.D (R141). -/
def execFcmpEqD (d a b : BitVec 5) : State → Out := float2 fp64 1 (cmpResult fp64 .eq) d a b

/-- FCMP.LT.D (R141). -/
def execFcmpLtD (d a b : BitVec 5) : State → Out := float2 fp64 1 (cmpResult fp64 .lt) d a b

/-- FCMP.LE.D (R141). -/
def execFcmpLeD (d a b : BitVec 5) : State → Out := float2 fp64 1 (cmpResult fp64 .le) d a b

/-- FCMP.UN.D (R141). -/
def execFcmpUnD (d a b : BitVec 5) : State → Out := float2 fp64 1 (cmpResult fp64 .un) d a b

/-- FMV.NEG.D (R141). -/
def execFmvNegD (d a : BitVec 5) : State → Out := float1 fp64 1 (fmvNeg fp64) d a

/-- FMV.ABS.D (R141). -/
def execFmvAbsD (d a : BitVec 5) : State → Out := float1 fp64 1 (fmvAbs fp64) d a

/-- FMV.CPS.D (R141). -/
def execFmvCpsD (d a b : BitVec 5) : State → Out := float2 fp64 1 (fmvCps fp64) d a b

/-! ## MAJ 0x11: .S -/

/-- FADD.S (R141). -/
def execFaddS (d a b : BitVec 5) : State → Out := float2 fp32 3 (fadd fp32) d a b

/-- FSUB.S (R141). -/
def execFsubS (d a b : BitVec 5) : State → Out := float2 fp32 3 (fsub fp32) d a b

/-- FMUL.S (R141). -/
def execFmulS (d a b : BitVec 5) : State → Out := float2 fp32 3 (fmul fp32) d a b

/-- FFMA.S (R141). -/
def execFfmaS (d a b : BitVec 5) : State → Out := float3 fp32 4 (ffma fp32) d a b

/-- FDIV.S (R141). -/
def execFdivS (d a b : BitVec 5) : State → Out := float2 fp32 12 (fdiv fp32) d a b

/-- FSQRT.S (R141). -/
def execFsqrtS (d a : BitVec 5) : State → Out := float1 fp32 12 (fsqrt fp32) d a

/-- FMIN.S (R141). -/
def execFminS (d a b : BitVec 5) : State → Out := float2 fp32 3 (fminmax fp32 false) d a b

/-- FMAX.S (R141). -/
def execFmaxS (d a b : BitVec 5) : State → Out := float2 fp32 3 (fminmax fp32 true) d a b

/-- FCMP.EQ.S (R141). -/
def execFcmpEqS (d a b : BitVec 5) : State → Out := float2 fp32 1 (cmpResult fp32 .eq) d a b

/-- FCMP.LT.S (R141). -/
def execFcmpLtS (d a b : BitVec 5) : State → Out := float2 fp32 1 (cmpResult fp32 .lt) d a b

/-- FCMP.LE.S (R141). -/
def execFcmpLeS (d a b : BitVec 5) : State → Out := float2 fp32 1 (cmpResult fp32 .le) d a b

/-- FCMP.UN.S (R141). -/
def execFcmpUnS (d a b : BitVec 5) : State → Out := float2 fp32 1 (cmpResult fp32 .un) d a b

/-- FMV.NEG.S (R141). -/
def execFmvNegS (d a : BitVec 5) : State → Out := float1 fp32 1 (fmvNeg fp32) d a

/-- FMV.ABS.S (R141). -/
def execFmvAbsS (d a : BitVec 5) : State → Out := float1 fp32 1 (fmvAbs fp32) d a

/-- FMV.CPS.S (R141). -/
def execFmvCpsS (d a b : BitVec 5) : State → Out := float2 fp32 1 (fmvCps fp32) d a b

/-! ## MAJ 0x12: FCVT, destination first (R64) -/

/-- FCVT, pair DS (R142). -/
def execFcvtDS (d a : BitVec 5) (r : BitVec 4) : State → Out := convert1 fp32 (floatToFloat fp32 fp64) d a r

/-- FCVT, pair SD (R142). -/
def execFcvtSD (d a : BitVec 5) (r : BitVec 4) : State → Out := convert1 fp64 (floatToFloat fp64 fp32) d a r

/-- FCVT, pair DL (R142). -/
def execFcvtDL (d a : BitVec 5) (r : BitVec 4) : State → Out := convert1 fp64 (cvtFromInt fp64 true) d a r

/-- FCVT, pair DLu (R142). -/
def execFcvtDLu (d a : BitVec 5) (r : BitVec 4) : State → Out := convert1 fp64 (cvtFromInt fp64 false) d a r

/-- FCVT, pair SL (R142). -/
def execFcvtSL (d a : BitVec 5) (r : BitVec 4) : State → Out := convert1 fp64 (cvtFromInt fp32 true) d a r

/-- FCVT, pair SLu (R142). -/
def execFcvtSLu (d a : BitVec 5) (r : BitVec 4) : State → Out := convert1 fp64 (cvtFromInt fp32 false) d a r

/-- FCVT, pair LD (R142). -/
def execFcvtLD (d a : BitVec 5) (r : BitVec 4) : State → Out := convert1 fp64 (cvtToInt fp64 true) d a r

/-- FCVT, pair LuD (R142). -/
def execFcvtLuD (d a : BitVec 5) (r : BitVec 4) : State → Out := convert1 fp64 (cvtToInt fp64 false) d a r

/-- FCVT, pair LS (R142). -/
def execFcvtLS (d a : BitVec 5) (r : BitVec 4) : State → Out := convert1 fp32 (cvtToInt fp32 true) d a r

/-- FCVT, pair LuS (R142). -/
def execFcvtLuS (d a : BitVec 5) (r : BitVec 4) : State → Out := convert1 fp32 (cvtToInt fp32 false) d a r

end Sys2Proof.Machine
end

