-- ==== Sys2Proof/Machine/LoadStore.lean ====
section
/-! DEFINITION. Loads and stores (R153-R160), the tag table and IFENCE (R161-R163). -/

namespace Sys2Proof.Machine

/-- Address of an FM word: a + sext(OFF13, 13)·S (R52). -/
def fmAddr (x : Word) (o : BitVec 13) (size : Nat) : Nat := (x + o.signExtend 64 * BitVec.ofNat 64 size).toNat

/-- LD of n bytes, sign- or zero-extended (R153); w is the instruction word. -/
def loadG (w n : Nat) (signed : Bool) (d a : BitVec 5) (o : BitVec 13) : State → Out :=
  issue 4 do
    let x ← readG a
    let (bs, l) ← loadAccess w (fmAddr x o n) n n
    let v := BitVec.ofNat (8 * n) (leNat bs)
    writeG d (if signed then v.signExtend 64 else v.zeroExtend 64) l

/-- ST of n bytes (R153). The sources are A, then D. -/
def storeG (w n : Nat) (d a : BitVec 5) (o : BitVec 13) : State → Out :=
  issue 4 do
    let x ← readG a
    let y ← readG d
    storeAccess w (fmAddr x o n) n (leBytes n y.toNat)

/-- LD.B (R153). -/
def execLdB (d a : BitVec 5) (o : BitVec 13) : State → Out :=
  loadG (Instr.encode (.ldB d a o)) 1 true d a o

/-- LD.H (R153). -/
def execLdH (d a : BitVec 5) (o : BitVec 13) : State → Out :=
  loadG (Instr.encode (.ldH d a o)) 2 true d a o

/-- LD.W (R153). -/
def execLdW (d a : BitVec 5) (o : BitVec 13) : State → Out :=
  loadG (Instr.encode (.ldW d a o)) 4 true d a o

/-- LD.D (R153). -/
def execLdD (d a : BitVec 5) (o : BitVec 13) : State → Out :=
  loadG (Instr.encode (.ldD d a o)) 8 true d a o

/-- LD.BU (R153). -/
def execLdBu (d a : BitVec 5) (o : BitVec 13) : State → Out :=
  loadG (Instr.encode (.ldBu d a o)) 1 false d a o

/-- LD.HU (R153). -/
def execLdHu (d a : BitVec 5) (o : BitVec 13) : State → Out :=
  loadG (Instr.encode (.ldHu d a o)) 2 false d a o

/-- LD.WU (R153). -/
def execLdWu (d a : BitVec 5) (o : BitVec 13) : State → Out :=
  loadG (Instr.encode (.ldWu d a o)) 4 false d a o

/-- ST.B (R153). -/
def execStB (d a : BitVec 5) (o : BitVec 13) : State → Out :=
  storeG (Instr.encode (.stB d a o)) 1 d a o

/-- ST.H (R153). -/
def execStH (d a : BitVec 5) (o : BitVec 13) : State → Out :=
  storeG (Instr.encode (.stH d a o)) 2 d a o

/-- ST.W (R153). -/
def execStW (d a : BitVec 5) (o : BitVec 13) : State → Out :=
  storeG (Instr.encode (.stW d a o)) 4 d a o

/-- ST.D (R153). -/
def execStD (d a : BitVec 5) (o : BitVec 13) : State → Out :=
  storeG (Instr.encode (.stD d a o)) 8 d a o

/-! ## LDV and STV (R154, R155) -/

/-- Registers of a widened group, in ascending order (R55). -/
def groupOfV (d : Nat) (w : BitVec 2) : List (BitVec 4) := (List.range (2 ^ w.toNat)).map (fun i => BitVec.ofNat 4 (d + i))

/-- The parts of an access by a widened group at v that are transferred: the members that are no bound stream registers, each with
its strip's address (R155). -/
def stripParts (c : Core) (v : Nat) (rs : List (BitVec 4)) : List (Nat × Nat) :=
  ((List.range rs.length).zip rs).filterMap (fun e => if (c.vstream e.2).isSome then none else some (v + 64 * e.1, 64))

/-- The members of an LDV take their strips: register D + i lands i cycles after the window's latency, and at once after the stall
of a translated access (R90, R154). A bound stream register appends a strip that is not loaded; the spec does not state it, so it
is free (log 13). -/
def takeStrips (win : Win) (l : Nat) : Nat → List (BitVec 4) → List (List Byte) → M Unit
  | _, [], _ => pure ()
  | i, r :: rs, bss => do
    let at_ := if win = .virt then l else l + i
    match (← getC).vstream r with
    | some _ =>
      writeV r (BitVec.ofNat 512 (← fresh)) 1 at_
      takeStrips win l (i + 1) rs bss
    | none =>
      writeV r (BitVec.ofNat 512 (leNat (bss.headD []))) 1 at_
      takeStrips win l (i + 1) rs bss.tail

/-- The bytes of the parts of an access. -/
def fetchParts (win : Win) : List (Nat × Nat) → List (List Seg) → M (List (List Byte))
  | e :: es, g :: gs => do
    let bs ← fetchBytes win e.1 e.2 g
    let rest ← fetchParts win es gs
    pure (bs :: rest)
  | _, _ => pure []

/-- LDV (R154, R155). DESIGN CHOICE (log 94): rows 1 to 5 of R152 look at the whole span, the bytes of bound members with it. -/
def execLdv (d a : BitVec 5) (o : BitVec 13) (w : BitVec 2) : State → Out :=
  issue 4 do
    let x ← readG a
    let n := 64 * 2 ^ w.toNat
    let v := fmAddr x o n
    let win ← checkSpan (Instr.encode (.ldv d a o w)) v n 64 .load
    let l := (← get).loadLatency win
    let parts := stripParts (← getC) v (groupOfV d.toNat w)
    let segs ← passParts win parts .load
    let bss ← fetchParts win parts segs
    leaveMarks win segs.flatten .load
    slow win v n
    takeStrips win l 0 (groupOfV d.toNat w) bss

/-- The bytes that an STV stores, by member: none where the member is a bound stream register, which pops. -/
def giveStrips : List (BitVec 4) → M (List (List Byte))
  | [] => pure []
  | r :: rs => do
    let bound := ((← getC).vstream r).isSome
    let x ← readV r
    let rest ← giveStrips rs
    pure (if bound then rest else leBytes 64 x.toNat :: rest)

/-- Store the parts of an access. -/
def depositParts (win : Win) : List (Nat × Nat) → List (List Seg) → List (List Byte) → M Unit
  | e :: es, g :: gs, bs :: bss => do
    depositBytes false win e.1 bs g
    depositParts win es gs bss
  | _, _, _ => pure ()

/-- STV: the bits, whatever the tags. DESIGN CHOICE (log 94): rows 1 to 5 of R152 look at the whole span, as for LDV. -/
def execStv (d a : BitVec 5) (o : BitVec 13) (w : BitVec 2) : State → Out :=
  issue 4 do
    let x ← readG a
    let n := 64 * 2 ^ w.toNat
    let parts := stripParts (← getC) (fmAddr x o n) (groupOfV d.toNat w)
    let bss ← giveStrips (groupOfV d.toNat w)
    let win ← checkSpan (Instr.encode (.stv d a o w)) (fmAddr x o n) n 64 .store
    let segs ← passParts win parts .store
    depositParts win parts segs bss
    leaveMarks win segs.flatten .store
    slow win (fmAddr x o n) n

/-! ## LDM and STM (R156-R158) -/

/-- The pages of a span as far as they can be reached: the pieces before the first failing page, and why it fails. -/
def resolvePrefix (k : AccKind) : Nat → Nat → Nat → M (List Seg × Option Stop)
  | 0, _, _ => pure ([], none)
  | fuel + 1, v, n =>
    if n = 0 then pure ([], none)
    else do
      let here := min n (65536 - v % 65536)
      let r ← tryCatch (do return Except.ok (← resolvePage v here k)) (fun e => return Except.error e)
      match r with
      | .error e => pure ([], some e)
      | .ok g =>
        let (rest, e) ← resolvePrefix k fuel (v + here) (n - here)
        pure (g :: rest, e)

/-- A failure of row 6 or 8 as a partial transfer's trap: its XVAL is the boundary address (R158). A failure that is raised once
counts as raised. -/
def Stop.partial_ : Stop → M Stop
  | .trap c x q => pure (.trapHere c x q)
  | .lostPage page x => do
    modify (fun s => s.modRegion (s.owner s.core.pos) (fun r => { r with lost := r.lost.filter (fun p => p != page) }))
    pure (.trapHere 18 x 0)
  | .integrity b x => do
    modify (fun s => s.untear b)
    pure (.trapHere 13 x 0)
  | e => pure e

/-- Row 8 of R152 for the pieces of an access in order: the failing granule's address, and why (R158, R404). -/
def State.firstBad (s : State) (k : AccKind) : List Seg → Option (Stop × Nat)
  | [] => none
  | g :: r =>
    match s.lostIn [g] with
    | some g => some (.lostPage (linePage (g.home / 64)) (BitVec.ofNat 64 (g.addr / 65536 * 65536)), g.addr / 65536 * 65536)
    | none => match s.denied k g with
      | some e => some e
      | none => s.firstBad k r

/-- Row 8 for pieces of which a prefix may be transferred: the number of bytes at v that are, and the failure that follows
them. -/
def badPrefix (segs : List Seg) (n v : Nat) (k : AccKind) : M (Nat × Option Stop) := do
  match (← get).firstBad k segs with
  | some e => pure (e.2 - v, some e.1)
  | none => pure (n, none)

/-- Rows 6 to 8 of R152 for a span of which a prefix may be transferred: the pieces, the number of bytes that are, and the
failure that follows them. -/
def admitPrefix (win : Win) (v n : Nat) (k : AccKind) : M (List Seg × Nat × Option Stop) := do
  match win with
  | .virt =>
    let (segs, e) ← resolvePrefix k (n / 65536 + 2) v n
    raceRow win segs k
    let (good, p) ← badPrefix segs (segs.foldl (fun a g => a + g.len) 0) v k
    pure (segs, good, p <|> e)
  | _ =>
    let segs ← partSegs win k v n
    raceRow win segs k
    takeBanks win segs
    takeEngine win 0 n ((← get).loadLatency win)
    let (good, p) ← badPrefix segs n v k
    pure (segs, good, p)

/-- The pieces cut to the first n bytes. -/
def cutSegs : Nat → List Seg → List Seg
  | _, [] => []
  | n, e :: r => if n = 0 then [] else if e.len ≤ n then e :: cutSegs (n - e.len) r else [⟨e.place, e.home, n, e.addr⟩]

/-- A stop that follows a partial transfer. -/
def thenStop : Option Stop → M Unit
  | none => pure ()
  | some e => do throw (← e.partial_)

/-- The registers of a range take their words, each a cycle later than the one before, and at once after the stall of a
translated access (R90, R157). -/
def takeWords (win : Win) (d l : Nat) (bs : List Byte) : Nat → Nat → M Unit
  | 0, _ => pure ()
  | n + 1, i => do
    writeG (BitVec.ofNat 5 (d + i)) (BitVec.ofNat 64 (leNat ((bs.drop (8 * i)).take 8))) (if win = .virt then l else l + i)
    takeWords win d l bs n (i + 1)

/-- Whether a range holds a bound stream register, its first one (R157). -/
def Core.boundIn (c : Core) (d n : Nat) : Option Nat :=
  ((List.range n).map (fun i => d + i)).find? (fun r => (c.gstream (BitVec.ofNat 5 r)).isSome)

/-- LDM. -/
def execLdm (d a b : BitVec 5) : State → Out :=
  issue 4 do
    match (← getC).boundIn d.toNat (b.toNat + 1) with
    | some r => raiseStream r false 5
    | none =>
      let x ← readG a
      let n := 8 * (b.toNat + 1)
      let v := x.toNat
      let win ← checkSpan (Instr.encode (.ldm d a b)) v n 8 .load
      let l := (← get).loadLatency win
      let (segs, good, e) ← admitPrefix win v n .load
      let good := good / 8 * 8
      let segs := cutSegs good segs
      let bs ← fetchBytes win v good segs
      leaveMarks win segs .load
      slow win v n
      takeWords win d.toNat l bs (good / 8) 0
      thenStop e

/-- The words of a range, g0 as zero. -/
def giveWords : Nat → Nat → M (List Byte)
  | 0, _ => pure []
  | n + 1, r => do
    let x ← readG (BitVec.ofNat 5 r)
    let rest ← giveWords n (r + 1)
    pure (leBytes 8 x.toNat ++ rest)

/-- STM. -/
def execStm (d a b : BitVec 5) : State → Out :=
  issue 4 do
    match (← getC).boundIn d.toNat (b.toNat + 1) with
    | some r => raiseStream r false 5
    | none =>
      let x ← readG a
      let n := 8 * (b.toNat + 1)
      let v := x.toNat
      let bs ← giveWords (b.toNat + 1) d.toNat
      let win ← checkSpan (Instr.encode (.stm d a b)) v n 8 .store
      let (segs, good, e) ← admitPrefix win v n .store
      let good := good / 8 * 8
      let segs := cutSegs good segs
      depositBytes false win v (bs.take good) segs
      leaveMarks win segs .store
      slow win v n
      thenStop e

/-! ## LDT and STT (R159, R160) -/

/-- Rows 1 to 5 of R152 for the rows of a tile: all are checked before any moves. -/
def checkRows (w : Nat) (k : AccKind) : List Nat → M Unit
  | [] => pure ()
  | v :: r => do
    let _ ← checkSpan w v 64 64 k
    checkRows w k r

/-- Addresses of the 16 rows. -/
def rowAddrs (a pitch : Nat) : List Nat := (List.range 16).map (fun r => (a + r * pitch) % 2 ^ 64)

/-- Load the rows in order. The words of one access never conflict with one another (R219): the banks are taken once, by the
caller. -/
def loadRows : List Nat → M (List Byte)
  | [] => pure []
  | v :: r => do
    let win := (← get).window v
    let segs ← partSegs win .load v 64
    poisonRow segs .load
    let bs ← fetchBytes win v 64 segs
    leaveMarks win segs .load
    let rest ← loadRows r
    pure (bs ++ rest)

/-- The pieces of the rows that lie in a scratchpad, for their banks. -/
def rowSegs : List Nat → M (List Seg)
  | [] => pure []
  | v :: r => do
    let win := (← get).window v
    let here ← match win with
      | .spad _ => segments win v 64 .load
      | _ => pure []
    let rest ← rowSegs r
    pure (here ++ rest)

/-- The pieces of the rows of a tile that are checked for races, as far as row 6 of R152 lets them be reached. -/
def rowPieces (k : AccKind) : List Nat → M (List Seg)
  | [] => pure []
  | v :: r => do
    let win := (← get).window v
    let here ← tryCatch (do return some (← partSegs win k v 64)) (fun e => match e with
      | .trap _ _ _ => pure none
      | e => throw e)
    match here with
    | none => pure []
    | some segs =>
      let rest ← rowPieces k r
      pure (if (← get).unraced win then rest else segs ++ rest)

/-- The race checks of all rows come before any row moves (R339); the rows from one that row 6 refuses on are not reached. -/
def raceRows (k : AccKind) (rows : List Nat) : M Unit := do
  let segs ← rowPieces k rows
  raceSegs segs k

/-- LDT: the tile changes only when all rows have arrived (R160). DESIGN CHOICE (log 73): the rows may lie in different windows, each
checked in its own; the latency, the stall and the banks are those of the first row's window. DEDUCED (log 32): TAG of the tag in gB
comes after rows 1 to 5 of all rows. -/
def execLdt (d : BitVec 3) (a b : BitVec 5) : State → Out :=
  issue 4 do
    let x ← readG a
    let y ← readG b
    let w := Instr.encode (.ldt d a b)
    let pitch := y.toNat % 2 ^ 24
    let tag := y.toNat / 2 ^ 24 % 32
    check (x.toNat % 64 == 0 && pitch % 64 == 0) 3 x
    checkRows w .load (rowAddrs x.toNat pitch)
    check (tagAssigned tag) 2 (tagXval tag d.toNat 4)
    if (← get).writeLocked d || (← get).readLocked d then throw (.stall 1)
    let win := (← get).window x.toNat
    raceRows .load (rowAddrs x.toNat pitch)
    takeBanks win (← rowSegs (rowAddrs x.toNat pitch))
    if win != .virt then takeEngine win 0 1024 ((← get).loadLatency win + 15)
    let bs ← loadRows (rowAddrs x.toNat pitch)
    slow win x.toNat 1024
    let l := (← get).loadLatency win
    writeT d (BitVec.ofNat 8192 (leNat bs)) (BitVec.ofNat 5 (if tag = 0 then 1 else tag)) (if win == .virt then 1 else l + 15)

/-- Store the rows in ascending order: a trap of row 6 or 8 leaves the rows before it stored (R160). -/
def storeRows (w : Nat) (x : TWord) : Nat → List Nat → M Unit
  | _, [] => pure ()
  | r, v :: rest => do
    let win := (← get).window v
    let segs ← tryCatch (do
        let segs ← partSegs win .store v 64
        poisonRow segs .store
        pure segs) (fun e => do if r = 0 then throw e else throw (← e.partial_))
    depositBytes false win v ((leBytes 1024 x.toNat).drop (64 * r) |>.take 64) segs
    leaveMarks win segs .store
    storeRows w x (r + 1) rest

/-- STT: rows in ascending order, whatever the tag (R160). -/
def execStt (d : BitVec 3) (a b : BitVec 5) : State → Out :=
  issue 4 do
    let x ← readG a
    let y ← readG b
    let w := Instr.encode (.stt d a b)
    let pitch := y.toNat % 2 ^ 24
    let tag := y.toNat / 2 ^ 24 % 32
    check (x.toNat % 64 == 0 && pitch % 64 == 0) 3 x
    checkRows w .store (rowAddrs x.toNat pitch)
    check (tagAssigned tag) 2 (tagXval tag d.toNat 4)
    let t ← readT d
    let win := (← get).window x.toNat
    raceRows .store (rowAddrs x.toNat pitch)
    takeBanks win (← rowSegs (rowAddrs x.toNat pitch))
    if win != .virt then takeEngine win 0 1024 ((← get).storeDelay win + 15)
    storeRows w t 0 (rowAddrs x.toNat pitch)
    slow win x.toNat 1024

/-! ## The tag table (R161, R162) -/

/-- fold(key): the XOR of its 10-bit chunks (R161). -/
def foldKey (k : Word) : Nat :=
  (List.range 7).foldl (fun a i => a ^^^ (k.toNat / 2 ^ (10 * i) % 1024)) 0

/-- The content of a slot as a LOOK at a time sees it: within two cycles of an LSET the old or the new one (R162). DESIGN CHOICE (log
93): one free value decides for all ways of a LOOK together, and the old one is the content before the last LSET. -/
def TagSlot.seen (t : TagSlot) (now period pick : Nat) : Option (Word × RegionId) :=
  if t.since + 2 * period ≤ now then t.cur else if pick % 2 = 0 then t.cur else t.prev

/-- LOOK. -/
def execLook (d a : BitVec 5) : State → Out :=
  issue 4 do
    let x ← readG a
    let s ← get
    let g := s.groupAt (groupOf s.core.pos)
    let q := s.owner s.core.pos
    let set_ := foldKey x
    let ways := g.tags.filter (fun t => t.slot / 4 == set_)
    let p := s.period s.core.pos
    let pick ← if ways.any (fun t => decide (s.now < t.since + 2 * p)) then fresh else pure 0
    let hit := (List.range 4).find? (fun w => ways.any (fun t => t.slot == 4 * set_ + w && t.seen s.now p pick == some (x, q)))
    let r := match hit with
      | some w => 4 * set_ + w
      | none => 2 ^ 63 + 4 * set_
    writeG d (BitVec.ofNat 64 r) 4

/-- LSET. -/
def execLset (a b : BitVec 5) : State → Out :=
  issue 4 do
    let x ← readG a
    let y ← readG b
    let s ← get
    let q := y.toNat % 4096
    let cur : Option (Word × RegionId) := if y.toNat < 2 ^ 63 then some (x, s.owner s.core.pos) else none
    set (s.modGroup (groupOf s.core.pos) (fun g =>
      let old := (g.tags.find? (fun t => t.slot == q)).bind TagSlot.cur
      { g with tags := putBy TagSlot.slot ⟨q, cur, old, s.now⟩ g.tags }))

/-- IFENCE: free code only; the fetched copies are discarded (R162, R163). -/
def execIfence : State → Out :=
  issue 4 do
    check (!(← getC).timed) 1 (BitVec.ofNat 64 (Instr.encode .ifence))
    modC (fun c => { c with refetch := none })

end Sys2Proof.Machine
end

