-- ==== Sys2Proof/Machine/Dispatch.lean ====
section
/-! DEFINITION. The meaning of every instruction: one arm per constructor of `Instr`, each a direct call. -/

namespace Sys2Proof.Machine

/-- What an instruction or an event does. -/
def exec (i : Instr) (s : State) : Host.Outcome State Fault Refusal :=
  match i with
  | .illegalWord long w => Sys2Proof.Machine.execIllegalWord long w s
  | .registerLanding => Sys2Proof.Machine.execRegisterLanding s
  | .takeInterrupt => Sys2Proof.Machine.execTakeInterrupt s
  | .suitBarrierComplete grp mask => Sys2Proof.Machine.execSuitBarrierComplete grp mask s
  | .timedSegmentStart => Sys2Proof.Machine.execTimedSegmentStart s
  | .waitcSatisfied => Sys2Proof.Machine.execWaitcSatisfied s
  | .waitbSatisfied => Sys2Proof.Machine.execWaitbSatisfied s
  | .waitnSatisfied => Sys2Proof.Machine.execWaitnSatisfied s
  | .fenceComplete => Sys2Proof.Machine.execFenceComplete s
  | .tfenceComplete => Sys2Proof.Machine.execTfenceComplete s
  | .pubComplete => Sys2Proof.Machine.execPubComplete s
  | .superstepBoundary reg => Sys2Proof.Machine.execSuperstepBoundary reg s
  | .superstepWatchdog reg => Sys2Proof.Machine.execSuperstepWatchdog reg s
  | .gangStop reg => Sys2Proof.Machine.execGangStop reg s
  | .gangResume reg => Sys2Proof.Machine.execGangResume reg s
  | .debugStopEnd reg => Sys2Proof.Machine.execDebugStopEnd reg s
  | .coreHalt => Sys2Proof.Machine.execCoreHalt s
  | .deal => Sys2Proof.Machine.execDeal s
  | .launchReady reg seq => Sys2Proof.Machine.execLaunchReady reg seq s
  | .launchPlace reg => Sys2Proof.Machine.execLaunchPlace reg s
  | .launchStart reg => Sys2Proof.Machine.execLaunchStart reg s
  | .dealerAnswer => Sys2Proof.Machine.execDealerAnswer s
  | .revokeDismantle reg => Sys2Proof.Machine.execRevokeDismantle reg s
  | .mailboxIncrement n => Sys2Proof.Machine.execMailboxIncrement n s
  | .governorCommandStart grp => Sys2Proof.Machine.execGovernorCommandStart grp s
  | .cubeStep grp => Sys2Proof.Machine.execCubeStep grp s
  | .governorCommandComplete grp => Sys2Proof.Machine.execGovernorCommandComplete grp s
  | .engineCommandStart id => Sys2Proof.Machine.execEngineCommandStart id s
  | .engineLanding id => Sys2Proof.Machine.execEngineLanding id s
  | .engineCommandComplete id => Sys2Proof.Machine.execEngineCommandComplete id s
  | .streamFetch v i_ => Sys2Proof.Machine.execStreamFetch v i_ s
  | .streamWrite v i_ => Sys2Proof.Machine.execStreamWrite v i_ s
  | .collectiveInstanceStart id => Sys2Proof.Machine.execCollectiveInstanceStart id s
  | .housekeeperFold reg idx => Sys2Proof.Machine.execHousekeeperFold reg idx s
  | .nodeFree reg idx => Sys2Proof.Machine.execNodeFree reg idx s
  | .scrubLine => Sys2Proof.Machine.execScrubLine s
  | .pageRetire page => Sys2Proof.Machine.execPageRetire page s
  | .refreshUpdate temps => Sys2Proof.Machine.execRefreshUpdate temps s
  | .heartbeat stack => Sys2Proof.Machine.execHeartbeat stack s
  | .refreshTakeover stack => Sys2Proof.Machine.execRefreshTakeover stack s
  | .mgmtCoreRestart stack => Sys2Proof.Machine.execMgmtCoreRestart stack s
  | .patrolScrub granule outcome => Sys2Proof.Machine.execPatrolScrub granule outcome s
  | .decoderWatchdog page code => Sys2Proof.Machine.execDecoderWatchdog page code s
  | .implicitPromotion page => Sys2Proof.Machine.execImplicitPromotion page s
  | .expanderTimeout link => Sys2Proof.Machine.execExpanderTimeout link s
  | .expanderReinstate link => Sys2Proof.Machine.execExpanderReinstate link s
  | .extentAdd link first count => Sys2Proof.Machine.execExtentAdd link first count s
  | .extentRelease link first => Sys2Proof.Machine.execExtentRelease link first s
  | .remoteWrite p off data => Sys2Proof.Machine.execRemoteWrite p off data s
  | .remoteRead p off len => Sys2Proof.Machine.execRemoteRead p off len s
  | .remoteFetchAdd p off v => Sys2Proof.Machine.execRemoteFetchAdd p off v s
  | .remoteSwap p off v => Sys2Proof.Machine.execRemoteSwap p off v s
  | .remoteCompareSwap p off cmp v => Sys2Proof.Machine.execRemoteCompareSwap p off cmp v s
  | .remoteCounterAdd p off v => Sys2Proof.Machine.execRemoteCounterAdd p off v s
  | .installHostWindow slot entry => Sys2Proof.Machine.execInstallHostWindow slot entry s
  | .installPeerGroup grp rank regs => Sys2Proof.Machine.execInstallPeerGroup grp rank regs s
  | .readTelemetry => Sys2Proof.Machine.execReadTelemetry s
  | .hostmsg msg => Sys2Proof.Machine.execHostmsg msg s
  | .keyInstall slot pub sig => Sys2Proof.Machine.execKeyInstall slot pub sig s
  | .keyRemoval slot keyid sig => Sys2Proof.Machine.execKeyRemoval slot keyid sig s
  | .attestationRequest nonce => Sys2Proof.Machine.execAttestationRequest nonce s
  | .firmwareReplace stage image => Sys2Proof.Machine.execFirmwareReplace stage image s
  | .warmStartRequest => Sys2Proof.Machine.execWarmStartRequest s
  | .coldStart => Sys2Proof.Machine.execColdStart s
  | .clockChange die period => Sys2Proof.Machine.execClockChange die period s
  | .thermalClockStop die => Sys2Proof.Machine.execThermalClockStop die s
  | .thermalClockResume die => Sys2Proof.Machine.execThermalClockResume die s
  | .dieLinkLoss pos => Sys2Proof.Machine.execDieLinkLoss pos s
  | .worstExceeded reg => Sys2Proof.Machine.execWorstExceeded reg s
  | .balanceExhausted reg => Sys2Proof.Machine.execBalanceExhausted reg s
  | .peerUnreachable grp rank => Sys2Proof.Machine.execPeerUnreachable grp rank s
  | .transportKeyInstall cls key => Sys2Proof.Machine.execTransportKeyInstall cls key s
  | .wearLevelling src dst => Sys2Proof.Machine.execWearLevelling src dst s
  | .beq a b o => Sys2Proof.Machine.execBeq a b o s
  | .bne a b o => Sys2Proof.Machine.execBne a b o s
  | .blt a b o => Sys2Proof.Machine.execBlt a b o s
  | .bge a b o => Sys2Proof.Machine.execBge a b o s
  | .bltu a b o => Sys2Proof.Machine.execBltu a b o s
  | .bgeu a b o => Sys2Proof.Machine.execBgeu a b o s
  | .jal d o => Sys2Proof.Machine.execJal d o s
  | .jalr d a o => Sys2Proof.Machine.execJalr d a o s
  | .loop a o => Sys2Proof.Machine.execLoop a o s
  | .idle n => Sys2Proof.Machine.execIdle n s
  | .brk c => Sys2Proof.Machine.execBrk c s
  | .ecall c => Sys2Proof.Machine.execEcall c s
  | .ldB d a o => Sys2Proof.Machine.execLdB d a o s
  | .ldH d a o => Sys2Proof.Machine.execLdH d a o s
  | .ldW d a o => Sys2Proof.Machine.execLdW d a o s
  | .ldD d a o => Sys2Proof.Machine.execLdD d a o s
  | .ldBu d a o => Sys2Proof.Machine.execLdBu d a o s
  | .ldHu d a o => Sys2Proof.Machine.execLdHu d a o s
  | .ldWu d a o => Sys2Proof.Machine.execLdWu d a o s
  | .stB d a o => Sys2Proof.Machine.execStB d a o s
  | .stH d a o => Sys2Proof.Machine.execStH d a o s
  | .stW d a o => Sys2Proof.Machine.execStW d a o s
  | .stD d a o => Sys2Proof.Machine.execStD d a o s
  | .ldv d a o w => Sys2Proof.Machine.execLdv d a o w s
  | .stv d a o w => Sys2Proof.Machine.execStv d a o w s
  | .ldm d a b => Sys2Proof.Machine.execLdm d a b s
  | .stm d a b => Sys2Proof.Machine.execStm d a b s
  | .ldt d a b => Sys2Proof.Machine.execLdt d a b s
  | .stt d a b => Sys2Proof.Machine.execStt d a b s
  | .look d a => Sys2Proof.Machine.execLook d a s
  | .lset a b => Sys2Proof.Machine.execLset a b s
  | .ifence => Sys2Proof.Machine.execIfence s
  | .sbindG d a b => Sys2Proof.Machine.execSbindG d a b s
  | .sbindV d a b => Sys2Proof.Machine.execSbindV d a b s
  | .sfreeG d => Sys2Proof.Machine.execSfreeG d s
  | .sfreeV d => Sys2Proof.Machine.execSfreeV d s
  | .amoAdd k a b s_ => Sys2Proof.Machine.execAmoAdd k a b s_ s
  | .amoAnd k a b s_ => Sys2Proof.Machine.execAmoAnd k a b s_ s
  | .amoOr k a b s_ => Sys2Proof.Machine.execAmoOr k a b s_ s
  | .amoXor k a b s_ => Sys2Proof.Machine.execAmoXor k a b s_ s
  | .amoMin k a b s_ => Sys2Proof.Machine.execAmoMin k a b s_ s
  | .amoMax k a b s_ => Sys2Proof.Machine.execAmoMax k a b s_ s
  | .amoMinu k a b s_ => Sys2Proof.Machine.execAmoMinu k a b s_ s
  | .amoMaxu k a b s_ => Sys2Proof.Machine.execAmoMaxu k a b s_ s
  | .amoSwap k a b s_ => Sys2Proof.Machine.execAmoSwap k a b s_ s
  | .amoAddAcq k a b c s_ => Sys2Proof.Machine.execAmoAddAcq k a b c s_ s
  | .amoAndAcq k a b c s_ => Sys2Proof.Machine.execAmoAndAcq k a b c s_ s
  | .amoOrAcq k a b c s_ => Sys2Proof.Machine.execAmoOrAcq k a b c s_ s
  | .amoXorAcq k a b c s_ => Sys2Proof.Machine.execAmoXorAcq k a b c s_ s
  | .amoMinAcq k a b c s_ => Sys2Proof.Machine.execAmoMinAcq k a b c s_ s
  | .amoMaxAcq k a b c s_ => Sys2Proof.Machine.execAmoMaxAcq k a b c s_ s
  | .amoMinuAcq k a b c s_ => Sys2Proof.Machine.execAmoMinuAcq k a b c s_ s
  | .amoMaxuAcq k a b c s_ => Sys2Proof.Machine.execAmoMaxuAcq k a b c s_ s
  | .amoSwapAcq k a b c s_ => Sys2Proof.Machine.execAmoSwapAcq k a b c s_ s
  | .amoAddRel k a b c s_ => Sys2Proof.Machine.execAmoAddRel k a b c s_ s
  | .amoAndRel k a b c s_ => Sys2Proof.Machine.execAmoAndRel k a b c s_ s
  | .amoOrRel k a b c s_ => Sys2Proof.Machine.execAmoOrRel k a b c s_ s
  | .amoXorRel k a b c s_ => Sys2Proof.Machine.execAmoXorRel k a b c s_ s
  | .amoMinRel k a b c s_ => Sys2Proof.Machine.execAmoMinRel k a b c s_ s
  | .amoMaxRel k a b c s_ => Sys2Proof.Machine.execAmoMaxRel k a b c s_ s
  | .amoMinuRel k a b c s_ => Sys2Proof.Machine.execAmoMinuRel k a b c s_ s
  | .amoMaxuRel k a b c s_ => Sys2Proof.Machine.execAmoMaxuRel k a b c s_ s
  | .amoSwapRel k a b c s_ => Sys2Proof.Machine.execAmoSwapRel k a b c s_ s
  | .casW k a b c => Sys2Proof.Machine.execCasW k a b c s
  | .casD k a b c => Sys2Proof.Machine.execCasD k a b c s
  | .post a b c => Sys2Proof.Machine.execPost a b c s
  | .waitc a b c => Sys2Proof.Machine.execWaitc a b c s
  | .waitb k a c => Sys2Proof.Machine.execWaitb k a c s
  | .fence c => Sys2Proof.Machine.execFence c s
  | .suitBar a => Sys2Proof.Machine.execSuitBar a s
  | .suitDis => Sys2Proof.Machine.execSuitDis s
  | .vcvt d a w r t => Sys2Proof.Machine.execVcvt d a w r t s
  | .tmul d a b c m => Sys2Proof.Machine.execTmul d a b c m s
  | .tmuls d a b c m => Sys2Proof.Machine.execTmuls d a b c m s
  | .tmulx d a b c m => Sys2Proof.Machine.execTmulx d a b c m s
  | .tpart d a b c m => Sys2Proof.Machine.execTpart d a b c m s
  | .tzero d => Sys2Proof.Machine.execTzero d s
  | .tld d a => Sys2Proof.Machine.execTld d a s
  | .tst d a => Sys2Proof.Machine.execTst d a s
  | .tcode a s_ => Sys2Proof.Machine.execTcode a s_ s
  | .tfence => Sys2Proof.Machine.execTfence s
  | .trow d a b => Sys2Proof.Machine.execTrow d a b s
  | .lfork d a b => Sys2Proof.Machine.execLfork d a b s
  | .lforkr d a b => Sys2Proof.Machine.execLforkr d a b s
  | .lput d a b => Sys2Proof.Machine.execLput d a b s
  | .lseal a => Sys2Proof.Machine.execLseal a s
  | .ldrop a => Sys2Proof.Machine.execLdrop a s
  | .linfo d a => Sys2Proof.Machine.execLinfo d a s
  | .lflat k a => Sys2Proof.Machine.execLflat k a s
  | .lrebase k a b => Sys2Proof.Machine.execLrebase k a b s
  | .lprod k a => Sys2Proof.Machine.execLprod k a s
  | .cp k a b c => Sys2Proof.Machine.execCp k a b c s
  | .cpL k a b c => Sys2Proof.Machine.execCpL k a b c s
  | .cpS k a b c => Sys2Proof.Machine.execCpS k a b c s
  | .cpG k a b c => Sys2Proof.Machine.execCpG k a b c s
  | .cpR k a b c => Sys2Proof.Machine.execCpR k a b c s
  | .cpX k a b c => Sys2Proof.Machine.execCpX k a b c s
  | .cpM k a b c => Sys2Proof.Machine.execCpM k a b c s
  | .seal d => Sys2Proof.Machine.execSeal d s
  | .waitn a => Sys2Proof.Machine.execWaitn a s
  | .pub a => Sys2Proof.Machine.execPub a s
  | .armb a b => Sys2Proof.Machine.execArmb a b s
  | .nred k a b c => Sys2Proof.Machine.execNred k a b c s
  | .ntopk k a b c => Sys2Proof.Machine.execNtopk k a b c s
  | .ncount k a b c => Sys2Proof.Machine.execNcount k a b c s
  | .nbcast k a b c => Sys2Proof.Machine.execNbcast k a b c s
  | .rcreate d a => Sys2Proof.Machine.execRcreate d a s
  | .rlaunch d a => Sys2Proof.Machine.execRlaunch d a s
  | .rrevoke d a b => Sys2Proof.Machine.execRrevoke d a b s
  | .ryield => Sys2Proof.Machine.execRyield s
  | .rinval a => Sys2Proof.Machine.execRinval a s
  | .gbar => Sys2Proof.Machine.execGbar s
  | .tbegin a => Sys2Proof.Machine.execTbegin a s
  | .tend => Sys2Proof.Machine.execTend s
  | .eret => Sys2Proof.Machine.execEret s
  | .eretResume a => Sys2Proof.Machine.execEretResume a s
  | .halt => Sys2Proof.Machine.execHalt s
  | .crd d i_ => Sys2Proof.Machine.execCrd d i_ s
  | .cwr d i_ => Sys2Proof.Machine.execCwr d i_ s
  | .wswp d => Sys2Proof.Machine.execWswp d s
  | .add d a b => Sys2Proof.Machine.execAdd d a b s
  | .sub d a b => Sys2Proof.Machine.execSub d a b s
  | .and d a b => Sys2Proof.Machine.execAnd d a b s
  | .or d a b => Sys2Proof.Machine.execOr d a b s
  | .xor d a b => Sys2Proof.Machine.execXor d a b s
  | .andn d a b => Sys2Proof.Machine.execAndn d a b s
  | .sll d a b => Sys2Proof.Machine.execSll d a b s
  | .srl d a b => Sys2Proof.Machine.execSrl d a b s
  | .sra d a b => Sys2Proof.Machine.execSra d a b s
  | .rol d a b => Sys2Proof.Machine.execRol d a b s
  | .ror d a b => Sys2Proof.Machine.execRor d a b s
  | .slt d a b => Sys2Proof.Machine.execSlt d a b s
  | .sltu d a b => Sys2Proof.Machine.execSltu d a b s
  | .min d a b => Sys2Proof.Machine.execMin d a b s
  | .max d a b => Sys2Proof.Machine.execMax d a b s
  | .minu d a b => Sys2Proof.Machine.execMinu d a b s
  | .maxu d a b => Sys2Proof.Machine.execMaxu d a b s
  | .sel d a b => Sys2Proof.Machine.execSel d a b s
  | .mul d a b => Sys2Proof.Machine.execMul d a b s
  | .mulh d a b => Sys2Proof.Machine.execMulh d a b s
  | .mulhu d a b => Sys2Proof.Machine.execMulhu d a b s
  | .div d a b => Sys2Proof.Machine.execDiv d a b s
  | .divu d a b => Sys2Proof.Machine.execDivu d a b s
  | .rem d a b => Sys2Proof.Machine.execRem d a b s
  | .remu d a b => Sys2Proof.Machine.execRemu d a b s
  | .clmul d a b => Sys2Proof.Machine.execClmul d a b s
  | .clmulh d a b => Sys2Proof.Machine.execClmulh d a b s
  | .clz d a => Sys2Proof.Machine.execClz d a s
  | .ctz d a => Sys2Proof.Machine.execCtz d a s
  | .popc d a => Sys2Proof.Machine.execPopc d a s
  | .bswap d a => Sys2Proof.Machine.execBswap d a s
  | .bext d a b => Sys2Proof.Machine.execBext d a b s
  | .bins d a b => Sys2Proof.Machine.execBins d a b s
  | .fshl d a b => Sys2Proof.Machine.execFshl d a b s
  | .fshr d a b => Sys2Proof.Machine.execFshr d a b s
  | .addi d a i_ => Sys2Proof.Machine.execAddi d a i_ s
  | .andi d a i_ => Sys2Proof.Machine.execAndi d a i_ s
  | .ori d a i_ => Sys2Proof.Machine.execOri d a i_ s
  | .xori d a i_ => Sys2Proof.Machine.execXori d a i_ s
  | .slli d a i_ => Sys2Proof.Machine.execSlli d a i_ s
  | .srli d a i_ => Sys2Proof.Machine.execSrli d a i_ s
  | .srai d a i_ => Sys2Proof.Machine.execSrai d a i_ s
  | .slti d a i_ => Sys2Proof.Machine.execSlti d a i_ s
  | .lih d a i_ => Sys2Proof.Machine.execLih d a i_ s
  | .faddD d a b => Sys2Proof.Machine.execFaddD d a b s
  | .fsubD d a b => Sys2Proof.Machine.execFsubD d a b s
  | .fmulD d a b => Sys2Proof.Machine.execFmulD d a b s
  | .ffmaD d a b => Sys2Proof.Machine.execFfmaD d a b s
  | .fdivD d a b => Sys2Proof.Machine.execFdivD d a b s
  | .fsqrtD d a => Sys2Proof.Machine.execFsqrtD d a s
  | .fminD d a b => Sys2Proof.Machine.execFminD d a b s
  | .fmaxD d a b => Sys2Proof.Machine.execFmaxD d a b s
  | .fcmpEqD d a b => Sys2Proof.Machine.execFcmpEqD d a b s
  | .fcmpLtD d a b => Sys2Proof.Machine.execFcmpLtD d a b s
  | .fcmpLeD d a b => Sys2Proof.Machine.execFcmpLeD d a b s
  | .fcmpUnD d a b => Sys2Proof.Machine.execFcmpUnD d a b s
  | .fmvNegD d a => Sys2Proof.Machine.execFmvNegD d a s
  | .fmvAbsD d a => Sys2Proof.Machine.execFmvAbsD d a s
  | .fmvCpsD d a b => Sys2Proof.Machine.execFmvCpsD d a b s
  | .faddS d a b => Sys2Proof.Machine.execFaddS d a b s
  | .fsubS d a b => Sys2Proof.Machine.execFsubS d a b s
  | .fmulS d a b => Sys2Proof.Machine.execFmulS d a b s
  | .ffmaS d a b => Sys2Proof.Machine.execFfmaS d a b s
  | .fdivS d a b => Sys2Proof.Machine.execFdivS d a b s
  | .fsqrtS d a => Sys2Proof.Machine.execFsqrtS d a s
  | .fminS d a b => Sys2Proof.Machine.execFminS d a b s
  | .fmaxS d a b => Sys2Proof.Machine.execFmaxS d a b s
  | .fcmpEqS d a b => Sys2Proof.Machine.execFcmpEqS d a b s
  | .fcmpLtS d a b => Sys2Proof.Machine.execFcmpLtS d a b s
  | .fcmpLeS d a b => Sys2Proof.Machine.execFcmpLeS d a b s
  | .fcmpUnS d a b => Sys2Proof.Machine.execFcmpUnS d a b s
  | .fmvNegS d a => Sys2Proof.Machine.execFmvNegS d a s
  | .fmvAbsS d a => Sys2Proof.Machine.execFmvAbsS d a s
  | .fmvCpsS d a b => Sys2Proof.Machine.execFmvCpsS d a b s
  | .fcvtDS d a r => Sys2Proof.Machine.execFcvtDS d a r s
  | .fcvtSD d a r => Sys2Proof.Machine.execFcvtSD d a r s
  | .fcvtDL d a r => Sys2Proof.Machine.execFcvtDL d a r s
  | .fcvtDLu d a r => Sys2Proof.Machine.execFcvtDLu d a r s
  | .fcvtSL d a r => Sys2Proof.Machine.execFcvtSL d a r s
  | .fcvtSLu d a r => Sys2Proof.Machine.execFcvtSLu d a r s
  | .fcvtLD d a r => Sys2Proof.Machine.execFcvtLD d a r s
  | .fcvtLuD d a r => Sys2Proof.Machine.execFcvtLuD d a r s
  | .fcvtLS d a r => Sys2Proof.Machine.execFcvtLS d a r s
  | .fcvtLuS d a r => Sys2Proof.Machine.execFcvtLuS d a r s
  | .vadd d a b t => Sys2Proof.Machine.execVadd d a b t s
  | .vsub d a b t => Sys2Proof.Machine.execVsub d a b t s
  | .vmul d a b t => Sys2Proof.Machine.execVmul d a b t s
  | .vfma d a b t => Sys2Proof.Machine.execVfma d a b t s
  | .vfms d a b t => Sys2Proof.Machine.execVfms d a b t s
  | .vmin d a b t => Sys2Proof.Machine.execVmin d a b t s
  | .vmax d a b t => Sys2Proof.Machine.execVmax d a b t s
  | .vabs d a t => Sys2Proof.Machine.execVabs d a t s
  | .vneg d a t => Sys2Proof.Machine.execVneg d a t s
  | .vrelu d a t => Sys2Proof.Machine.execVrelu d a t s
  | .vavg d a b t => Sys2Proof.Machine.execVavg d a b t s
  | .vmacc d a b w t => Sys2Proof.Machine.execVmacc d a b w t s
  | .vand d a b t => Sys2Proof.Machine.execVand d a b t s
  | .vor d a b t => Sys2Proof.Machine.execVor d a b t s
  | .vxor d a b t => Sys2Proof.Machine.execVxor d a b t s
  | .vandn d a b t => Sys2Proof.Machine.execVandn d a b t s
  | .vshl d a b t => Sys2Proof.Machine.execVshl d a b t s
  | .vshr d a b t => Sys2Proof.Machine.execVshr d a b t s
  | .vsra d a b t => Sys2Proof.Machine.execVsra d a b t s
  | .vpopc d a t => Sys2Proof.Machine.execVpopc d a t s
  | .vclz d a t => Sys2Proof.Machine.execVclz d a t s
  | .vclmul d a b w t => Sys2Proof.Machine.execVclmul d a b w t s
  | .vbext d a b t => Sys2Proof.Machine.execVbext d a b t s
  | .vfshl d a b t => Sys2Proof.Machine.execVfshl d a b t s
  | .vcmpEq d a b t => Sys2Proof.Machine.execVcmpEq d a b t s
  | .vcmpNe d a b t => Sys2Proof.Machine.execVcmpNe d a b t s
  | .vcmpLt d a b t => Sys2Proof.Machine.execVcmpLt d a b t s
  | .vcmpLe d a b t => Sys2Proof.Machine.execVcmpLe d a b t s
  | .vcmpGt d a b t => Sys2Proof.Machine.execVcmpGt d a b t s
  | .vcmpGe d a b t => Sys2Proof.Machine.execVcmpGe d a b t s
  | .vcmpUn d a b t => Sys2Proof.Machine.execVcmpUn d a b t s
  | .vsel d a b t => Sys2Proof.Machine.execVsel d a b t s
  | .vmov d a t => Sys2Proof.Machine.execVmov d a t s
  | .vbcast d a t => Sys2Proof.Machine.execVbcast d a t s
  | .vins d a b t => Sys2Proof.Machine.execVins d a b t s
  | .vext d a b t => Sys2Proof.Machine.execVext d a b t s
  | .vredsum d a t => Sys2Proof.Machine.execVredsum d a t s
  | .vredmax d a t => Sys2Proof.Machine.execVredmax d a t s
  | .vredmin d a t => Sys2Proof.Machine.execVredmin d a t s
  | .vscan d a t => Sys2Proof.Machine.execVscan d a t s
  | .vperm d a b t => Sys2Proof.Machine.execVperm d a b t s
  | .vcompress d a b t => Sys2Proof.Machine.execVcompress d a b t s
  | .vexpand d a b t => Sys2Proof.Machine.execVexpand d a b t s
  | .vgather d a b t => Sys2Proof.Machine.execVgather d a b t s
  | .vscatter d a b t => Sys2Proof.Machine.execVscatter d a b t s
  | .vlut16 d a b t => Sys2Proof.Machine.execVlut16 d a b t s
  | .vlut256 d a b w t => Sys2Proof.Machine.execVlut256 d a b w t s
  | .vexp2 d a t => Sys2Proof.Machine.execVexp2 d a t s
  | .vlog2 d a t => Sys2Proof.Machine.execVlog2 d a t s
  | .vrcp d a t => Sys2Proof.Machine.execVrcp d a t s
  | .vrsqrt d a t => Sys2Proof.Machine.execVrsqrt d a t s
  | .vsortkv d a b t => Sys2Proof.Machine.execVsortkv d a b t s
  | .mand d a b => Sys2Proof.Machine.execMand d a b s
  | .mor d a b => Sys2Proof.Machine.execMor d a b s
  | .mxor d a b => Sys2Proof.Machine.execMxor d a b s
  | .mnot d a => Sys2Proof.Machine.execMnot d a s
  | .mpop d a b => Sys2Proof.Machine.execMpop d a b s
  | .mfirst d a b => Sys2Proof.Machine.execMfirst d a b s
  | .vmovC d a => Sys2Proof.Machine.execVmovC d a s
  | .vaddC d a => Sys2Proof.Machine.execVaddC d a s
  | .vsubC d a => Sys2Proof.Machine.execVsubC d a s
  | .vmulC d a => Sys2Proof.Machine.execVmulC d a s
  | .vminC d a => Sys2Proof.Machine.execVminC d a s
  | .vmaxC d a => Sys2Proof.Machine.execVmaxC d a s
  | .vandC d a => Sys2Proof.Machine.execVandC d a s
  | .vorC d a => Sys2Proof.Machine.execVorC d a s
  | .vxorC d a => Sys2Proof.Machine.execVxorC d a s
  | .vshlC d a => Sys2Proof.Machine.execVshlC d a s
  | .vshrC d a => Sys2Proof.Machine.execVshrC d a s
  | .vnegC d a => Sys2Proof.Machine.execVnegC d a s
  | .vabsC d a => Sys2Proof.Machine.execVabsC d a s
  | .vreluC d a => Sys2Proof.Machine.execVreluC d a s
  | .vavgC d a => Sys2Proof.Machine.execVavgC d a s
  | .vmaccC d a => Sys2Proof.Machine.execVmaccC d a s
  | .movC d a => Sys2Proof.Machine.execMovC d a s
  | .addC d a => Sys2Proof.Machine.execAddC d a s
  | .subC d a => Sys2Proof.Machine.execSubC d a s
  | .andC d a => Sys2Proof.Machine.execAndC d a s
  | .orC d a => Sys2Proof.Machine.execOrC d a s
  | .xorC d a => Sys2Proof.Machine.execXorC d a s
  | .andnC d a => Sys2Proof.Machine.execAndnC d a s
  | .sllC d a => Sys2Proof.Machine.execSllC d a s
  | .srlC d a => Sys2Proof.Machine.execSrlC d a s
  | .sraC d a => Sys2Proof.Machine.execSraC d a s
  | .minC d a => Sys2Proof.Machine.execMinC d a s
  | .maxC d a => Sys2Proof.Machine.execMaxC d a s
  | .addiC d i_ => Sys2Proof.Machine.execAddiC d i_ s
  | .slliC d i_ => Sys2Proof.Machine.execSlliC d i_ s
  | .srliC d i_ => Sys2Proof.Machine.execSrliC d i_ s
  | .sraiC d i_ => Sys2Proof.Machine.execSraiC d i_ s
  | .idleC d a => Sys2Proof.Machine.execIdleC d a s
  | .brkC d a => Sys2Proof.Machine.execBrkC d a s
  | .bzC d a o => Sys2Proof.Machine.execBzC d a o s
  | .bnzC d a o => Sys2Proof.Machine.execBnzC d a o s

end Sys2Proof.Machine
end

