-- ==== Sys2Proof/Machine/RunWord.lean ====
section
/-! DEFINITION. Running a word: the decoder and `exec` in one. `decodeExec` is defined by them; as Lean's code generator cannot
build the later constructors of `Instr`, it compiles `decodeExecCode`, proved equal, in its place. -/

namespace Sys2Proof.Machine

/-- What an instruction word does: none where it is an illegal encoding. -/
noncomputable def decodeExec (w : Nat) (s : State) : Option Out := (decodeWord w).map (fun i => exec i s)

theorem filter_map_some (p : Instr → Bool) (f : Instr → Out) (i : Instr) :
    ((some i).filter p).map f = bif p i then some (f i) else none := by
  simp only [Option.filter]
  cases p i <;> rfl

theorem pass_if (c : Bool) (p : Instr → Bool) (f : Instr → Out) (i : Instr) :
    ((if c then some i else none).filter p).map f = if c then ((some i).filter p).map f else none := by
  cases c <;> rfl

/-- MAJ 0x10 (R62), run at once. -/
def runMaj10 (w : Nat) (s : State) : Option Out :=
  match fld w 24 8 with
  | 0 => if fld w 22 2 == 0 then some (execFaddD (fieldOf w 7 5) (fieldOf w 12 5) (fieldOf w 17 5) s) else none
  | 1 => if fld w 22 2 == 0 then some (execFsubD (fieldOf w 7 5) (fieldOf w 12 5) (fieldOf w 17 5) s) else none
  | 2 => if fld w 22 2 == 0 then some (execFmulD (fieldOf w 7 5) (fieldOf w 12 5) (fieldOf w 17 5) s) else none
  | 3 => if fld w 22 2 == 0 then some (execFfmaD (fieldOf w 7 5) (fieldOf w 12 5) (fieldOf w 17 5) s) else none
  | 4 => if fld w 22 2 == 0 then some (execFdivD (fieldOf w 7 5) (fieldOf w 12 5) (fieldOf w 17 5) s) else none
  | 5 => if fld w 17 7 == 0 then some (execFsqrtD (fieldOf w 7 5) (fieldOf w 12 5) s) else none
  | 6 => if fld w 22 2 == 0 then some (execFminD (fieldOf w 7 5) (fieldOf w 12 5) (fieldOf w 17 5) s) else none
  | 7 => if fld w 22 2 == 0 then some (execFmaxD (fieldOf w 7 5) (fieldOf w 12 5) (fieldOf w 17 5) s) else none
  | 8 => if fld w 22 2 == 0 then some (execFcmpEqD (fieldOf w 7 5) (fieldOf w 12 5) (fieldOf w 17 5) s) else none
  | 9 => if fld w 22 2 == 0 then some (execFcmpLtD (fieldOf w 7 5) (fieldOf w 12 5) (fieldOf w 17 5) s) else none
  | 10 => if fld w 22 2 == 0 then some (execFcmpLeD (fieldOf w 7 5) (fieldOf w 12 5) (fieldOf w 17 5) s) else none
  | 11 => if fld w 22 2 == 0 then some (execFcmpUnD (fieldOf w 7 5) (fieldOf w 12 5) (fieldOf w 17 5) s) else none
  | 12 => if fld w 17 7 == 0 then some (execFmvNegD (fieldOf w 7 5) (fieldOf w 12 5) s) else none
  | 13 => if fld w 17 7 == 0 then some (execFmvAbsD (fieldOf w 7 5) (fieldOf w 12 5) s) else none
  | 14 => if fld w 22 2 == 0 then some (execFmvCpsD (fieldOf w 7 5) (fieldOf w 12 5) (fieldOf w 17 5) s) else none
  | _ => none

theorem runMaj10_eq (w : Nat) (s : State) : ((decodeMaj10 w).filter Instr.wf).map (fun i => exec i s) = runMaj10 w s := by
  unfold decodeMaj10 runMaj10
  generalize fld w 24 8 = k
  split <;> first
    | rfl
    | (simp only [pass_if, filter_map_some]; rfl)

/-- MAJ 0x11 (R62), run at once. -/
def runMaj11 (w : Nat) (s : State) : Option Out :=
  match fld w 24 8 with
  | 0 => if fld w 22 2 == 0 then some (execFaddS (fieldOf w 7 5) (fieldOf w 12 5) (fieldOf w 17 5) s) else none
  | 1 => if fld w 22 2 == 0 then some (execFsubS (fieldOf w 7 5) (fieldOf w 12 5) (fieldOf w 17 5) s) else none
  | 2 => if fld w 22 2 == 0 then some (execFmulS (fieldOf w 7 5) (fieldOf w 12 5) (fieldOf w 17 5) s) else none
  | 3 => if fld w 22 2 == 0 then some (execFfmaS (fieldOf w 7 5) (fieldOf w 12 5) (fieldOf w 17 5) s) else none
  | 4 => if fld w 22 2 == 0 then some (execFdivS (fieldOf w 7 5) (fieldOf w 12 5) (fieldOf w 17 5) s) else none
  | 5 => if fld w 17 7 == 0 then some (execFsqrtS (fieldOf w 7 5) (fieldOf w 12 5) s) else none
  | 6 => if fld w 22 2 == 0 then some (execFminS (fieldOf w 7 5) (fieldOf w 12 5) (fieldOf w 17 5) s) else none
  | 7 => if fld w 22 2 == 0 then some (execFmaxS (fieldOf w 7 5) (fieldOf w 12 5) (fieldOf w 17 5) s) else none
  | 8 => if fld w 22 2 == 0 then some (execFcmpEqS (fieldOf w 7 5) (fieldOf w 12 5) (fieldOf w 17 5) s) else none
  | 9 => if fld w 22 2 == 0 then some (execFcmpLtS (fieldOf w 7 5) (fieldOf w 12 5) (fieldOf w 17 5) s) else none
  | 10 => if fld w 22 2 == 0 then some (execFcmpLeS (fieldOf w 7 5) (fieldOf w 12 5) (fieldOf w 17 5) s) else none
  | 11 => if fld w 22 2 == 0 then some (execFcmpUnS (fieldOf w 7 5) (fieldOf w 12 5) (fieldOf w 17 5) s) else none
  | 12 => if fld w 17 7 == 0 then some (execFmvNegS (fieldOf w 7 5) (fieldOf w 12 5) s) else none
  | 13 => if fld w 17 7 == 0 then some (execFmvAbsS (fieldOf w 7 5) (fieldOf w 12 5) s) else none
  | 14 => if fld w 22 2 == 0 then some (execFmvCpsS (fieldOf w 7 5) (fieldOf w 12 5) (fieldOf w 17 5) s) else none
  | _ => none

theorem runMaj11_eq (w : Nat) (s : State) : ((decodeMaj11 w).filter Instr.wf).map (fun i => exec i s) = runMaj11 w s := by
  unfold decodeMaj11 runMaj11
  generalize fld w 24 8 = k
  split <;> first
    | rfl
    | (simp only [pass_if, filter_map_some]; rfl)

/-- MAJ 0x12 (R62), run at once. -/
def runMaj12 (w : Nat) (s : State) : Option Out :=
  match fld w 28 4 with
  | 0 => if fld w 17 7 == 0 then (bif (fieldOf w 24 4).toNat ≤ 4 then some (execFcvtDS (fieldOf w 7 5) (fieldOf w 12 5) (fieldOf w 24 4) s) else none) else none
  | 1 => if fld w 17 7 == 0 then (bif (fieldOf w 24 4).toNat ≤ 4 then some (execFcvtSD (fieldOf w 7 5) (fieldOf w 12 5) (fieldOf w 24 4) s) else none) else none
  | 2 => if fld w 17 7 == 0 then (bif (fieldOf w 24 4).toNat ≤ 4 then some (execFcvtDL (fieldOf w 7 5) (fieldOf w 12 5) (fieldOf w 24 4) s) else none) else none
  | 3 => if fld w 17 7 == 0 then (bif (fieldOf w 24 4).toNat ≤ 4 then some (execFcvtDLu (fieldOf w 7 5) (fieldOf w 12 5) (fieldOf w 24 4) s) else none) else none
  | 4 => if fld w 17 7 == 0 then (bif (fieldOf w 24 4).toNat ≤ 4 then some (execFcvtSL (fieldOf w 7 5) (fieldOf w 12 5) (fieldOf w 24 4) s) else none) else none
  | 5 => if fld w 17 7 == 0 then (bif (fieldOf w 24 4).toNat ≤ 4 then some (execFcvtSLu (fieldOf w 7 5) (fieldOf w 12 5) (fieldOf w 24 4) s) else none) else none
  | 6 => if fld w 17 7 == 0 then (bif (fieldOf w 24 4).toNat ≤ 4 then some (execFcvtLD (fieldOf w 7 5) (fieldOf w 12 5) (fieldOf w 24 4) s) else none) else none
  | 7 => if fld w 17 7 == 0 then (bif (fieldOf w 24 4).toNat ≤ 4 then some (execFcvtLuD (fieldOf w 7 5) (fieldOf w 12 5) (fieldOf w 24 4) s) else none) else none
  | 8 => if fld w 17 7 == 0 then (bif (fieldOf w 24 4).toNat ≤ 4 then some (execFcvtLS (fieldOf w 7 5) (fieldOf w 12 5) (fieldOf w 24 4) s) else none) else none
  | 9 => if fld w 17 7 == 0 then (bif (fieldOf w 24 4).toNat ≤ 4 then some (execFcvtLuS (fieldOf w 7 5) (fieldOf w 12 5) (fieldOf w 24 4) s) else none) else none
  | _ => none

theorem runMaj12_eq (w : Nat) (s : State) : ((decodeMaj12 w).filter Instr.wf).map (fun i => exec i s) = runMaj12 w s := by
  unfold decodeMaj12 runMaj12
  generalize fld w 28 4 = k
  split <;> first
    | rfl
    | (simp only [pass_if, filter_map_some]; rfl)

/-- MAJ 0x28 (R62), run at once. -/
def runMaj28 (w : Nat) (s : State) : Option Out :=
  match fld w 28 4 with
  | 0 => if fld w 11 1 == 0 && fld w 16 1 == 0 && fld w 21 3 == 0 then (bif typeIn (fieldOf w 24 4) isNum then some (execVadd (fieldOf w 7 4) (fieldOf w 12 4) (fieldOf w 17 4) (fieldOf w 24 4) s) else none) else none
  | 1 => if fld w 11 1 == 0 && fld w 16 1 == 0 && fld w 21 3 == 0 then (bif typeIn (fieldOf w 24 4) isNum then some (execVsub (fieldOf w 7 4) (fieldOf w 12 4) (fieldOf w 17 4) (fieldOf w 24 4) s) else none) else none
  | 2 => if fld w 11 1 == 0 && fld w 16 1 == 0 && fld w 21 3 == 0 then (bif typeIn (fieldOf w 24 4) isNum then some (execVmul (fieldOf w 7 4) (fieldOf w 12 4) (fieldOf w 17 4) (fieldOf w 24 4) s) else none) else none
  | 3 => if fld w 11 1 == 0 && fld w 16 1 == 0 && fld w 21 3 == 0 then (bif typeIn (fieldOf w 24 4) isNum then some (execVfma (fieldOf w 7 4) (fieldOf w 12 4) (fieldOf w 17 4) (fieldOf w 24 4) s) else none) else none
  | 4 => if fld w 11 1 == 0 && fld w 16 1 == 0 && fld w 21 3 == 0 then (bif typeIn (fieldOf w 24 4) isNum then some (execVfms (fieldOf w 7 4) (fieldOf w 12 4) (fieldOf w 17 4) (fieldOf w 24 4) s) else none) else none
  | 5 => if fld w 11 1 == 0 && fld w 16 1 == 0 && fld w 21 3 == 0 then (bif typeIn (fieldOf w 24 4) isNum then some (execVmin (fieldOf w 7 4) (fieldOf w 12 4) (fieldOf w 17 4) (fieldOf w 24 4) s) else none) else none
  | 6 => if fld w 11 1 == 0 && fld w 16 1 == 0 && fld w 21 3 == 0 then (bif typeIn (fieldOf w 24 4) isNum then some (execVmax (fieldOf w 7 4) (fieldOf w 12 4) (fieldOf w 17 4) (fieldOf w 24 4) s) else none) else none
  | 7 => if fld w 11 1 == 0 && fld w 16 8 == 0 then (bif typeIn (fieldOf w 24 4) isSignedNum then some (execVabs (fieldOf w 7 4) (fieldOf w 12 4) (fieldOf w 24 4) s) else none) else none
  | 8 => if fld w 11 1 == 0 && fld w 16 8 == 0 then (bif typeIn (fieldOf w 24 4) isSignedNum then some (execVneg (fieldOf w 7 4) (fieldOf w 12 4) (fieldOf w 24 4) s) else none) else none
  | 9 => if fld w 11 1 == 0 && fld w 16 8 == 0 then (bif typeIn (fieldOf w 24 4) isSignedNum then some (execVrelu (fieldOf w 7 4) (fieldOf w 12 4) (fieldOf w 24 4) s) else none) else none
  | 10 => if fld w 11 1 == 0 && fld w 16 1 == 0 && fld w 21 3 == 0 then (bif typeIn (fieldOf w 24 4) isInt then some (execVavg (fieldOf w 7 4) (fieldOf w 12 4) (fieldOf w 17 4) (fieldOf w 24 4) s) else none) else none
  | 11 => if fld w 11 1 == 0 && fld w 16 1 == 0 && fld w 21 1 == 0 then (bif vmaccWf (fieldOf w 24 4) (fieldOf w 22 2) && groupOk (fieldOf w 22 2) (fieldOf w 7 4) then some (execVmacc (fieldOf w 7 4) (fieldOf w 12 4) (fieldOf w 17 4) (fieldOf w 22 2) (fieldOf w 24 4) s) else none) else none
  | _ => none

theorem runMaj28_eq (w : Nat) (s : State) : ((decodeMaj28 w).filter Instr.wf).map (fun i => exec i s) = runMaj28 w s := by
  unfold decodeMaj28 runMaj28
  generalize fld w 28 4 = k
  split <;> first
    | rfl
    | (simp only [pass_if, filter_map_some]; rfl)

/-- MAJ 0x29 (R62), run at once. -/
def runMaj29 (w : Nat) (s : State) : Option Out :=
  match fld w 28 4 with
  | 0 => if fld w 11 1 == 0 && fld w 16 1 == 0 && fld w 21 3 == 0 then (bif typeIn (fieldOf w 24 4) isIntBits then some (execVand (fieldOf w 7 4) (fieldOf w 12 4) (fieldOf w 17 4) (fieldOf w 24 4) s) else none) else none
  | 1 => if fld w 11 1 == 0 && fld w 16 1 == 0 && fld w 21 3 == 0 then (bif typeIn (fieldOf w 24 4) isIntBits then some (execVor (fieldOf w 7 4) (fieldOf w 12 4) (fieldOf w 17 4) (fieldOf w 24 4) s) else none) else none
  | 2 => if fld w 11 1 == 0 && fld w 16 1 == 0 && fld w 21 3 == 0 then (bif typeIn (fieldOf w 24 4) isIntBits then some (execVxor (fieldOf w 7 4) (fieldOf w 12 4) (fieldOf w 17 4) (fieldOf w 24 4) s) else none) else none
  | 3 => if fld w 11 1 == 0 && fld w 16 1 == 0 && fld w 21 3 == 0 then (bif typeIn (fieldOf w 24 4) isIntBits then some (execVandn (fieldOf w 7 4) (fieldOf w 12 4) (fieldOf w 17 4) (fieldOf w 24 4) s) else none) else none
  | 4 => if fld w 11 1 == 0 && fld w 16 1 == 0 && fld w 21 3 == 0 then (bif typeIn (fieldOf w 24 4) isInt then some (execVshl (fieldOf w 7 4) (fieldOf w 12 4) (fieldOf w 17 4) (fieldOf w 24 4) s) else none) else none
  | 5 => if fld w 11 1 == 0 && fld w 16 1 == 0 && fld w 21 3 == 0 then (bif typeIn (fieldOf w 24 4) isInt then some (execVshr (fieldOf w 7 4) (fieldOf w 12 4) (fieldOf w 17 4) (fieldOf w 24 4) s) else none) else none
  | 6 => if fld w 11 1 == 0 && fld w 16 1 == 0 && fld w 21 3 == 0 then (bif typeIn (fieldOf w 24 4) isInt then some (execVsra (fieldOf w 7 4) (fieldOf w 12 4) (fieldOf w 17 4) (fieldOf w 24 4) s) else none) else none
  | 7 => if fld w 11 1 == 0 && fld w 16 8 == 0 then (bif typeIn (fieldOf w 24 4) isInt then some (execVpopc (fieldOf w 7 4) (fieldOf w 12 4) (fieldOf w 24 4) s) else none) else none
  | 8 => if fld w 11 1 == 0 && fld w 16 8 == 0 then (bif typeIn (fieldOf w 24 4) isInt then some (execVclz (fieldOf w 7 4) (fieldOf w 12 4) (fieldOf w 24 4) s) else none) else none
  | 9 => if fld w 11 1 == 0 && fld w 16 1 == 0 && fld w 21 1 == 0 && fld w 23 1 == 0 then (bif typeIn (fieldOf w 24 4) isUnsigned && groupOk (fieldOf w 22 1) (fieldOf w 7 4) then some (execVclmul (fieldOf w 7 4) (fieldOf w 12 4) (fieldOf w 17 4) (fieldOf w 22 1) (fieldOf w 24 4) s) else none) else none
  | 10 => if fld w 11 1 == 0 && fld w 16 1 == 0 && fld w 21 3 == 0 then (bif typeIn (fieldOf w 24 4) isInt then some (execVbext (fieldOf w 7 4) (fieldOf w 12 4) (fieldOf w 17 4) (fieldOf w 24 4) s) else none) else none
  | 11 => if fld w 11 1 == 0 && fld w 16 1 == 0 && fld w 21 3 == 0 then (bif typeIn (fieldOf w 24 4) isInt then some (execVfshl (fieldOf w 7 4) (fieldOf w 12 4) (fieldOf w 17 4) (fieldOf w 24 4) s) else none) else none
  | _ => none

theorem runMaj29_eq (w : Nat) (s : State) : ((decodeMaj29 w).filter Instr.wf).map (fun i => exec i s) = runMaj29 w s := by
  unfold decodeMaj29 runMaj29
  generalize fld w 28 4 = k
  split <;> first
    | rfl
    | (simp only [pass_if, filter_map_some]; rfl)

/-- MAJ 0x2A (R62), run at once. -/
def runMaj2A (w : Nat) (s : State) : Option Out :=
  match fld w 28 4 with
  | 0 => if fld w 10 2 == 0 && fld w 16 1 == 0 && fld w 21 3 == 0 then (bif typeIn (fieldOf w 24 4) isNum then some (execVcmpEq (fieldOf w 7 3) (fieldOf w 12 4) (fieldOf w 17 4) (fieldOf w 24 4) s) else none) else none
  | 1 => if fld w 10 2 == 0 && fld w 16 1 == 0 && fld w 21 3 == 0 then (bif typeIn (fieldOf w 24 4) isNum then some (execVcmpNe (fieldOf w 7 3) (fieldOf w 12 4) (fieldOf w 17 4) (fieldOf w 24 4) s) else none) else none
  | 2 => if fld w 10 2 == 0 && fld w 16 1 == 0 && fld w 21 3 == 0 then (bif typeIn (fieldOf w 24 4) isNum then some (execVcmpLt (fieldOf w 7 3) (fieldOf w 12 4) (fieldOf w 17 4) (fieldOf w 24 4) s) else none) else none
  | 3 => if fld w 10 2 == 0 && fld w 16 1 == 0 && fld w 21 3 == 0 then (bif typeIn (fieldOf w 24 4) isNum then some (execVcmpLe (fieldOf w 7 3) (fieldOf w 12 4) (fieldOf w 17 4) (fieldOf w 24 4) s) else none) else none
  | 4 => if fld w 10 2 == 0 && fld w 16 1 == 0 && fld w 21 3 == 0 then (bif typeIn (fieldOf w 24 4) isNum then some (execVcmpGt (fieldOf w 7 3) (fieldOf w 12 4) (fieldOf w 17 4) (fieldOf w 24 4) s) else none) else none
  | 5 => if fld w 10 2 == 0 && fld w 16 1 == 0 && fld w 21 3 == 0 then (bif typeIn (fieldOf w 24 4) isNum then some (execVcmpGe (fieldOf w 7 3) (fieldOf w 12 4) (fieldOf w 17 4) (fieldOf w 24 4) s) else none) else none
  | 6 => if fld w 10 2 == 0 && fld w 16 1 == 0 && fld w 21 3 == 0 then (bif typeIn (fieldOf w 24 4) isNum then some (execVcmpUn (fieldOf w 7 3) (fieldOf w 12 4) (fieldOf w 17 4) (fieldOf w 24 4) s) else none) else none
  | _ => none

theorem runMaj2A_eq (w : Nat) (s : State) : ((decodeMaj2A w).filter Instr.wf).map (fun i => exec i s) = runMaj2A w s := by
  unfold decodeMaj2A runMaj2A
  generalize fld w 28 4 = k
  split <;> first
    | rfl
    | (simp only [pass_if, filter_map_some]; rfl)

/-- MAJ 0x2B (R62), run at once. -/
def runMaj2B (w : Nat) (s : State) : Option Out :=
  match fld w 28 4 with
  | 0 => if fld w 11 1 == 0 && fld w 16 1 == 0 && fld w 20 4 == 0 then (bif typeIn (fieldOf w 24 4) isData then some (execVsel (fieldOf w 7 4) (fieldOf w 12 4) (fieldOf w 17 3) (fieldOf w 24 4) s) else none) else none
  | 1 => if fld w 11 1 == 0 && fld w 16 8 == 0 then (bif typeIn (fieldOf w 24 4) isData then some (execVmov (fieldOf w 7 4) (fieldOf w 12 4) (fieldOf w 24 4) s) else none) else none
  | 2 => if fld w 11 1 == 0 && fld w 17 7 == 0 then (bif isData (fieldOf w 24 4) then some (execVbcast (fieldOf w 7 4) (fieldOf w 12 5) (fieldOf w 24 4) s) else none) else none
  | 3 => if fld w 11 1 == 0 && fld w 22 2 == 0 then (bif typeIn (fieldOf w 24 4) isData then some (execVins (fieldOf w 7 4) (fieldOf w 12 5) (fieldOf w 17 5) (fieldOf w 24 4) s) else none) else none
  | 4 => if fld w 16 1 == 0 && fld w 22 2 == 0 then (bif typeIn (fieldOf w 24 4) isData then some (execVext (fieldOf w 7 5) (fieldOf w 12 4) (fieldOf w 17 5) (fieldOf w 24 4) s) else none) else none
  | _ => none

theorem runMaj2B_eq (w : Nat) (s : State) : ((decodeMaj2B w).filter Instr.wf).map (fun i => exec i s) = runMaj2B w s := by
  unfold decodeMaj2B runMaj2B
  generalize fld w 28 4 = k
  split <;> first
    | rfl
    | (simp only [pass_if, filter_map_some]; rfl)

/-- MAJ 0x2D (R62), run at once. -/
def runMaj2D (w : Nat) (s : State) : Option Out :=
  match fld w 28 4 with
  | 0 => if fld w 16 8 == 0 then (bif typeIn (fieldOf w 24 4) isNum then some (execVredsum (fieldOf w 7 5) (fieldOf w 12 4) (fieldOf w 24 4) s) else none) else none
  | 1 => if fld w 16 8 == 0 then (bif typeIn (fieldOf w 24 4) isNum then some (execVredmax (fieldOf w 7 5) (fieldOf w 12 4) (fieldOf w 24 4) s) else none) else none
  | 2 => if fld w 16 8 == 0 then (bif typeIn (fieldOf w 24 4) isNum then some (execVredmin (fieldOf w 7 5) (fieldOf w 12 4) (fieldOf w 24 4) s) else none) else none
  | 3 => if fld w 11 1 == 0 && fld w 16 8 == 0 then (bif typeIn (fieldOf w 24 4) isNum then some (execVscan (fieldOf w 7 4) (fieldOf w 12 4) (fieldOf w 24 4) s) else none) else none
  | _ => none

theorem runMaj2D_eq (w : Nat) (s : State) : ((decodeMaj2D w).filter Instr.wf).map (fun i => exec i s) = runMaj2D w s := by
  unfold decodeMaj2D runMaj2D
  generalize fld w 28 4 = k
  split <;> first
    | rfl
    | (simp only [pass_if, filter_map_some]; rfl)

/-- MAJ 0x2E (R62), run at once. -/
def runMaj2E (w : Nat) (s : State) : Option Out :=
  match fld w 28 4 with
  | 0 => if fld w 11 1 == 0 && fld w 16 1 == 0 && fld w 21 3 == 0 then (bif typeIn (fieldOf w 24 4) isData then some (execVperm (fieldOf w 7 4) (fieldOf w 12 4) (fieldOf w 17 4) (fieldOf w 24 4) s) else none) else none
  | 1 => if fld w 11 1 == 0 && fld w 16 1 == 0 && fld w 20 4 == 0 then (bif typeIn (fieldOf w 24 4) isData then some (execVcompress (fieldOf w 7 4) (fieldOf w 12 4) (fieldOf w 17 3) (fieldOf w 24 4) s) else none) else none
  | 2 => if fld w 11 1 == 0 && fld w 16 1 == 0 && fld w 20 4 == 0 then (bif typeIn (fieldOf w 24 4) isData then some (execVexpand (fieldOf w 7 4) (fieldOf w 12 4) (fieldOf w 17 3) (fieldOf w 24 4) s) else none) else none
  | 3 => if fld w 11 1 == 0 && fld w 16 1 == 0 && fld w 22 2 == 0 then (bif isData (fieldOf w 24 4) then some (execVgather (fieldOf w 7 4) (fieldOf w 12 4) (fieldOf w 17 5) (fieldOf w 24 4) s) else none) else none
  | 4 => if fld w 11 1 == 0 && fld w 16 1 == 0 && fld w 22 2 == 0 then (bif typeIn (fieldOf w 24 4) isData then some (execVscatter (fieldOf w 7 4) (fieldOf w 12 4) (fieldOf w 17 5) (fieldOf w 24 4) s) else none) else none
  | 5 => if fld w 11 1 == 0 && fld w 16 1 == 0 && fld w 21 3 == 0 then (bif typeIn (fieldOf w 24 4) isTable then some (execVlut16 (fieldOf w 7 4) (fieldOf w 12 4) (fieldOf w 17 4) (fieldOf w 24 4) s) else none) else none
  | 6 => if fld w 11 1 == 0 && fld w 16 1 == 0 && fld w 21 1 == 0 then (bif vlut256Wf (fieldOf w 24 4) (fieldOf w 22 2) && groupOk (fieldOf w 22 2) (fieldOf w 17 4) then some (execVlut256 (fieldOf w 7 4) (fieldOf w 12 4) (fieldOf w 17 4) (fieldOf w 22 2) (fieldOf w 24 4) s) else none) else none
  | _ => none

theorem runMaj2E_eq (w : Nat) (s : State) : ((decodeMaj2E w).filter Instr.wf).map (fun i => exec i s) = runMaj2E w s := by
  unfold decodeMaj2E runMaj2E
  generalize fld w 28 4 = k
  split <;> first
    | rfl
    | (simp only [pass_if, filter_map_some]; rfl)

/-- MAJ 0x2F (R62), run at once. -/
def runMaj2F (w : Nat) (s : State) : Option Out :=
  match fld w 28 4 with
  | 0 => if fld w 11 1 == 0 && fld w 16 8 == 0 then (bif typeIn (fieldOf w 24 4) isFloat then some (execVexp2 (fieldOf w 7 4) (fieldOf w 12 4) (fieldOf w 24 4) s) else none) else none
  | 1 => if fld w 11 1 == 0 && fld w 16 8 == 0 then (bif typeIn (fieldOf w 24 4) isFloat then some (execVlog2 (fieldOf w 7 4) (fieldOf w 12 4) (fieldOf w 24 4) s) else none) else none
  | 2 => if fld w 11 1 == 0 && fld w 16 8 == 0 then (bif typeIn (fieldOf w 24 4) isFloat then some (execVrcp (fieldOf w 7 4) (fieldOf w 12 4) (fieldOf w 24 4) s) else none) else none
  | 3 => if fld w 11 1 == 0 && fld w 16 8 == 0 then (bif typeIn (fieldOf w 24 4) isFloat then some (execVrsqrt (fieldOf w 7 4) (fieldOf w 12 4) (fieldOf w 24 4) s) else none) else none
  | 4 => if fld w 11 1 == 0 && fld w 16 1 == 0 && fld w 18 6 == 16 then (bif typeIn (fieldOf w 24 4) isNum && groupOk (1 : BitVec 2) (fieldOf w 7 4) && groupOk (1 : BitVec 2) (fieldOf w 12 4) then some (execVsortkv (fieldOf w 7 4) (fieldOf w 12 4) (fieldOf w 17 1) (fieldOf w 24 4) s) else none) else none
  | _ => none

theorem runMaj2F_eq (w : Nat) (s : State) : ((decodeMaj2F w).filter Instr.wf).map (fun i => exec i s) = runMaj2F w s := by
  unfold decodeMaj2F runMaj2F
  generalize fld w 28 4 = k
  split <;> first
    | rfl
    | (simp only [pass_if, filter_map_some]; rfl)

/-- MAJ 0x30 (R62), run at once. -/
def runMaj30 (w : Nat) (s : State) : Option Out :=
  match fld w 24 8 with
  | 0 => if fld w 10 2 == 0 && fld w 15 2 == 0 && fld w 20 4 == 0 then some (execMand (fieldOf w 7 3) (fieldOf w 12 3) (fieldOf w 17 3) s) else none
  | 1 => if fld w 10 2 == 0 && fld w 15 2 == 0 && fld w 20 4 == 0 then some (execMor (fieldOf w 7 3) (fieldOf w 12 3) (fieldOf w 17 3) s) else none
  | 2 => if fld w 10 2 == 0 && fld w 15 2 == 0 && fld w 20 4 == 0 then some (execMxor (fieldOf w 7 3) (fieldOf w 12 3) (fieldOf w 17 3) s) else none
  | 3 => if fld w 10 2 == 0 && fld w 15 9 == 0 then some (execMnot (fieldOf w 7 3) (fieldOf w 12 3) s) else none
  | 4 => if fld w 15 2 == 0 && fld w 19 5 == 0 then (bif (fieldOf w 17 2).toNat ≤ 2 then some (execMpop (fieldOf w 7 5) (fieldOf w 12 3) (fieldOf w 17 2) s) else none) else none
  | 5 => if fld w 15 2 == 0 && fld w 19 5 == 0 then (bif (fieldOf w 17 2).toNat ≤ 2 then some (execMfirst (fieldOf w 7 5) (fieldOf w 12 3) (fieldOf w 17 2) s) else none) else none
  | _ => none

theorem runMaj30_eq (w : Nat) (s : State) : ((decodeMaj30 w).filter Instr.wf).map (fun i => exec i s) = runMaj30 w s := by
  unfold decodeMaj30 runMaj30
  generalize fld w 24 8 = k
  split <;> first
    | rfl
    | (simp only [pass_if, filter_map_some]; rfl)

/-- CLS 0 (R57-R59), run at once. -/
def runCls0 (w : Nat) (s : State) : Option Out :=
  match fld w 4 4 with
  | 0 => some (execVmovC (fieldOf w 8 4) (fieldOf w 12 4) s)
  | 1 => some (execVaddC (fieldOf w 8 4) (fieldOf w 12 4) s)
  | 2 => some (execVsubC (fieldOf w 8 4) (fieldOf w 12 4) s)
  | 3 => some (execVmulC (fieldOf w 8 4) (fieldOf w 12 4) s)
  | 4 => some (execVminC (fieldOf w 8 4) (fieldOf w 12 4) s)
  | 5 => some (execVmaxC (fieldOf w 8 4) (fieldOf w 12 4) s)
  | 6 => some (execVandC (fieldOf w 8 4) (fieldOf w 12 4) s)
  | 7 => some (execVorC (fieldOf w 8 4) (fieldOf w 12 4) s)
  | 8 => some (execVxorC (fieldOf w 8 4) (fieldOf w 12 4) s)
  | 9 => some (execVshlC (fieldOf w 8 4) (fieldOf w 12 4) s)
  | 10 => some (execVshrC (fieldOf w 8 4) (fieldOf w 12 4) s)
  | 11 => some (execVnegC (fieldOf w 8 4) (fieldOf w 12 4) s)
  | 12 => some (execVabsC (fieldOf w 8 4) (fieldOf w 12 4) s)
  | 13 => some (execVreluC (fieldOf w 8 4) (fieldOf w 12 4) s)
  | 14 => some (execVavgC (fieldOf w 8 4) (fieldOf w 12 4) s)
  | 15 => some (execVmaccC (fieldOf w 8 4) (fieldOf w 12 4) s)
  | _ => none

theorem runCls0_eq (w : Nat) (s : State) : ((decodeCls0 w).filter Instr.wf).map (fun i => exec i s) = runCls0 w s := by
  unfold decodeCls0 runCls0
  generalize fld w 4 4 = k
  split <;> first
    | rfl
    | (simp only [pass_if, filter_map_some]; rfl)

/-- CLS 1 (R57-R59), run at once. -/
def runCls1 (w : Nat) (s : State) : Option Out :=
  match fld w 4 4 with
  | 0 => some (execMovC (fieldOf w 8 4) (fieldOf w 12 4) s)
  | 1 => some (execAddC (fieldOf w 8 4) (fieldOf w 12 4) s)
  | 2 => some (execSubC (fieldOf w 8 4) (fieldOf w 12 4) s)
  | 3 => some (execAndC (fieldOf w 8 4) (fieldOf w 12 4) s)
  | 4 => some (execOrC (fieldOf w 8 4) (fieldOf w 12 4) s)
  | 5 => some (execXorC (fieldOf w 8 4) (fieldOf w 12 4) s)
  | 6 => some (execAndnC (fieldOf w 8 4) (fieldOf w 12 4) s)
  | 7 => some (execSllC (fieldOf w 8 4) (fieldOf w 12 4) s)
  | 8 => some (execSrlC (fieldOf w 8 4) (fieldOf w 12 4) s)
  | 9 => some (execSraC (fieldOf w 8 4) (fieldOf w 12 4) s)
  | 10 => some (execMinC (fieldOf w 8 4) (fieldOf w 12 4) s)
  | 11 => some (execMaxC (fieldOf w 8 4) (fieldOf w 12 4) s)
  | 12 => some (execAddiC (fieldOf w 8 4) (fieldOf w 12 4) s)
  | 13 => some (execSlliC (fieldOf w 8 4) (fieldOf w 12 4) s)
  | 14 => some (execSrliC (fieldOf w 8 4) (fieldOf w 12 4) s)
  | 15 => some (execSraiC (fieldOf w 8 4) (fieldOf w 12 4) s)
  | _ => none

theorem runCls1_eq (w : Nat) (s : State) : ((decodeCls1 w).filter Instr.wf).map (fun i => exec i s) = runCls1 w s := by
  unfold decodeCls1 runCls1
  generalize fld w 4 4 = k
  split <;> first
    | rfl
    | (simp only [pass_if, filter_map_some]; rfl)

/-- CLS 2 (R57-R59), run at once. -/
def runCls2 (w : Nat) (s : State) : Option Out :=
  match fld w 4 4 with
  | 0 => (bif (fieldOf w 12 4).toNat ≠ 0 || (fieldOf w 8 4).toNat ≠ 0 then some (execIdleC (fieldOf w 8 4) (fieldOf w 12 4) s) else none)
  | 1 => some (execBrkC (fieldOf w 8 4) (fieldOf w 12 4) s)
  | 8 => some (execBzC (fieldOf w 8 4) (fieldOf w 12 4) (fieldOf w 4 2) s)
  | 9 => some (execBzC (fieldOf w 8 4) (fieldOf w 12 4) (fieldOf w 4 2) s)
  | 10 => some (execBzC (fieldOf w 8 4) (fieldOf w 12 4) (fieldOf w 4 2) s)
  | 11 => some (execBzC (fieldOf w 8 4) (fieldOf w 12 4) (fieldOf w 4 2) s)
  | 12 => some (execBnzC (fieldOf w 8 4) (fieldOf w 12 4) (fieldOf w 4 2) s)
  | 13 => some (execBnzC (fieldOf w 8 4) (fieldOf w 12 4) (fieldOf w 4 2) s)
  | 14 => some (execBnzC (fieldOf w 8 4) (fieldOf w 12 4) (fieldOf w 4 2) s)
  | 15 => some (execBnzC (fieldOf w 8 4) (fieldOf w 12 4) (fieldOf w 4 2) s)
  | _ => none

theorem runCls2_eq (w : Nat) (s : State) : ((decodeCls2 w).filter Instr.wf).map (fun i => exec i s) = runCls2 w s := by
  unfold decodeCls2 runCls2
  generalize fld w 4 4 = k
  split <;> first
    | rfl
    | (simp only [pass_if, filter_map_some]; rfl)

/-- The majors whose instructions the code generator can build. -/
def decodeEarly (w : Nat) : Option Instr :=
  match fld w 1 6 with
  | 0x00 => decodeMaj00 w
  | 0x01 => decodeMaj01 w
  | 0x02 => decodeMaj02 w
  | 0x03 => decodeMaj03 w
  | 0x04 => decodeMaj04 w
  | 0x05 => decodeMaj05 w
  | 0x06 => decodeMaj06 w
  | 0x07 => decodeMaj07 w
  | 0x08 => decodeMaj08 w
  | 0x09 => decodeMaj09 w
  | 0x0A => decodeMaj0A w
  | 0x0B => decodeMaj0B w
  | 0x14 => decodeMaj14 w
  | 0x15 => decodeMaj15 w
  | 0x16 => decodeMaj16 w
  | 0x17 => decodeMaj17 w
  | 0x18 => decodeMaj18 w
  | 0x19 => decodeMaj19 w
  | 0x1A => decodeMaj1A w
  | 0x1B => decodeMaj1B w
  | 0x1C => decodeMaj1C w
  | 0x1D => decodeMaj1D w
  | 0x1E => decodeMaj1E w
  | 0x1F => decodeMaj1F w
  | 0x20 => decodeMaj20 w
  | 0x21 => decodeMaj21 w
  | 0x22 => decodeMaj22 w
  | 0x23 => decodeMaj23 w
  | 0x24 => decodeMaj24 w
  | 0x25 => decodeMaj25 w
  | 0x26 => decodeMaj26 w
  | 0x27 => decodeMaj27 w
  | 0x2C => decodeMaj2C w
  | 0x34 => decodeMaj34 w
  | 0x35 => decodeMaj35 w
  | 0x36 => decodeMaj36 w
  | 0x38 => decodeMaj38 w
  | 0x39 => decodeMaj39 w
  | 0x3A => decodeMaj3A w
  | 0x3B => decodeMaj3B w
  | 0x3C => decodeMaj3C w
  | 0x3D => decodeMaj3D w
  | 0x3E => decodeMaj3E w
  | _ => none

/-- A 32-bit word, run at once. -/
def run32 (w : Nat) (s : State) : Option Out :=
  match fld w 1 6 with
  | 0x10 => runMaj10 w s
  | 0x11 => runMaj11 w s
  | 0x12 => runMaj12 w s
  | 0x28 => runMaj28 w s
  | 0x29 => runMaj29 w s
  | 0x2A => runMaj2A w s
  | 0x2B => runMaj2B w s
  | 0x2D => runMaj2D w s
  | 0x2E => runMaj2E w s
  | 0x2F => runMaj2F w s
  | 0x30 => runMaj30 w s
  | _ => ((decodeEarly w).filter Instr.wf).map (fun i => exec i s)

/-- A 16-bit word, run at once. -/
def run16 (w : Nat) (s : State) : Option Out :=
  match fld w 1 3 with
  | 0 => runCls0 w s
  | 1 => runCls1 w s
  | 2 => runCls2 w s
  | _ => none

theorem run32_eq (w : Nat) (s : State) : ((decodeRaw32 w).filter Instr.wf).map (fun i => exec i s) = run32 w s := by
  unfold decodeRaw32 run32 decodeEarly
  generalize fld w 1 6 = k
  split <;> first
    | exact runMaj10_eq w s
    | exact runMaj11_eq w s
    | exact runMaj12_eq w s
    | exact runMaj28_eq w s
    | exact runMaj29_eq w s
    | exact runMaj2A_eq w s
    | exact runMaj2B_eq w s
    | exact runMaj2D_eq w s
    | exact runMaj2E_eq w s
    | exact runMaj2F_eq w s
    | exact runMaj30_eq w s
    | rfl
    | (split <;> first | contradiction | (split <;> first | contradiction | rfl))

theorem run16_eq (w : Nat) (s : State) : ((decodeRaw16 w).filter Instr.wf).map (fun i => exec i s) = run16 w s := by
  unfold decodeRaw16 run16
  generalize fld w 1 3 = k
  split <;> first
    | exact runCls0_eq w s
    | exact runCls1_eq w s
    | exact runCls2_eq w s
    | rfl
    | (split <;> first | contradiction | rfl)

/-- `decodeExec` as it is compiled. -/
def decodeExecCode (w : Nat) (s : State) : Option Out := if w % 2 = 1 then run32 w s else run16 w s

@[csimp] theorem decodeExec_eq : @decodeExec = @decodeExecCode := by
  funext w s
  unfold decodeExec decodeExecCode decodeWord
  split
  · exact run32_eq w s
  · exact run16_eq w s

end Sys2Proof.Machine
end

