-- ==== Sys2Proof/Machine/Run.lean ====
section
/-! DEFINITION. What happens next: fetching and issuing (R24-R28, R47, R48, R91), the happenings that may come next with their
times, and the choice among them (logs 6, 24). -/

namespace Sys2Proof.Machine

/-! ## Fetching (R47, R48, R91) -/

/-- What stands at the program counter of the current core. -/
inductive Fetched where
  /-- a word, and its length in bytes -/
  | word (w len : Nat)
  /-- the first half of a word that takes two accesses, of which the second comes later in this cycle (R49) -/
  | first (lo : BitVec 16)
  /-- it extends past local memory (R48) -/
  | outside
  deriving DecidableEq, Repr

/-- Whether something else may still land a write in this cycle: another core that issues, an engine with a command or a stream to
write, or the outside. -/
def State.othersAct (s : State) : Bool :=
  !s.cmds.isEmpty || !s.inputs.isEmpty || s.cores.any (fun c => c.streams.any (fun t => t.isWrite && !t.queue.isEmpty)) ||
  s.others.any (fun c => c.launch != 0 && c.status == .running && decide (c.readyAt ≤ s.now))

/-- Fetch from the current core's own local memory, at the issue cycle (R91). A 32-bit word at an address ≡ 2 mod 4 takes two
accesses: where something else may land a write in this cycle, a free value chooses whether it can fall between them (R49). -/
def State.fetch (s : State) : Fetched :=
  let pc := s.core.pc.toNat
  if 0x20000 < pc + 2 then .outside
  else
    let half (a : Nat) : Nat := s.getNat (localPlace s.core.pos a) 2
    let lo := match s.core.half with | some h => h.toNat | none => half pc
    if lo % 2 = 0 then .word lo 2
    else if 0x20000 < pc + 4 then .outside
    else if pc % 4 = 2 ∧ s.core.half = none ∧ s.core.late = 0 ∧ s.othersAct ∧ Config.pick s.free % 2 = 1 then .first (BitVec.ofNat 16 lo)
    else .word (lo + 65536 * half (pc + 2)) 4

/-- A word issues: its meaning, or ILLEGAL (R60). -/
def State.issueWord (s : State) (w len : Nat) : Out :=
  match decodeExec w s with
  | some o => o
  | none => execIllegalWord (len == 4) (BitVec.ofNat 32 w) s

/-! ## Suits (R24-R26) -/

/-- How long an issue held the other members of the suit: what it added to their times of issue (R26). -/
def State.heldFor (s t : State) : Nat :=
  match (s.suitMembers s.core.pos).find? (fun p => p != s.core.pos) with
  | some p => (t.coreAt p).readyAt - (s.coreAt p).readyAt
  | none => 0

/-- Whether the current core's instruction did not issue, so that it holds the suit and is tried again. -/
def State.stalledIn (s t : State) : Bool :=
  decide (0 < s.heldFor t) && t.core.pc == s.core.pc && t.core.status == .running

/-- The followers of a leader that has issued a word take their copies, k cycles later each (R24). -/
def State.passOn (s t : State) (w len : Nat) : State :=
  if s.stalledIn t then t
  else ((s.suitMembers s.core.pos).filter (fun p => p != s.core.pos)).foldl (fun u p => u.modCore p (fun c =>
    if c.suit.act then
      { c with follow := c.follow ++
        [⟨s.now + c.suit.spos.toNat * s.period p + s.heldFor t, s.core.pc, BitVec.ofNat 32 w, len, t.core.pc⟩] }
    else c)) t

/-- Whether the current core has put its issue off to a later point of this cycle (R49, R219). -/
def State.putOff (s t : State) : Bool := decide (s.core.late < t.core.late)

/-- The leader of a suit, or a core in none, issues the word at its program counter. -/
def State.issueHead (s : State) : Out :=
  match s.fetch with
  | .outside => .next (s.takeTrap false 4 s.core.pc 0)
  | .first lo => .next { s with free := s.free + 1, core := { s.core with half := some lo, late := 1 } }
  | .word w len =>
    if s.core.timed && s.core.refetch.any (fun a => decide (a < s.core.pc.toNat + len)) then .next (s.stallOn 6)
    else match s.issueWord w len with
    | .next t => .next (if s.core.suit.act && !s.putOff t then s.passOn t w len else t)
    | o => o

/-- A follower issues its oldest copy (R24, R25); where it stalls, or puts its issue off, the copy stays. A stall, alone among the
issues that leave the core in its suit, ends `lead`. -/
def State.issueCopy (s : State) (q : Queued) (rest : List Queued) : Out :=
  let u := { s with core := { s.core with pc := q.pc, lead := some q.next, follow := rest } }
  match u.issueWord q.word.toNat q.len with
  | .next t =>
    let d := u.heldFor t
    let shift (x : Queued) : Queued := { x with due := x.due + d }
    let late : List Queued := t.core.follow.map shift
    .next { t with core := { t.core with
      lead := none
      follow := if !t.core.suit.act then [] else if t.core.lead.isNone || u.putOff t then shift q :: late else late } }
  | o => o

/-- Whether an issue of the current core ended in a trap (R381): INH is set, or the core is parked or about to
be. A switch of workspaces that brings INH with it is none. -/
def State.trapped (s t : State) : Bool :=
  (t.core.inh || t.core.reflecting.isSome || (match t.core.status with | .parked _ _ => true | _ => false)) && t.core.cwp == s.core.cwp

/-- What the current core issues: a follower its oldest copy of the leader's instructions, if it has one; any other core the word
at its program counter (R24). -/
def State.issueOne (s : State) : Out :=
  if s.core.suit.act && s.core.suit.spos != 0 then
    match s.core.follow with
    | q :: rest => s.issueCopy q rest
    | [] => .next s
  else s.issueHead

/-- What a core held over from an attempt to issue in the same cycle, or over a drain, goes once it has issued, unless it has put
its issue off (R49, R80, R219). -/
def State.tidied (s t : State) : State :=
  if s.putOff t then t
  else if s.core.late != 0 || s.core.draining then
    let stays : Bool := t.core.pc == s.core.pc && t.core.status == .running && !t.core.inh
    { t with core := { t.core with half := none, late := 0, draining := t.core.draining && stays } }
  else t

/-- The current core issues. The parking for a trap (R388), or a trap that its governor has raised (R244), comes first; a pending
interrupt is taken unless the instruction about to issue traps (R382). -/
def State.issueNext (s : State) : Out :=
  match s.core.reflecting, s.core.posted with
  | some (h, cstat), _ => .next (s.reflect h cstat)
  | none, (c, x) :: rest => .next ({ s with core := { s.core with posted := rest } }.takeTrap false c x 0)
  | none, [] =>
    let out := s.issueOne
    if s.interruptible then
      match out with
      | .next t => if s.trapped t then out else execTakeInterrupt s
      | _ => out
    else match out with
      | .next t => .next (s.tidied t)
      | _ => out

/-! ## Happenings -/

/-- What one step does. -/
inductive Act where
  /-- a core issues -/
  | issue (pos : Nat)
  /-- an event, with the turn at a core -/
  | happen (pos : Nat) (i : Instr)
  /-- the next thing that the outside does -/
  | outside (i : Instr)
  /-- stores, gathers and ring rows whose time has come take effect -/
  | settle
  /-- a remote operation is acknowledged (R363, R422) -/
  | acknowledge (n : Nat)
  /-- the sensor of a die reads anew (R434) -/
  | sense
  /-- the root's system software fills or empties a free store (R408) -/
  | restock
  deriving DecidableEq, Repr

/-- A happening that may come: not before `lo`, not after `hi`; of those due together, the lower rank comes first. -/
structure Cand where
  act : Act
  lo : Nat
  hi : Option Nat
  rank : Nat
  deriving DecidableEq, Repr

/-- A happening at a fixed time, or now if that has passed. -/
def State.at_ (s : State) (t : Nat) (rank : Nat) (a : Act) : Cand := ⟨a, max s.now t, some (max s.now t), rank⟩

/-- A happening without a fixed time. -/
def State.free_ (s : State) (a : Act) : Cand := ⟨a, s.now, none, 0⟩

/-- The events that come from outside the cores and their engines. -/
def outsideEvent : Instr → Bool
  | .pageRetire _ | .refreshUpdate _ | .heartbeat _ | .mgmtCoreRestart _ | .patrolScrub _ _
  | .decoderWatchdog _ _ | .implicitPromotion _ | .expanderTimeout _ | .expanderReinstate _ | .extentAdd _ _ _
  | .extentRelease _ _ | .remoteWrite _ _ _ | .remoteRead _ _ _ | .remoteFetchAdd _ _ _ | .remoteSwap _ _ _
  | .remoteCompareSwap _ _ _ _ | .remoteCounterAdd _ _ _ | .installHostWindow _ _ | .installPeerGroup _ _ _
  | .readTelemetry | .hostmsg _ | .keyInstall _ _ _ | .keyRemoval _ _ _ | .attestationRequest _ | .firmwareReplace _ _
  | .warmStartRequest | .coldStart | .clockChange _ _ | .dieLinkLoss _
  | .peerUnreachable _ _ | .transportKeyInstall _ _ | .wearLevelling _ _ => true
  | _ => false

/-- The event that ends a wait. -/
def waitEvent : Wait → Option Instr
  | .counter _ _ _ => some .waitcSatisfied
  | .barrier _ _ _ => some .waitbSatisfied
  | .batch _ => some .waitnSatisfied
  | .fence _ => some .fenceComplete
  | .tfence => some .tfenceComplete
  | .pub _ => some .pubComplete
  | .start _ => some .timedSegmentStart
  | .suitBar _ | .gbar | .answer _ => none

/-- When a core issues next: a follower when its oldest copy is due, a leader once no member is still in a wait; but each member of
a suit starts a timed segment at its own time (R29). -/
def State.issueTime (s : State) (c : Core) : Option Nat :=
  if c.suit.act && c.suit.spos != 0 then
    match c.follow with
    | q :: _ => some (max q.due c.readyAt)
    | [] => if c.posted.isEmpty && !({ s with core := c }).interruptible then none else some c.readyAt
  else if c.suit.act && (s.suitMembers c.pos).any (fun p => match (s.coreAt p).status with
      | .waiting (.start _) => false | .waiting _ => true | _ => false) then none
  else some c.readyAt

/-- Whether the die of a core stands, its clock stopped by heat (R434): neither the core nor an engine or governor there goes on. -/
def State.standsStill (s : State) (pos : Nat) : Bool := s.device.dies.any (fun d => d.id == dieOf pos && d.stopped)

/-- What a core may do next, at the edges of its die's clock (log 85). -/
def State.coreCands (s : State) (c : Core) : List Cand :=
  match s.placedOn c.pos with
  | none => []
  | some (r, l) =>
    if c.launch == 0 || l.state != .running || c.held || s.standsStill c.pos then []
    else
      let edge (t rank : Nat) (a : Act) : Cand := s.at_ (edgeFrom (s.period c.pos) (max s.now t)) rank a
      let all : List Cand := match c.status with
        | .running => (s.issueTime c).toList.map (fun t => edge t (if c.late = 0 then 1 else 2 + c.late) (.issue c.pos))
        | .waiting w =>
          let t := match w with | .start x => 12 * x.toNat | _ => c.readyAt
          let bar : List Cand := match w with
            | .suitBar m => [edge (c.readyAt - s.period c.pos) 5 (.happen c.pos (.suitBarrierComplete (groupOf c.pos) m))]
            | _ => []
          (waitEvent w).toList.map (fun i => edge t 0 (.happen c.pos i)) ++ bar ++
          (if c.posted.isEmpty then [edge c.readyAt 1 (.happen c.pos .takeInterrupt)] else [edge c.readyAt 1 (.issue c.pos)])
        | .halting =>
          [edge (max c.readyAt (c.drainTime s.now)) 0 (.happen c.pos .coreHalt)] ++
          (if c.posted.isEmpty then [] else [edge c.readyAt 1 (.issue c.pos)])
        | _ => []
      match stopTime r l c with
      | none => all
      | some ts => all.filter (fun k => decide (k.lo < 12 * ts))

/-- What the streams of a core may do next (R323). -/
def State.streamCands (s : State) (c : Core) : List Cand :=
  let one (v : Bool) (i : Nat) (o : Option Stream) : List Cand := match o with
    | none => []
    | some t =>
      let idx := BitVec.ofNat 3 i
      if t.isWrite then
        match t.queue, t.landing with
        | [], [] => []
        | [], e :: _ => [⟨.happen c.pos (.streamWrite v idx), max s.now e.1, none, 0⟩]
        | _ :: _, _ => [s.free_ (.happen c.pos (.streamWrite v idx))]
      else
        let a : Act := .happen c.pos (.streamFetch v idx)
        let at_ := t.addr (t.next + t.queue.length)
        if (s.firstDelay c.pos at_).isNone then [s.free_ a]
        else
          let u := s.turn c.pos
          [s.at_ (u.bankTime (u.elementBanks at_ t.size) (max s.now t.due)) 0 a]
  if s.standsStill c.pos then []
  else
    (List.range 8).flatMap (fun i => one false i (c.gs.toList.getD i none)) ++
    (List.range 4).flatMap (fun i => one true i (c.vs.toList.getD i none))

/-- What a group's governor may do next (R211, R218). -/
def State.groupCands (s : State) (g : Group) : List Cand :=
  let p := groupCore g.id 0
  let ends := g.queue.foldl (fun m c => if c.started then max m (c.stepEnd (s.period c.core)) else m) 0
  if s.standsStill p then []
  else (match g.nextCmd with
    | some c => [s.at_ (max c.due ends) 0 (.happen p (.governorCommandStart g.id))]
    | none => []) ++
  (g.queue.filter CubeCmd.stepped).map (fun c => s.at_ (s.cubeDoneAt c) (if c.isPart then 2 else 0) (.happen p (.governorCommandComplete g.id))) ++
  (g.queue.filter (fun c => c.started && !c.stepped)).map (fun c =>
    s.at_ c.due (if c.maj = 0x35 ∧ c.fn = 3 ∧ !c.acc.isEmpty then 0 else 2) (.happen p (.cubeStep g.id)))

/-- What an engine command may do next: a CP.L within the bound that it took with its snapshot (R268). -/
def State.cmdCands (s : State) (c : EngCmd) : List Cand :=
  let ev (i : Instr) : Cand := ⟨.happen s.core.pos i, s.now, c.by_.map (max s.now), 0⟩
  if s.standsStill c.core then []
  else if c.started then [ev (.engineLanding c.id), ev (.engineCommandComplete c.id)]
  else if c.isNet then [ev (.collectiveInstanceStart c.id)]
  else [ev (.engineCommandStart c.id)]

/-- An increment may arrive at any time from when it can (R316). -/
def State.msgCands (s : State) : List Cand :=
  (List.range s.msgs.length).map (fun n =>
    ⟨.happen s.core.pos (.mailboxIncrement n), max s.now ((s.msgs[n]?.map Msg.after).getD 0), none, 0⟩)

/-- By when a superstep boundary comes: 64 ticks after the last GBAR has issued, a core period before the core is ready (R36). -/
def State.boundaryBy (s : State) (l : Launch) : Nat :=
  l.cores.foldl (fun m p => if (s.coreAt p).status == .waiting .gbar then max m ((s.coreAt p).readyAt - s.period p) else m) 0 +
    64 * 12

/-- What the dealer may do next for a region. A launch with a deadline is placed as soon as it can be, so that it keeps its promise
(R351), and any other within a bound that the spec does not give (R44; log 77). -/
def State.regionCands (s : State) (r : Region) : List Cand :=
  let ev (i : Instr) : Act := .happen s.core.pos i
  let when (o : Option Nat) (i : Instr) : List Cand := o.toList.map (fun t => s.at_ (12 * t) 0 (ev i))
  if r.state == .retired then []
  else
    (r.running?.toList.flatMap (fun l =>
      [⟨ev (.superstepBoundary r.id), s.now, some (max s.now (s.boundaryBy l)), 0⟩,
       s.at_ s.now 0 (ev (.debugStopEnd r.id))] ++
      when (if l.stopped then l.resumeTr else none) (.gangResume r.id))) ++
    when r.watchTick (.superstepWatchdog r.id) ++
    when r.stopAt (.gangStop r.id) ++
    when r.worstTick (.worstExceeded r.id) ++
    when (if s.loan r = 0 then none else r.exhaustTick) (.balanceExhausted r.id) ++
    when (r.loading?.map Launch.startAt) (.launchStart r.id) ++
    (r.launches.filter (fun l => l.state == .waiting)).map (fun l => s.at_ s.now 0 (ev (.launchReady r.id l.seq))) ++
    (match r.head? with
      | some l =>
        let lo := max s.now (12 * l.loadFrom)
        let hi := if l.deadline.isSome then lo else max lo (12 * (l.readyTick + Config.placeBound))
        [⟨ev (.launchPlace r.id), lo, some hi, 0⟩]
      | none => []) ++
    (if r.revoker.isSome then [s.free_ (ev (.revokeDismantle r.id))] else [])

/-- The first row under way that can arrive: one that its ring takes, behind no row of its TPART that must wait (R229). -/
def State.nextRow (s : State) (held : List Nat) : List Delivery → Option Delivery
  | [] => none
  | e :: r => if held.contains e.cmd then s.nextRow held r else if s.ringTakes e then some e else s.nextRow (e.cmd :: held) r

/-- The time of the next landing in memory or in a ring. -/
def State.settleTime (s : State) : Option Nat :=
  (s.later.head?.map Later.visible).toList ++ (s.gathers.head?.map Gather.due).toList ++ ((s.nextRow [] s.deliveries).map Delivery.due).toList
    |>.foldl (fun m t => some (match m with | some x => min x t | none => t)) none

/-- The cores that are not as at power-on, by ascending place. -/
def State.byPlace (s : State) : List Core := putBy Core.pos s.core s.others

/-- What the device does by itself: takeovers of the refresh, within 64,000 ticks of the 200,000 without a heartbeat (R412), the clocks
of hot dies (R434), new readings, and what the root does to the free stores (R408). -/
def State.deviceCands (s : State) : List Cand :=
  let ev (i : Instr) : Act := .happen s.core.pos i
  let takeover (i : Nat) (k : Stack) : List Cand :=
    if k.takeover then []
    else [⟨ev (.refreshTakeover i), max s.now (12 * (k.heartbeat + 200000)), some (max s.now (12 * (k.heartbeat + 264000))), 0⟩]
  (List.range 16).flatMap (fun i => takeover i (s.stackAt i)) ++
  s.device.dies.flatMap (fun d =>
    if !d.stopped && decide (115 ≤ d.temp) then [s.at_ s.now 0 (ev (.thermalClockStop d.id))]
    else if d.stopped && decide (d.temp < 105) then [s.at_ s.now 0 (ev (.thermalClockResume d.id))]
    else []) ++
  (if s.sensors.isEmpty then [] else [s.free_ .sense]) ++ (if s.stores.isEmpty then [] else [s.free_ .restock])

/-- What the outside does next: a request that an expander leaves unanswered times out when it does (R422). -/
def State.inputCands (s : State) : List Cand :=
  (s.inputs.take 1).flatMap (fun i => match i with
    | .expanderTimeout l => (s.linkAt l).timesOut.toList.map (fun t => s.at_ t 0 (.outside i))
    | _ => if outsideEvent i then [s.free_ (.outside i)] else [])

/-- All that may happen next in a running device, enabled or not. -/
def State.runCands (s : State) : List Cand :=
  let here := s.core.pos
  s.settleTime.toList.map (fun t => s.at_ t 0 .settle) ++
  s.at_ (12 * ((s.dealt + 1) * 200000)) 0 (.happen here .deal) ::
  (s.regions.foldr (putBy (fun r => r.id.toNat)) []).flatMap s.regionCands ++
  s.requests.map (fun e => ⟨.happen e.core .dealerAnswer, s.now, some (max s.now (12 * e.due)), 0⟩) ++
  s.groups.flatMap s.groupCands ++
  s.cmds.flatMap s.cmdCands ++
  s.byPlace.flatMap s.streamCands ++
  s.msgCands ++
  ((List.range s.remotes.length).filter (fun n => (s.remotes[n]?).any s.answerable)).map (fun n => s.free_ (.acknowledge n)) ++
  s.housework.flatMap (fun e => [s.free_ (.happen here (.housekeeperFold e.1 e.2)), s.free_ (.happen here (.nodeFree e.1 e.2))]) ++
  (if s.scrub.isEmpty then [] else [s.free_ (.happen here .scrubLine)]) ++
  s.deviceCands ++
  s.byPlace.flatMap s.coreCands

/-- All that may happen next, enabled or not: at power-on the cold start comes by itself (R424). -/
def State.cands (s : State) : List Cand :=
  (match s.device.phase with
    | .powerOn => [s.at_ s.now 0 (.happen s.core.pos .coldStart)]
    | .safe => []
    | .running => s.runCands) ++
  s.inputCands

/-- The state in which a happening takes place at a time: memory and the acting core's landings as of then. -/
def State.moment (s : State) (t : Nat) (a : Act) : State :=
  let u := { s with now := t }
  match a with
  | .issue p => (u.turn p).settle
  | .happen p _ => (u.turn p).settle
  | .outside _ => { u with inputs := u.inputs.drop 1 }.settle
  | .settle | .acknowledge _ | .sense | .restock => u.settle

/-- What a happening does at its moment. -/
def Act.run (a : Act) (s : State) : Out :=
  match a with
  | .issue _ => s.issueNext
  | .happen _ i => exec i s
  | .outside i => exec i s
  | .settle => .next s
  | .acknowledge n => .next (s.acknowledge n)
  | .sense => .next s.sense
  | .restock => .next s.restock

/-- Whether a happening can take place at its earliest time. An issue always can. -/
def State.enabled (s : State) (k : Cand) : Bool :=
  match k.act with
  | .issue _ | .settle | .acknowledge _ | .sense | .restock | .happen _ (.refreshTakeover _) => true
  | a => match a.run (s.moment k.lo a) with | .refused (.notEnabled _) => false | _ => true

/-! ## The choice (log 6) -/

/-- The earlier of two happenings with a latest time, the first where they tie. -/
def sooner (a b : Cand) : Cand :=
  match a.hi, b.hi with
  | some x, some y => if y < x ∨ (y = x ∧ b.rank < a.rank) then b else a
  | none, some _ => b
  | _, none => a

/-- The happening that must come first, of those with a latest time. -/
def firstDue : List Cand → Option Cand
  | [] => none
  | k :: r => match firstDue r with
    | none => if k.hi.isSome then some k else none
    | some j => some (sooner k j)

/-- Happenings whose time is open, and may come no later than t. -/
def openBefore (t : Option Nat) (ks : List Cand) : List Cand :=
  ks.filter (fun k => k.hi != some k.lo && (match t with | some x => decide (k.lo ≤ x) | none => true))

/-- What happens next, and when: the happening that is due first, or one whose time is open, chosen with its time by free values
where there is any; and how many free values the choice took. -/
def State.choose (s : State) : Option (Act × Nat × Nat) :=
  let ks := s.cands.filter s.enabled
  let due := firstDue ks
  let bound := due.bind Cand.hi
  match openBefore bound ks with
  | [] => due.map (fun k => (k.act, k.lo, 0))
  | os =>
    let pool := (due.toList.filter (fun k => k.hi == some k.lo)) ++ os
    match pool[Config.pick s.free % pool.length]? with
    | none => none
    | some k =>
      if k.hi = some k.lo then some (k.act, k.lo, 1)
      else
        let top := match bound, k.hi with | some x, some y => min x y | some x, none => x | none, some y => y | none, none => k.lo + Config.pick (s.free + 1)
        some (k.act, k.lo + Config.pick (s.free + 1) % (top - k.lo + 1), 2)

/-- A happening takes place at a time, after n free values were taken for the choice. One whose condition has lapsed by then
leaves the state as that time finds it. -/
def State.perform (s : State) (a : Act) (t n : Nat) : Out :=
  let u := { s with free := s.free + n }.moment t a
  match a.run u with
  | .refused (.notEnabled _) => .next u
  | o => o

/-! ## A loaded program (log 5) -/

/-- A launch that runs on one core. -/
def loadedLaunch (pos : Nat) : Launch where
  seq := 1
  entry := 0
  image := 0
  space := 0
  args := [0, 0, 0, 0]
  worst := 0
  deadline := none
  tstart := 0
  stack := 0
  wsbase := 0x1C000
  deps := []
  load := 0
  cost := 0
  promise := (0, 0)
  handles := []
  earmark := 0
  state := .running
  code := 0
  voided := false
  order := 0
  readyTick := 0
  cores := [pos]
  keys := []
  loadAt := 0
  startAt := 0
  settled := 0
  superstep := 0
  boundary := 0
  yield := false
  stopTs := none
  stopped := false
  resumeTr := none
  saved := []

/-- The root region of R432 with that launch; what R432 does not give is zero, and its addresses are physical ones. -/
def loadedRegion (pos : Nat) : Region where
  id := 1
  depth := 0
  parent := 0
  state := .live
  block := 0
  home := 1
  prio := 0
  dbgGang := false
  watchdog := 0
  fdom := 1
  weight := 0
  tclass := 0
  hmask := 0x7FFFE
  hvec := 0
  xroot := 0
  ownLnt := true
  lntBase := 0
  lntCap := 0
  poolBase := 0
  poolPages := 0
  alog := 0
  swap := 0
  cores := 49152
  pages := 16 * 0x180000
  queue := 0
  contexts := 0
  res := 9900
  tokens := 0
  pagesUsed := 0
  queueUsed := 0
  contextsUsed := 0
  carved := []
  borrow := 0
  repay := 0
  balance := 0
  marker := 0
  earmark := 0
  pool := 0
  deficit := 0
  lw := 255
  lh := 191
  cmap := []
  seq := 1
  launches := [loadedLaunch pos]
  refused := none
  revokeTs := none
  revoker := none
  placed := []
  lost := []

/-- The state with a program loaded from outside on the core whose turn it is: the device runs, the core is placed in a launch of
the root region and issues now. -/
def State.loaded (s : State) : State :=
  { s with
    device := { s.device with phase := .running }
    regions := [loadedRegion s.core.pos]
    core := { s.core with status := .running, launch := 1, readyAt := s.now } }

end Sys2Proof.Machine
end

