-- ==== Sys2Proof/Machine/Step.lean ====
section
/-! DEFINITION. One step of the package: the next happening in time, or the end of a cycle in which barriers changed (R314).
The state with an instruction placed where the next step fetches it (log 5). -/

namespace Sys2Proof.Machine

/-- One step. Where nothing can happen, the machine stays as it is. -/
def step (s : State) : Host.Outcome State Fault Refusal :=
  match s.choose with
  | none => .next s
  | some (a, t, n) =>
    if s.now < t && !s.judge.isEmpty then .next s.endCycle else s.perform a t n

/-- The state with an instruction at the program counter of the core whose turn it is, and that core about to issue. -/
def State.withFetchWord (s : State) (nbits w : Nat) : State :=
  (s.setBytes (localPlace s.core.pos s.core.pc.toNat) (leBytes 4 (w % 2 ^ nbits))).loaded

end Sys2Proof.Machine
end

