-- ==== Sys2Proof/Safety.lean ====
section
/-! DEFINITION. What a safe run is: no step of it faults or is refused; and what holds of every state a step leaves. -/

namespace Sys2Proof.Machine

/-- A step that goes on. -/
def State.goesOn (s : State) : Prop := ∃ t, step s = .next t

/-- Every one of the first n steps goes on. -/
def State.safeFor : Nat → State → Prop
  | 0, _ => True
  | n + 1, s => ∃ t, step s = .next t ∧ State.safeFor n t

/-- A run is safe when all its steps go on. -/
def State.safe (s : State) : Prop := ∀ n, s.safeFor n

/-- Memory is in its canonical form, so that equal memories are equal data. -/
def State.memWf (s : State) : Prop := Memory.wf s.mem = true

end Sys2Proof.Machine
end

