-- ==== Sys2Proof/Certificates/Slice0/Obligations.lean ====
section
/-! DEFINITION. The statements for the provers, from the numbered rules of spec/. First the words that they are written in: what
an operand gives and takes in each of its forms, and the state after an instruction that went on to the next one. None of these
is used by the model. -/

namespace Sys2Proof.Says

open Sys2Proof Sys2Proof.Machine

/-! ## Going on -/

/-- The current core has issued an instruction of n bytes, and its next one stands behind it, in the next cycle at the earliest
(R30); nothing else has changed. -/
def went (s : State) (n : Nat) : State :=
  { s with core := { s.core with
      pc := s.core.pc + BitVec.ofNat 64 n, readyAt := max s.core.readyAt (s.now + s.period s.core.pos), dbg := false } }

/-- The current core has issued an instruction that names the place of the next one (R147). What a write has made it fetch again
stays to be fetched again only where it goes on in sequence (R91). -/
def wentTo (s : State) (target : Word) : State :=
  { s with core := { s.core with
      pc := target, readyAt := max s.core.readyAt (s.now + s.period s.core.pos), dbg := false
      refetch := if target - s.core.pc = 2 ∨ target - s.core.pc = 4 then s.core.refetch else none } }

/-! ## Operands -/

/-- A source read from a bound read stream: the next element, extended as the binding states, and what is left (R85, R166). None
where the stream cannot be popped. -/
def gPop (s : State) (i : BitVec 5) (t : Stream) : Option (Word × State) :=
  if t.mode.toNat % 2 = 1 ∨ t.n0 * t.n1 * t.n2 ≤ t.next ∨ (i = 31 ∧ s.metaBusy = true) then none
  else match t.queue with
    | [] => none
    | x :: r =>
      let w : Word := if t.mode.toNat / 2 % 2 = 1 then (BitVec.ofNat (8 * t.size) x).signExtend 64 else BitVec.ofNat 64 x
      some (w, { s with core := (s.core.putG i w).setGstream i (some { t with queue := r, next := t.next + 1 }) })

/-- A g register as a source, with the state after the read: g0 is zero (R69); a bound stream register pops; within a landing
window the value is undefined, a free value (R87). -/
def gIn (s : State) (i : BitVec 5) : Option (Word × State) :=
  if i = 0 then some (0, s)
  else match s.core.gstream i with
    | some t => gPop s i t
    | none =>
      if s.core.windowOpen s.now (.g i) then some (BitVec.ofNat 64 (Config.freeNat s.free), { s with free := s.free + 1 })
      else some (s.core.g[i.toNat], s)

/-- A g register as a destination with landing latency l: g0 discards the write (R69); a bound write stream takes the low bits
of the value as its next element when the result lands (R85, R166). None where the stream cannot take one. -/
def gOut (s : State) (i : BitVec 5) (x : Word) (l : Nat) : Option State :=
  if i = 0 then some s
  else match s.core.gstream i with
    | some t =>
      if t.mode.toNat % 2 = 0 ∨ t.n0 * t.n1 * t.n2 ≤ t.next ∨ t.failed.isSome = true ∨
          16 ≤ t.queue.length + t.landing.length then none
      else some { s with
        core := s.core.setGstream i (some { t with
          landing := insertLanding (s.now + l * s.period s.core.pos, x.toNat % 2 ^ (8 * t.size)) t.landing, next := t.next + 1 }) }
    | none => some { s with
        core := ({ s.core with g := s.core.g.set i.toNat x }).openWindow (.g i) (s.now + l * s.period s.core.pos) l }

/-- The values of some g sources, read in order, with the state after the last read (R85). -/
def gsIn (s : State) : List (BitVec 5) → Option (List Word × State)
  | [] => some ([], s)
  | i :: is => match gIn s i with
    | none => none
    | some (x, t) => match gsIn t is with
      | none => none
      | some (xs, u) => some (x :: xs, u)

/-- A vector register as a source. -/
def vIn (s : State) (i : BitVec 4) : Option (VWord × State) :=
  match s.core.vstream i with
  | some t =>
    if t.mode.toNat % 2 = 1 ∨ t.n0 * t.n1 * t.n2 ≤ t.next then none
    else match t.queue with
      | [] => none
      | x :: r =>
        some (BitVec.ofNat 512 x, { s with
          core := ({ s.core with
              v := s.core.v.set i.toNat (BitVec.ofNat 512 x), vtag := s.core.vtag.set i.toNat t.tag }).setVstream i
            (some { t with queue := r, next := t.next + 1 }) })
  | none =>
    if s.core.windowOpen s.now (.v i) then some (BitVec.ofNat 512 (Config.freeNat s.free), { s with free := s.free + 1 })
    else some (s.core.v[i.toNat], s)

/-- A vector register as a destination: its tag stands at once, its bits land l cycles later (R84, R87); a gather under way to it
is replaced (R89). -/
def vOut (s : State) (i : BitVec 4) (x : VWord) (tag : Tag) (l : Nat) : Option State :=
  match s.core.vstream i with
  | some t =>
    if t.mode.toNat % 2 = 0 ∨ t.n0 * t.n1 * t.n2 ≤ t.next ∨ t.failed.isSome = true ∨
        4 ≤ t.queue.length + t.landing.length then none
    else some { s with
        core := ({ s.core with vtag := s.core.vtag.set i.toNat tag }).setVstream i (some { t with
          landing := insertLanding (s.now + l * s.period s.core.pos, x.toNat % 2 ^ (8 * t.size)) t.landing, next := t.next + 1 }) }
  | none => some { s with
      gathers := s.gathers.filter (fun g => !(g.core == s.core.pos && g.dest == i && g.append.isNone))
      core := ({ s.core with v := s.core.v.set i.toNat x, vtag := s.core.vtag.set i.toNat tag }).openWindow (.v i)
        (s.now + l * s.period s.core.pos) l }

/-- The values of some vector sources, read in order. -/
def vsIn (s : State) : List (BitVec 4) → Option (List VWord × State)
  | [] => some ([], s)
  | i :: is => match vIn s i with
    | none => none
    | some (x, t) => match vsIn t is with
      | none => none
      | some (xs, u) => some (x :: xs, u)

/-- A mask as a source: m0 is all ones (R71). -/
def mIn (s : State) (i : BitVec 3) : Word × State :=
  if i = 0 then (BitVec.allOnes 64, s)
  else if s.core.windowOpen s.now (.m i) then (BitVec.ofNat 64 (Config.freeNat s.free), { s with free := s.free + 1 })
  else (s.core.m[i.toNat], s)

/-- A mask as a destination: m0 discards the write (R71). -/
def mOut (s : State) (i : BitVec 3) (x : Word) (l : Nat) : State :=
  if i = 0 then s
  else { s with
    core := ({ s.core with m := s.core.m.set i.toNat x }).openWindow (.m i) (s.now + l * s.period s.core.pos) l }

/-- Flags that land with a result of latency l (R128). -/
def flagsOut (s : State) (f : BitVec 8) (l : Nat) : State :=
  if f = 0 then s
  else { s with core := { s.core with flagsDue := (s.now + l * s.period s.core.pos, f) :: s.core.flagsDue } }

/-- The register of a compact word (R58). -/
def low (i : BitVec 4) : BitVec 5 := BitVec.ofNat 5 i.toNat

/-- The word of a signed integer. -/
def wrap (z : Int) : Word := BitVec.ofInt 64 z

/-! ## Scalar results (R139, R140, R58) -/

/-- s of a shift (R138). -/
def sh (y : Word) : Nat := y.toNat % 64

/-- The carry-less product of two registers. -/
def carryless (x y : Word) : Nat :=
  (List.range 64).foldl (fun p k => if y.getLsbD k then p ^^^ (x.toNat * 2 ^ k) else p) 0

/-- DIV: the quotient truncated toward zero, with its two corners. -/
def quotient (x y : Word) : Word :=
  if y = 0 then BitVec.allOnes 64
  else if x.toInt = -2 ^ 63 ∧ y.toInt = -1 then wrap (-2 ^ 63)
  else wrap (x.toInt.tdiv y.toInt)

/-- REM, from the DIV result. -/
def remainder (x y : Word) : Word :=
  if y = 0 then x
  else if x.toInt = -2 ^ 63 ∧ y.toInt = -1 then 0
  else wrap (x.toInt - y.toInt * (quotient x y).toInt)

/-- p and n of BEXT and BINS. -/
def fpos (y : Word) : Nat := y.toNat % 64
def flen (y : Word) : Nat := min (y.toNat / 2 ^ 8 % 2 ^ 7) 64

/-- M of BINS. -/
def fmask (y : Word) : Word := BitVec.ofNat 64 ((2 ^ flen y - 1) * 2 ^ fpos y)

/-- The instructions of R139 with sources a and b: the constructor, the landing latency of R88, what gD receives. -/
noncomputable def scalarTwo : List ((BitVec 5 → BitVec 5 → BitVec 5 → Instr) × Nat × (Word → Word → Word)) :=
  [(.add, 1, fun x y => BitVec.ofNat 64 (x.toNat + y.toNat)),
   (.sub, 1, fun x y => wrap (x.toNat - y.toNat)),
   (.and, 1, fun x y => x &&& y),
   (.or, 1, fun x y => x ||| y),
   (.xor, 1, fun x y => x ^^^ y),
   (.andn, 1, fun x y => x &&& ~~~y),
   (.sll, 1, fun x y => BitVec.ofNat 64 (x.toNat * 2 ^ sh y)),
   (.srl, 1, fun x y => BitVec.ofNat 64 (x.toNat / 2 ^ sh y)),
   (.sra, 1, fun x y => wrap (x.toInt / 2 ^ sh y)),
   (.rol, 1, fun x y => BitVec.ofNat 64 (x.toNat * 2 ^ sh y + x.toNat / 2 ^ (64 - sh y))),
   (.ror, 1, fun x y => BitVec.ofNat 64 (x.toNat / 2 ^ sh y + x.toNat * 2 ^ (64 - sh y))),
   (.slt, 1, fun x y => if x.toInt < y.toInt then 1 else 0),
   (.sltu, 1, fun x y => if x.toNat < y.toNat then 1 else 0),
   (.min, 1, fun x y => wrap (min x.toInt y.toInt)),
   (.max, 1, fun x y => wrap (max x.toInt y.toInt)),
   (.minu, 1, fun x y => BitVec.ofNat 64 (min x.toNat y.toNat)),
   (.maxu, 1, fun x y => BitVec.ofNat 64 (max x.toNat y.toNat)),
   (.bext, 1, fun x y => BitVec.ofNat 64 (x.toNat / 2 ^ fpos y % 2 ^ flen y))]

/-- The multiplications and divisions of R139. -/
noncomputable def scalarMul : List ((BitVec 5 → BitVec 5 → BitVec 5 → Instr) × Nat × (Word → Word → Word)) :=
  [(.mul, 3, fun x y => wrap (x.toInt * y.toInt)),
   (.mulh, 3, fun x y => wrap (x.toInt * y.toInt / 2 ^ 64)),
   (.mulhu, 3, fun x y => BitVec.ofNat 64 (x.toNat * y.toNat / 2 ^ 64)),
   (.div, 20, quotient),
   (.divu, 20, fun x y => if y = 0 then BitVec.allOnes 64 else BitVec.ofNat 64 (x.toNat / y.toNat)),
   (.rem, 20, remainder),
   (.remu, 20, fun x y => if y = 0 then x else BitVec.ofNat 64 (x.toNat % y.toNat)),
   (.clmul, 3, fun x y => BitVec.ofNat 64 (carryless x y)),
   (.clmulh, 3, fun x y => BitVec.ofNat 64 (carryless x y / 2 ^ 64))]

/-- The instructions of R139 with sources a, b and d. -/
noncomputable def scalarThree : List ((BitVec 5 → BitVec 5 → BitVec 5 → Instr) × (Word → Word → Word → Word)) :=
  [(.sel, fun x y z => (x &&& z) ||| (y &&& ~~~z)),
   (.bins, fun x y z => (z &&& ~~~fmask y) ||| (BitVec.ofNat 64 (x.toNat * 2 ^ fpos y) &&& fmask y)),
   (.fshl, fun x y z => BitVec.ofNat 64 ((z.toNat * 2 ^ 64 + x.toNat) * 2 ^ sh y / 2 ^ 64)),
   (.fshr, fun x y z => BitVec.ofNat 64 ((x.toNat * 2 ^ 64 + z.toNat) / 2 ^ sh y))]

/-- The instructions of R139 with source a. -/
noncomputable def scalarOne : List ((BitVec 5 → BitVec 5 → Instr) × (Word → Word)) :=
  [(.clz, fun x => BitVec.ofNat 64 ((List.range 64).findIdx (fun k => x.getLsbD (63 - k)))),
   (.ctz, fun x => BitVec.ofNat 64 ((List.range 64).findIdx (fun k => x.getLsbD k))),
   (.popc, fun x => BitVec.ofNat 64 ((List.range 64).countP (fun k => x.getLsbD k))),
   (.bswap, fun x => BitVec.ofNat 64
      ((List.range 8).foldl (fun r i => r + x.toNat / 2 ^ (8 * i) % 256 * 2 ^ (8 * (7 - i))) 0))]

/-- The instructions of R140 with a 15-bit immediate. -/
noncomputable def scalarImm : List ((BitVec 5 → BitVec 5 → BitVec 15 → Instr) × (Word → BitVec 15 → Word)) :=
  [(.addi, fun x n => wrap (x.toNat + n.toInt)),
   (.andi, fun x n => x &&& BitVec.ofNat 64 n.toNat),
   (.ori, fun x n => x ||| BitVec.ofNat 64 n.toNat),
   (.xori, fun x n => x ^^^ BitVec.ofNat 64 n.toNat),
   (.slti, fun x n => if x.toInt < n.toInt then 1 else 0),
   (.lih, fun x n => BitVec.ofNat 64 (x.toNat * 2 ^ 15 + n.toNat))]

/-- The shifts of R140. -/
noncomputable def scalarShiftImm : List ((BitVec 5 → BitVec 5 → BitVec 6 → Instr) × (Word → BitVec 6 → Word)) :=
  [(.slli, fun x n => BitVec.ofNat 64 (x.toNat * 2 ^ n.toNat)),
   (.srli, fun x n => BitVec.ofNat 64 (x.toNat / 2 ^ n.toNat)),
   (.srai, fun x n => wrap (x.toInt / 2 ^ n.toNat))]

/-- The two-address scalar words of R58: g(D) is the first source, then g(A). -/
noncomputable def compactTwo : List ((BitVec 4 → BitVec 4 → Instr) × (Word → Word → Word)) :=
  [(.addC, fun x y => BitVec.ofNat 64 (x.toNat + y.toNat)),
   (.subC, fun x y => wrap (x.toNat - y.toNat)),
   (.andC, fun x y => x &&& y),
   (.orC, fun x y => x ||| y),
   (.xorC, fun x y => x ^^^ y),
   (.andnC, fun x y => x &&& ~~~y),
   (.sllC, fun x y => BitVec.ofNat 64 (x.toNat * 2 ^ sh y)),
   (.srlC, fun x y => BitVec.ofNat 64 (x.toNat / 2 ^ sh y)),
   (.sraC, fun x y => wrap (x.toInt / 2 ^ sh y)),
   (.minC, fun x y => wrap (min x.toInt y.toInt)),
   (.maxC, fun x y => wrap (max x.toInt y.toInt))]

/-- The scalar words of R58 with a 4-bit immediate. -/
noncomputable def compactImm : List ((BitVec 4 → BitVec 4 → Instr) × (Word → BitVec 4 → Word)) :=
  [(.addiC, fun x n => wrap (x.toNat + n.toInt)),
   (.slliC, fun x n => BitVec.ofNat 64 (x.toNat * 2 ^ n.toNat)),
   (.srliC, fun x n => BitVec.ofNat 64 (x.toNat / 2 ^ n.toNat)),
   (.sraiC, fun x n => wrap (x.toInt / 2 ^ n.toNat))]

/-! ## Floating point on g registers (R141-R143) -/

/-- An operand of a format: the register's low bits. -/
def fop (F : Fmt) (x : Word) : Nat := x.toNat % 2 ^ F.w

/-- The relations of FCMP as a register value with its flags. -/
def related (F : Fmt) (c : Cmp) (x y : Nat) : Nat × Fl := (if (fcmp F c x y).1 then 1 else 0, (fcmp F c x y).2)

/-- A code with its sign bit made b. -/
def withSign (F : Fmt) (x : Nat) (b : Bool) : Nat := x % 2 ^ (F.w - 1) + (if b then 2 ^ (F.w - 1) else 0)

/-- The instructions of R141 with two sources: format, latency, result and flags. -/
noncomputable def floatTwo : List ((BitVec 5 → BitVec 5 → BitVec 5 → Instr) × Fmt × Nat × (Nat → Nat → Nat × Fl)) :=
  [(.faddD, fp64, 4, fadd fp64), (.fsubD, fp64, 4, fsub fp64), (.fmulD, fp64, 4, fmul fp64), (.fdivD, fp64, 22, fdiv fp64),
   (.fminD, fp64, 4, fminmax fp64 false), (.fmaxD, fp64, 4, fminmax fp64 true),
   (.fcmpEqD, fp64, 1, related fp64 .eq), (.fcmpLtD, fp64, 1, related fp64 .lt), (.fcmpLeD, fp64, 1, related fp64 .le),
   (.fcmpUnD, fp64, 1, related fp64 .un),
   (.fmvCpsD, fp64, 1, fun x y => (withSign fp64 x (y.testBit 63), 0)),
   (.faddS, fp32, 3, fadd fp32), (.fsubS, fp32, 3, fsub fp32), (.fmulS, fp32, 3, fmul fp32), (.fdivS, fp32, 12, fdiv fp32),
   (.fminS, fp32, 3, fminmax fp32 false), (.fmaxS, fp32, 3, fminmax fp32 true),
   (.fcmpEqS, fp32, 1, related fp32 .eq), (.fcmpLtS, fp32, 1, related fp32 .lt), (.fcmpLeS, fp32, 1, related fp32 .le),
   (.fcmpUnS, fp32, 1, related fp32 .un),
   (.fmvCpsS, fp32, 1, fun x y => (withSign fp32 x (y.testBit 31), 0))]

/-- The instructions of R141 with one source. -/
noncomputable def floatOne : List ((BitVec 5 → BitVec 5 → Instr) × Fmt × Nat × (Nat → Nat × Fl)) :=
  [(.fsqrtD, fp64, 22, fsqrt fp64), (.fmvNegD, fp64, 1, fun x => (withSign fp64 x (!x.testBit 63), 0)),
   (.fmvAbsD, fp64, 1, fun x => (withSign fp64 x false, 0)),
   (.fsqrtS, fp32, 12, fsqrt fp32), (.fmvNegS, fp32, 1, fun x => (withSign fp32 x (!x.testBit 31), 0)),
   (.fmvAbsS, fp32, 1, fun x => (withSign fp32 x false, 0))]

/-- The fused multiply-adds of R141. -/
noncomputable def floatThree : List ((BitVec 5 → BitVec 5 → BitVec 5 → Instr) × Fmt × Nat) := [(.ffmaD, fp64, 5), (.ffmaS, fp32, 4)]

/-- The rounding mode that a code names: 0 is CRND's (R63, R120). -/
def modeNamed (crnd : BitVec 2) (r : BitVec 4) : Mode :=
  if r = 0 then modeOf crnd else if r = 1 then .rne else if r = 2 then .rtz else if r = 3 then .rup else .rdn

/-- The conversions of R142: the source's width, and what a value becomes in a mode (R126). -/
noncomputable def conversions : List ((BitVec 5 → BitVec 5 → BitVec 4 → Instr) × Nat × (Mode → Nat → Nat × Fl)) :=
  [(.fcvtDS, 32, floatToFloat fp32 fp64), (.fcvtSD, 64, floatToFloat fp64 fp32),
   (.fcvtDL, 64, fun m x => intToFloat fp64 m (BitVec.ofNat 64 x).toInt), (.fcvtDLu, 64, fun m x => intToFloat fp64 m x),
   (.fcvtSL, 64, fun m x => intToFloat fp32 m (BitVec.ofNat 64 x).toInt), (.fcvtSLu, 64, fun m x => intToFloat fp32 m x),
   (.fcvtLD, 64, fun m x => let r := floatToInt true 64 m (decodeF fp64 x); ((wrap r.1).toNat, r.2)),
   (.fcvtLuD, 64, fun m x => let r := floatToInt false 64 m (decodeF fp64 x); ((wrap r.1).toNat, r.2)),
   (.fcvtLS, 32, fun m x => let r := floatToInt true 64 m (decodeF fp32 x); ((wrap r.1).toNat, r.2)),
   (.fcvtLuS, 32, fun m x => let r := floatToInt false 64 m (decodeF fp32 x); ((wrap r.1).toNat, r.2))]

/-! ## Control flow (R144-R148) -/

/-- The target of a branch of o halfwords. -/
def target (s : State) (o : BitVec n) : Word := s.core.pc + wrap (o.toInt * 2)

/-- The branches of R144 with the relation under which each is taken. -/
def branches : List ((BitVec 5 → BitVec 5 → BitVec 15 → Instr) × (Word → Word → Bool)) :=
  [(.beq, fun x y => decide (x = y)), (.bne, fun x y => decide (x ≠ y)),
   (.blt, fun x y => decide (x.toInt < y.toInt)), (.bge, fun x y => decide (y.toInt ≤ x.toInt)),
   (.bltu, fun x y => decide (x.toNat < y.toNat)), (.bgeu, fun x y => decide (y.toNat ≤ x.toNat))]

/-- The compact branches of R59. -/
noncomputable def compactBranches : List ((BitVec 4 → BitVec 4 → BitVec 2 → Instr) × (Word → Bool)) :=
  [(.bzC, fun x => decide (x = 0)), (.bnzC, fun x => decide (x ≠ 0))]

/-- A branch outcome at a target: the target's instruction, or WINDOW when it lies outside local memory (R48). -/
def goes (s t : State) (u : Word) : State := if u.toNat < 0x20000 then wentTo t u else s.takeTrap false 4 u 0

/-! ## Own local memory (R152-R160) -/

/-- The effective address of an FM word (R52). -/
def ea (x : Word) (o : BitVec 13) (n : Nat) : Nat := (wrap (x.toNat + o.toInt * n)).toNat

/-- An access of n bytes at local address v as one piece. -/
def ownSeg (s : State) (v n : Nat) : Seg := ⟨localPlace s.core.pos v, localPlace s.core.pos v, n, v⟩

/-- n bytes at local address v are bytes of barrier words or of status objects, 16 bytes each, of which a load is no data access
(R325). -/
def objectAt (s : State) (v n : Nat) : Bool :=
  !s.objects.isEmpty &&
  (List.range ((v % 16 + n + 15) / 16)).all (fun i => s.objects.contains (localPlace s.core.pos (v / 16 * 16 + 16 * i), 16))

/-- The lines, with the addresses they are named by, of the data accesses among accesses of n bytes at v, (v, n) in a list (R325). -/
def dataLines (s : State) (vs : List (Nat × Nat)) (k : AccKind) : List (Nat × Nat) :=
  (vs.filter (fun e => !(decide (k = .load) && objectAt s e.1 e.2))).flatMap (fun e => (ownSeg s e.1 e.2).lines)

/-- An access to ordinary bytes of the own local memory, n bytes at each v of a list, passes the rows of R152: they lie there,
outside the register areas (R78); no race check applies (R326, R336) or none fails; a load meets no poison. -/
def ownOk (s : State) (vs : List (Nat × Nat)) (k : AccKind) : Prop :=
  s.core.pos < 49152 ∧ (∀ e ∈ vs, 0 < e.2 ∧ e.1 + e.2 ≤ 0x20000 ∧ s.core.noArea e.1 e.2 = true ∧
    (k = .store ∨ ∀ g ∈ (ownSeg s e.1 e.2).granules, s.poisoned g.1 = false)) ∧
  (s.core.timed = true ∨ s.core.inh = true ∨ s.raceCheck s.core.pos k (dataLines s vs k) = none)

/-- What such an access leaves behind: its marks (R326, R336); bytes that a store writes are ordinary data from then on
(R325). -/
def noted (s : State) (vs : List (Nat × Nat)) (k : AccKind) : State :=
  let t := if k = .store then { s with objects := s.objects.filter (fun o => !vs.any (fun e =>
      decide (o.1 < localPlace s.core.pos e.1 + e.2) && decide (localPlace s.core.pos e.1 < o.1 + o.2))) } else s
  if s.core.timed = true ∨ s.core.inh = true then t else t.markAll s.core.pos k ((dataLines s vs k).map Prod.fst).eraseDups

/-- Bytes are stored at local address v: visible at once in free code, a cycle later in timed code (R33). -/
def stored (s : State) (v : Nat) (bs : List Byte) : State :=
  if s.core.timed = true then
    { s with later := insertLater ⟨s.now + s.period s.core.pos, s.core.pos, localPlace s.core.pos v, bs, []⟩ s.later }
  else s.storeBy true (localPlace s.core.pos v) bs

/-- An atomic's bytes are written at once in either mode (R172). -/
def storedNow (s : State) (v : Nat) (bs : List Byte) : State := s.storeBy true (localPlace s.core.pos v) bs

/-- The stores of the current core have been performed, or it is in timed code: nothing that a release awaits (R328). -/
def allPerformed (s : State) : Prop := s.core.timed = true ∨ ∀ e ∈ s.later, e.core ≠ s.core.pos

/-- An access of n bytes at address v outside the own local memory, in free code, reaches memory at a place: of another core of the
region in the cluster, of the own group's scratchpad, or of virtual memory that lies in HBM5 (R150). Every row of R152 is passed, no
request waits at a unit or stands in its queue (R354), no bank is held (R219), and no object of R325 is named. -/
def reaches (s : State) (v n : Nat) (k : AccKind) (place : Nat) : Prop :=
  s.core.pos < 49152 ∧ s.core.timed = false ∧ s.objects = [] ∧ s.engines = [] ∧ s.corrupt = [] ∧ s.tcache = [] ∧ 0 < n ∧ v % n = 0 ∧
  ∃ home, s.raceCheck s.core.pos k (Seg.lines ⟨place, home, n, v⟩) = none ∧
    (k = .store ∨ ∀ g ∈ Seg.granules ⟨place, home, n, v⟩, s.poisoned g.1 = false) ∧
    ((∃ j off, j < 192 ∧ clusterCore s.core.pos j ≠ s.core.pos ∧ v = 0x40000000 + j * 0x20000 + off ∧ off + n ≤ 0x20000 ∧
        s.owner (clusterCore s.core.pos j) = s.owner s.core.pos ∧ (s.coreAt (clusterCore s.core.pos j)).inWorkspace off n = false ∧
        place = localPlace (clusterCore s.core.pos j) off ∧ home = place) ∨
     (∃ j off, j < 12 ∧ clusterGroup s.core.pos j = groupOf s.core.pos ∧ v = 0x44000000 + j * 0x400000 + off ∧ off + n ≤ 0x400000 ∧
        s.assigned (groupOf s.core.pos) = s.owner s.core.pos ∧ (s.groupAt (groupOf s.core.pos)).pairs = [] ∧
        (s.groupAt (groupOf s.core.pos)).banks = [] ∧ place = spadPlace (groupOf s.core.pos) off ∧ home = place) ∨
     (∃ y, 2 ^ 32 ≤ v ∧ v + n ≤ 2 ^ 48 ∧ v % 65536 + n ≤ 65536 ∧ s.xlate 8 (s.owner s.core.pos) v k = .ok y ∧
        (k = .load ∨ s.lineagePage (s.owner s.core.pos) v = false) ∧ linkOf (s.frame (y.pa / 65536)) = none ∧
        s.isCompressed (s.frame (y.pa / 65536)) = false ∧
        (∀ r, s.region? (s.owner s.core.pos) = some r → y.pa / 65536 ∉ r.lost) ∧
        place = s.physPlace y.pa ∧ home = 2 ^ 36 + y.pa))

/-- An aligned access of n bytes at address v fails a row of R152 first: the cause and XVAL of its trap, and the region whose stage
faults, 0 for the own (R150, R401). Row 2: no window. Row 4 or 5: another region's core or scratchpad, a mailbox counter but for a load
of 4 bytes. Row 6: translation. Row 7: a race with ordinary bytes of the own local memory. Row 8: poison there. -/
def trapsOf (s : State) (v n : Nat) (k : AccKind) (cause : Nat) (x : Word) (stage : RegionId) : Prop :=
  v % n = 0 ∧
  ((((0x20000 ≤ v ∧ v < 0x40000000) ∨ (0x41800000 ≤ v ∧ v < 0x44000000) ∨ (0x47000000 ≤ v ∧ v < 0x60000000) ∨
      (0x60C00000 ≤ v ∧ v < 2 ^ 32) ∨ 2 ^ 48 ≤ v) ∧ s.core.pos < 49152 ∧ cause = 4 ∧ x = BitVec.ofNat 64 v ∧ stage = 0) ∨
   (∃ j off, j < 192 ∧ v = 0x40000000 + j * 0x20000 + off ∧ off + n ≤ 0x20000 ∧
      s.owner (clusterCore s.core.pos j) ≠ s.owner s.core.pos ∧ cause = 6 ∧ x = BitVec.ofNat 64 v ∧ stage = 0) ∨
   (∃ j off, j < 12 ∧ v = 0x44000000 + j * 0x400000 + off ∧ off + n ≤ 0x400000 ∧
      s.assigned (clusterGroup s.core.pos j) ≠ s.owner s.core.pos ∧ cause = 6 ∧ x = BitVec.ofNat 64 v ∧ stage = 0) ∨
   (∃ off, s.core.pos < 49152 ∧ v = 0x60000000 + s.core.pos * 0x100 + off ∧ off + n ≤ 0x100 ∧ ¬ (n = 4 ∧ k = .load) ∧
      cause = 6 ∧ x = BitVec.ofNat 64 v ∧ stage = 0) ∨
   (∃ f, s.core.timed = false ∧ s.tcache = [] ∧ 2 ^ 32 ≤ v ∧ v + n ≤ 2 ^ 48 ∧ s.xlate 8 (s.owner s.core.pos) v k = .error f ∧
      cause = (if f.perm then 6 else 5) ∧ x = BitVec.ofNat 64 (f.addr / 65536 * 65536) ∧
      stage = (if f.stage = s.owner s.core.pos then 0 else f.stage)) ∨
   (v + n ≤ 0x20000 ∧ s.core.noArea v n = true ∧ s.core.timed = false ∧ s.core.inh = false ∧
      s.raceCheck s.core.pos k (dataLines s [(v, n)] k) = some x ∧ cause = 7 ∧ stage = 0) ∨
   (v + n ≤ 0x20000 ∧ s.core.noArea v n = true ∧ k ≠ .store ∧
      (s.core.timed = true ∨ s.core.inh = true ∨ s.raceCheck s.core.pos k (dataLines s [(v, n)] k) = none) ∧
      (∃ g, ((ownSeg s v n).granules.find? (fun e => s.poisoned e.1)) = some g ∧ x = BitVec.ofNat 64 g.2) ∧ cause = 12 ∧ stage = 0))

/-- The integer that n bytes hold, signed. -/
def signedOf (n x : Nat) : Int := if x < 2 ^ (8 * n - 1) then x else (x : Int) - 2 ^ (8 * n)

/-- The loads of R153: the constructor, S, and whether the value is sign-extended. -/
def loads : List ((BitVec 5 → BitVec 5 → BitVec 13 → Instr) × Nat × Bool) :=
  [(.ldB, 1, true), (.ldH, 2, true), (.ldW, 4, true), (.ldD, 8, true), (.ldBu, 1, false), (.ldHu, 2, false), (.ldWu, 4, false)]

/-- The stores of R153. -/
def stores : List ((BitVec 5 → BitVec 5 → BitVec 13 → Instr) × Nat) := [(.stB, 1), (.stH, 2), (.stW, 4), (.stD, 8)]

/-- The registers of a widened group. -/
def widened (d n : Nat) : List (BitVec 4) := (List.range n).map (fun i => BitVec.ofNat 4 (d + i))

/-- The registers of a group take strips, register D + i landing i cycles after the first; a bound stream register appends a
strip that is not loaded (R155), a free value (log 13). -/
def stripsOut (l : Nat) (bs : List Byte) : Nat → List (BitVec 4) → State → Option State
  | _, [], s => some s
  | i, r :: rs, s =>
    match (if (s.core.vstream r).isSome then vOut { s with free := s.free + 1 } r (BitVec.ofNat 512 (Config.freeNat s.free)) 1 (l + i)
      else vOut s r (BitVec.ofNat 512 (leNat ((bs.drop (64 * i)).take 64))) 1 (l + i)) with
    | none => none
    | some t => stripsOut l bs (i + 1) rs t

/-- The strips of a group at v that are transferred: those of the registers that are no bound stream registers (R155). -/
def strips (c : Core) (v : Nat) (rs : List (BitVec 4)) : List (Nat × Nat) :=
  ((List.range rs.length).filter (fun i => (c.vstream (rs.getD i 0)).isNone)).map (fun i => (v + 64 * i, 64))

/-- Strips are stored at 64-byte steps; one that a bound stream register gave is not (R155). -/
def stripsStored (s : State) (v : Nat) : List (Option VWord) → State
  | [] => s
  | none :: r => stripsStored s (v + 64) r
  | some x :: r => stripsStored (stored s v (leBytes 64 x.toNat)) (v + 64) r

/-- The registers of an LDM take words, register D + i landing i cycles after the first. -/
def wordsOut (d l : Nat) (bs : List Byte) : Nat → Nat → State → Option State
  | 0, _, s => some s
  | n + 1, i, s => match gOut s (BitVec.ofNat 5 (d + i)) (BitVec.ofNat 64 (leNat ((bs.drop (8 * i)).take 8))) (l + i) with
    | none => none
    | some t => wordsOut d l bs n (i + 1) t

/-- The registers of an LDM or STM. -/
def rangeOf (d b : BitVec 5) : List (BitVec 5) := (List.range (b.toNat + 1)).map (fun i => BitVec.ofNat 5 (d.toNat + i))

/-- The local addresses of a tile's rows. -/
def rows (x y : Word) : List Nat := (List.range 16).map (fun r => x.toNat + r * (y.toNat % 2 ^ 24))

/-- An LDT or STT of ordinary bytes of the own local memory passes its checks (R159, R152): the races of all rows are checked
before any row moves (R339). -/
def rowsOk (s : State) (x y : Word) (k : AccKind) : Prop :=
  x.toNat % 64 = 0 ∧ y.toNat % 2 ^ 24 % 64 = 0 ∧ tagAssigned (y.toNat / 2 ^ 24 % 32) = true ∧
  ownOk s ((rows x y).map (fun v => (v, 64))) k

/-! ## Atomics (R172, R173) -/

/-- The functions of R66 on two values of n bytes. -/
def amoNew (f : AmoFn) (n old b : Nat) : Nat :=
  match f with
  | .add => (old + b) % 2 ^ (8 * n)
  | .and => old &&& b
  | .or => old ||| b
  | .xor => old ^^^ b
  | .min => if signedOf n old < signedOf n b then old else b
  | .max => if signedOf n old < signedOf n b then b else old
  | .minu => min old b
  | .maxu => max old b
  | .swap => b

/-- The unordered atomics. -/
def amoPlain : List ((BitVec 5 → BitVec 5 → BitVec 5 → BitVec 1 → Instr) × AmoFn) :=
  [(.amoAdd, .add), (.amoAnd, .and), (.amoOr, .or), (.amoXor, .xor), (.amoMin, .min), (.amoMax, .max), (.amoMinu, .minu),
   (.amoMaxu, .maxu), (.amoSwap, .swap)]

/-- The atomics with acquire (true for release). -/
def amoOrdered : List ((BitVec 5 → BitVec 5 → BitVec 5 → BitVec 5 → BitVec 1 → Instr) × AmoFn × Bool) :=
  [(.amoAddAcq, .add, false), (.amoAndAcq, .and, false), (.amoOrAcq, .or, false), (.amoXorAcq, .xor, false),
   (.amoMinAcq, .min, false), (.amoMaxAcq, .max, false), (.amoMinuAcq, .minu, false), (.amoMaxuAcq, .maxu, false),
   (.amoSwapAcq, .swap, false), (.amoAddRel, .add, true), (.amoAndRel, .and, true), (.amoOrRel, .or, true),
   (.amoXorRel, .xor, true), (.amoMinRel, .min, true), (.amoMaxRel, .max, true), (.amoMinuRel, .minu, true),
   (.amoMaxuRel, .maxu, true), (.amoSwapRel, .swap, true)]

/-- Bytes of an atomic. -/
def amoSize (b : BitVec 1) : Nat := if b = 0 then 4 else 8

/-- The old value at a local address. -/
def oldAt (s : State) (v n : Nat) : Nat := s.getNat (localPlace s.core.pos v) n

/-! ## Waits (R175-R178) -/

/-- A wait that is satisfied as it issues: the core's region ends (R328), and the next instruction issues in the next cycle
(R30). -/
def passed (s : State) : State :=
  let t := s.endRegion s.core.pos
  went { t with core := { t.core with status := .running, readyAt := s.now, popped := [] } } 4

/-- The current core stands at a wait, having read its operands since the state s; what it has popped for them goes back if the wait
is abandoned (R178, R385). -/
def stands (s t : State) (w : Wait) : State :=
  { t with core := { t.core with
      status := .waiting w, readyAt := t.now + t.period t.core.pos, dbg := false, popped := t.core.poppedSince s.core } }

/-- A wait that is not satisfied as it issues. -/
def waits (s t : State) (w : Wait) : State := stands s (t.endRegion t.core.pos) w

/-- The scope that an operand names: none where the field C is 0, else the register's value (R171). -/
def scopeIn (c : BitVec 5) (z : Word) : Option Word := if c = 0 then none else some z

/-! ## Lanes (R70, R71, R184-R186) -/

/-- XVAL of a TAG trap: the tag that was found, the register, and the operand, 0 D, 1 A, 2 B, 4 the layout word (R83). -/
def tagWord (found reg operand : Nat) : Word := BitVec.ofNat 64 (found % 32 + reg % 32 * 2 ^ 8 + operand * 2 ^ 13)

/-- Lane j of width w of a register. -/
def lane (w : Nat) (x : VWord) (j : Nat) : Nat := x.toNat / 2 ^ (w * j) % 2 ^ w

/-- A register of which lane j is f j. -/
def ofLanes (w : Nat) (f : Nat → Nat) : VWord :=
  BitVec.ofNat 512 ((List.range (512 / w)).foldl (fun a j => a + f j % 2 ^ w * 2 ^ (w * j)) 0)

/-- The sources of an instruction carry type T: the common tag, of an admitted class, for type code 0, else that of the code
(R184). -/
def typed (cls : Nat → Bool) (code : BitVec 4) (s : State) (srcs : List (BitVec 4)) (T : Nat) : Prop :=
  (if code = 0 then cls T = true else codeTag code = T ∧ T ≠ 0) ∧ ∀ r ∈ srcs, (s.core.tagV r).toNat = T

/-- Results of all lanes go to one register with their flags (R185, R188). -/
def laneOut (s : State) (d : BitVec 4) (w T l : Nat) (f : Nat → Nat × Fl) : Option State :=
  (vOut s d (ofLanes w (fun j => (f j).1)) (BitVec.ofNat 5 T) l).map (fun u =>
    flagsOut u ((List.range (512 / w)).foldl (fun a j => a ||| (f j).2) 0) l)

/-- Results go to a widened group, register D + i landing i cycles after D (R186). -/
def groupOut (base w T l : Nat) (f : Nat → Nat × Fl) : Nat → Nat → State → Option State
  | 0, _, s => some s
  | n + 1, i, s => match laneOut s (BitVec.ofNat 4 (base + i)) w T (l + i) (fun j => f (i * (512 / w) + j)) with
    | none => none
    | some t => groupOut base w T l f n (i + 1) t

/-- Element j of a widened group. -/
def element (w : Nat) (xs : List VWord) (j : Nat) : Nat := lane w (xs.getD (j / (512 / w)) 0) (j % (512 / w))

/-- An integer result wraps in its type; a float one is rounded (R185). -/
def numLane (fi : Int → Int → Int) (ff : Fmt → Nat → Nat → Nat × Fl) (T x y : Nat) : Nat × Fl :=
  if tagFlt T then ff (tagFmt T) x y
  else ((fi (laneInt T x) (laneInt T y) % 2 ^ tagWidth T).toNat, 0)

/-- A result of bits: no flag. -/
def bitLane (f : Nat → Nat → Nat → Nat) (T x y : Nat) : Nat × Fl := (f (tagWidth T) x y % 2 ^ tagWidth T, 0)

/-- The integer of w bits, signed. -/
def sx (w x : Nat) : Int := if x < 2 ^ (w - 1) then x else (x : Int) - 2 ^ w

/-- The bits of x at the positions where y holds a one, packed from bit 0 upward. -/
def packed (w x y : Nat) : Nat :=
  (((List.range w).filter (fun i => y.testBit i)).mapIdx (fun k i => if x.testBit i then 2 ^ k else 0)).sum

/-- The two-source lane instructions of R188 and R190: admitted class, latency, the result of a lane. -/
noncomputable def vectorTwo : List ((BitVec 4 → BitVec 4 → BitVec 4 → BitVec 4 → Instr) × (Nat → Bool) × Nat × (Nat → Nat → Nat → Nat × Fl)) :=
  [(.vadd, tagNum, 2, numLane (fun x y => x + y) fadd), (.vsub, tagNum, 2, numLane (fun x y => x - y) fsub),
   (.vmul, tagNum, 4, numLane (fun x y => x * y) fmul), (.vmin, tagNum, 2, numLane min (fun F => fminmax F false)),
   (.vmax, tagNum, 2, numLane max (fun F => fminmax F true)),
   (.vavg, tagInt, 2, fun T x y => (((laneInt T x + laneInt T y + 1) / 2 % 2 ^ tagWidth T).toNat, 0)),
   (.vand, tagIntBits, 2, bitLane (fun _ x y => x &&& y)), (.vor, tagIntBits, 2, bitLane (fun _ x y => x ||| y)),
   (.vxor, tagIntBits, 2, bitLane (fun _ x y => x ^^^ y)),
   (.vandn, tagIntBits, 2, bitLane (fun w x y => x &&& (2 ^ w - 1 - y))),
   (.vshl, tagInt, 2, bitLane (fun w x y => x * 2 ^ (y % w))), (.vshr, tagInt, 2, bitLane (fun w x y => x / 2 ^ (y % w))),
   (.vsra, tagInt, 2, bitLane (fun w x y => (sx w x / 2 ^ (y % w) % 2 ^ w).toNat)), (.vbext, tagInt, 2, bitLane packed)]

/-- The unary lane instructions of R188, R190 and R204. -/
noncomputable def vectorOne : List ((BitVec 4 → BitVec 4 → BitVec 4 → Instr) × (Nat → Bool) × Nat × (Nat → Nat → Nat × Fl)) :=
  [(.vabs, tagSigned, 2, fun T x => if tagFlt T then (x % 2 ^ (tagWidth T - 1), 0) else
      let r := satInt (tagSint T) (tagWidth T) ((laneInt T x).natAbs : Int); ((r.1 % 2 ^ tagWidth T).toNat, r.2)),
   (.vneg, tagSigned, 2, fun T x => if tagFlt T then (x ^^^ 2 ^ (tagWidth T - 1), 0) else
      let r := satInt (tagSint T) (tagWidth T) (-laneInt T x); ((r.1 % 2 ^ tagWidth T).toNat, r.2)),
   (.vrelu, tagSigned, 2, laneRelu),
   (.vpopc, tagInt, 2, fun T x => bitLane (fun w x _ => (List.range w).countP (fun i => x.testBit i)) T x 0),
   (.vclz, tagInt, 2, fun T x => bitLane (fun w x _ => (List.range w).findIdx (fun i => x.testBit (w - 1 - i))) T x 0),
   (.vexp2, tagFlt, 8, fun T => fexp2 (tagFmt T)), (.vlog2, tagFlt, 8, fun T => flog2 (tagFmt T)),
   (.vrcp, tagFlt, 8, fun T => frcp (tagFmt T)), (.vrsqrt, tagFlt, 8, fun T => frsqrt (tagFmt T))]

/-- The lane instructions with D as a third source (R188, R190). -/
noncomputable def vectorThree : List ((BitVec 4 → BitVec 4 → BitVec 4 → BitVec 4 → Instr) × (Nat → Bool) × Nat × (Nat → Nat → Nat → Nat → Nat × Fl)) :=
  [(.vfma, tagNum, 4, fun T x y z => if tagFlt T then ffma (tagFmt T) x y z else
      (((laneInt T x * laneInt T y + laneInt T z) % 2 ^ tagWidth T).toNat, 0)),
   (.vfms, tagNum, 4, fun T x y z => if tagFlt T then fmaMix (tagFmt T) (tagFmt T) true x y z else
      (((laneInt T z - laneInt T x * laneInt T y) % 2 ^ tagWidth T).toNat, 0)),
   (.vfshl, tagInt, 2, fun T x y z => ((z * 2 ^ tagWidth T + x) * 2 ^ (y % tagWidth T) / 2 ^ tagWidth T % 2 ^ tagWidth T, 0))]

/-- The compact two-source lane words of R57: vD is the first source, then vA. -/
noncomputable def compactLanes : List ((BitVec 4 → BitVec 4 → Instr) × (Nat → Bool) × Nat × (Nat → Nat → Nat → Nat × Fl)) :=
  [(.vaddC, tagNum, 2, numLane (fun x y => x + y) fadd), (.vsubC, tagNum, 2, numLane (fun x y => x - y) fsub),
   (.vmulC, tagNum, 4, numLane (fun x y => x * y) fmul), (.vminC, tagNum, 2, numLane min (fun F => fminmax F false)),
   (.vmaxC, tagNum, 2, numLane max (fun F => fminmax F true)),
   (.vandC, tagIntBits, 2, bitLane (fun _ x y => x &&& y)), (.vorC, tagIntBits, 2, bitLane (fun _ x y => x ||| y)),
   (.vxorC, tagIntBits, 2, bitLane (fun _ x y => x ^^^ y)),
   (.vshlC, tagInt, 2, bitLane (fun w x y => x * 2 ^ (y % w))), (.vshrC, tagInt, 2, bitLane (fun w x y => x / 2 ^ (y % w))),
   (.vavgC, tagInt, 2, fun T x y => (((laneInt T x + laneInt T y + 1) / 2 % 2 ^ tagWidth T).toNat, 0))]

/-- The compact unary lane words. -/
noncomputable def compactLane : List ((BitVec 4 → BitVec 4 → Instr) × (Nat → Nat → Nat × Fl)) :=
  [(.vnegC, laneNeg), (.vabsC, laneAbs), (.vreluC, laneRelu)]

/-- A mask of which the bits of lane j's bytes are all c j (R71). -/
def maskOf (w : Nat) (c : Nat → Bool) : Word :=
  BitVec.ofNat 64 ((List.range 64).foldl (fun a i => a + (if c (i / (w / 8)) then 2 ^ i else 0)) 0)

/-- The compares of R192. -/
noncomputable def compares : List ((BitVec 3 → BitVec 4 → BitVec 4 → BitVec 4 → Instr) × Cmp) :=
  [(.vcmpEq, .eq), (.vcmpNe, .ne), (.vcmpLt, .lt), (.vcmpLe, .le), (.vcmpGt, .gt), (.vcmpGe, .ge), (.vcmpUn, .un)]

/-- A relation of two integers; .UN never holds. -/
def intRel (c : Cmp) (x y : Int) : Bool :=
  match c with
  | .eq => decide (x = y) | .ne => decide (x ≠ y) | .lt => decide (x < y) | .le => decide (x ≤ y)
  | .gt => decide (y < x) | .ge => decide (y ≤ x) | .un => false

/-- A relation of two lanes with its flags. -/
def laneRel (c : Cmp) (T x y : Nat) : Bool × Fl :=
  if tagFlt T then fcmp (tagFmt T) c x y else (intRel c (laneInt T x) (laneInt T y), 0)

/-- The mask bit that governs lane j (R71). -/
def governs (m : Word) (w j : Nat) : Bool := m.getLsbD (w * j / 8)

/-- The wide type of VMACC (R189). -/
def wideOf (T n : Nat) : Option Nat :=
  if n = 1 then some T
  else if n = 2 then (if T = 4 then some 6 else if T = 5 then some 7 else if T = 6 then some 8 else if T = 7 then some 9
    else if T = 13 ∨ T = 14 then some 15 else none)
  else if n = 4 then (if T = 4 then some 8 else if T = 5 then some 9 else none)
  else none

/-- An element of VMACC. -/
def maccLane (T Tw x y z : Nat) : Nat × Fl :=
  if tagFlt Tw then fmaMix (tagFmt T) (tagFmt Tw) false x y z
  else (((laneInt Tw z + laneInt T x * laneInt T y) % 2 ^ tagWidth Tw).toNat, 0)

/-- The carry-less product of two lanes. -/
def carrylessOf (w x y : Nat) : Nat := (List.range w).foldl (fun p k => if y.testBit k then p ^^^ (x * 2 ^ k) else p) 0

/-- A source value of VCVT: a C4 code selects an entry of the group's codebook (R195). -/
def cvtLane (s : State) (S T : Nat) (m : Mode) (v : Nat) : Nat × Fl :=
  if 16 ≤ S then
    laneConvert 13 T m
      (((s.groupAt (groupOf s.core.pos)).codebook.toList.getD (S - 16) (Vector.replicate 16 0)).toList.getD v 0).toNat
  else laneConvert S T m v

/-- The lanes that MPOP and MFIRST count. -/
def counted (m : Word) (b : BitVec 2) (j : Nat) : Bool := m.getLsbD (j * 2 ^ b.toNat)

/-- The addresses of the elements of a gather or scatter, by lane (R201). -/
def elementAddr (w : Nat) (b : Word) (x : VWord) : List Nat := (List.range (512 / w)).map (fun j => (b.toNat + lane w x j * (w / 8)) % 2 ^ 64)

/-- Elements of n bytes pass row 4 of R202 lane by lane, each leaving its marks: from s to u. -/
def lanesPass (n : Nat) (k : AccKind) : List Nat → State → State → Prop
  | [], s, u => u = s
  | v :: r, s, u => ownOk s [(v, n)] k ∧ lanesPass n k r (noted s [(v, n)] k) u

/-- A gather or scatter passes the checks of R202, from s to u. -/
def elementsPass (w : Nat) (b : Word) (x : VWord) (k : AccKind) (s u : State) : Prop :=
  b.toNat % (w / 8) = 0 ∧ (∀ v ∈ elementAddr w b x, v + w / 8 ≤ 0x20000 ∧ s.core.noArea v (w / 8) = true) ∧
  lanesPass (w / 8) k (elementAddr w b x) s u

/-- The inclusive prefix of VSCAN at lane j, with the flags of its last addition (R198). -/
def prefixAt (T w : Nat) (x : VWord) : Nat → Nat × Fl
  | 0 => (lane w x 0, 0)
  | j + 1 => numLane (fun x y => x + y) fadd T (prefixAt T w x j).1 (lane w x (j + 1))

/-- Whether lane i of some keys may not stand before lane j (R205). -/
def after (T w : Nat) (b : BitVec 1) (x : VWord) (i j : Nat) : Bool :=
  if b = 0 then keyLess T (lane w x j) (lane w x i) else keyLess T (lane w x i) (lane w x j)

/-! ## Streams (R164-R169) -/

/-- A descriptor at local address a gives a stream of class v or g its pattern, and mode word y suits it (R165, R166). -/
def describes (s : State) (isV : Bool) (a : Nat) (y : Word) (r : Stream) : Prop :=
  let p := localPlace s.core.pos a
  a % 16 = 0 ∧ a + 48 ≤ 0x20000 ∧ s.getNat (p + 22) 2 = 0 ∧ r.base = BitVec.ofNat 64 (s.getNat p 8) ∧ r.n0 = s.getNat (p + 8) 4 ∧
  r.n1 = s.getNat (p + 12) 4 ∧ r.n2 = s.getNat (p + 16) 4 ∧ r.size = s.getNat (p + 20) 2 ∧ r.s0 = BitVec.ofNat 64 (s.getNat (p + 24) 8) ∧
  r.s1 = BitVec.ofNat 64 (s.getNat (p + 32) 8) ∧ r.s2 = BitVec.ofNat 64 (s.getNat (p + 40) 8) ∧ 1 ≤ r.n0 ∧ 1 ≤ r.n1 ∧ 1 ≤ r.n2 ∧
  r.mode = BitVec.ofNat 13 y.toNat ∧ r.desc = BitVec.ofNat 32 a ∧ r.next = 0 ∧ r.queue = [] ∧ r.landing = [] ∧ r.failed = none ∧
  r.after = (s.later.filter (fun e => e.core == s.core.pos)).foldl (fun m e => max m e.visible) 0 ∧
  (if isV then r.size = 64 ∧ vtagOk (y.toNat / 256 % 32) = true ∧ y.toNat / 256 % 32 ≠ 0
   else r.size = 1 ∨ r.size = 2 ∨ r.size = 4 ∨ r.size = 8)

/-- A stream register that may be released now: unbound, a read stream, or a write stream that is written out (R168). -/
def releasable (s : State) (isV : Bool) (i : Nat) : Prop :=
  ∀ r, s.core.streamOf isV i = some r → r.mode.toNat % 2 = 1 → r.failed = none ∧ r.queue = [] ∧ r.landing = []

/-- The stream registers with one replaced. -/
def bound (s : State) (isV : Bool) (i : Nat) (r : Option Stream) : State := { s with core := s.core.setStream isV i r }

/-! ## Traps (R379-R383) -/

/-- A trap or an interrupt has been taken by the current core, of region r (R381): its registers, and what stays. A stream register
holds the last result that lands in the drain, or, where a wait is abandoned, what it held before the pops (R178, R385). -/
def entered (s u : State) (r : Region) (cause x : Word) : Prop :=
  u.core.xpc = s.core.pc ∧ u.core.xcause = cause ∧ u.core.xval = x ∧ u.core.inh = true ∧ u.core.timed = false ∧
  u.core.pc = r.hvec &&& ~~~1 ∧ u.core.status = .running ∧ u.core.readyAt = s.core.drainTime s.now + 8 * s.period s.core.pos ∧
  u.core.windows = [] ∧ u.core.flagsDue = [] ∧ u.core.csat = s.core.flagsDue.foldl (fun a e => a ||| e.2) s.core.csat ∧
  u.core.refetch = none ∧ u.core.popped = [] ∧
  (s.core.pos ∈ s.suitMembers s.core.pos → u.core.suit.act = false) ∧
  (∀ i : Fin 32, i.val < 24 ∨ (s.core.gstream (BitVec.ofNat 5 i.val) = none ∧ s.core.popped = []) → u.core.g[i] = s.core.g[i]) ∧
  (∀ i : Fin 16, i.val < 12 ∨ s.core.vstream (BitVec.ofNat 4 i.val) = none →
    (∀ e ∈ s.gathers, ¬ (e.core = s.core.pos ∧ e.dest.toNat = i.val)) → u.core.v[i] = s.core.v[i]) ∧
  ((∀ i : Fin 8, s.core.gs[i] = none) → u.core.gs = s.core.gs) ∧ ((∀ i : Fin 4, s.core.vs[i] = none) → u.core.vs = s.core.vs) ∧
  u.core.m = s.core.m ∧ u.core.t = s.core.t ∧ u.core.vtag = s.core.vtag ∧ u.core.ttag = s.core.ttag ∧
  u.core.counters = s.core.counters ∧ u.core.xscratch = s.core.xscratch ∧ u.core.cwp = s.core.cwp ∧ u.core.crb = s.core.crb ∧
  u.core.crnd = s.core.crnd ∧ u.core.cbatch = s.core.cbatch ∧ u.mem = s.mem ∧ u.scrub = s.scrub ∧ u.groups = s.groups ∧
  u.cmds = s.cmds

/-- From region q upward, the regions of a path do not handle a cause, and p after them does: the nearest that handles it (R387). -/
def climbs (s : State) (cause : Nat) : RegionId → List Region → Region → Prop
  | q, [], p => s.region? q = some p ∧ p.handles cause = true
  | q, r :: rest, p => s.region? q = some r ∧ r.handles cause = false ∧ climbs s cause r.parent rest p

/-- The interrupt of a set that is taken first: code and XVAL (R380, R382). -/
def firstOf (p : Pending) : Option (Nat × Word) :=
  [p.timer.map (fun x => (1, x)), p.mailbox.map (fun x => (2, x)),
   (match p.trees with | (false, x) :: _ => some (3, x) | _ => none), p.switch.map (fun x => (4, x)),
   (match p.trees with | (true, x) :: _ => some (5, x) | _ => none), p.postReject.map (fun x => (6, x)),
   p.hostmsg.head?.map (fun x => (7, x))].findSome? id

/-- What stays pending when an interrupt of a code is taken. -/
def without (p : Pending) (code : Nat) : Pending :=
  match code with
  | 1 => { p with timer := none }
  | 2 => { p with mailbox := none }
  | 3 | 5 => { p with trees := p.trees.drop 1 }
  | 4 => { p with switch := none }
  | 6 => { p with postReject := none }
  | _ => { p with hostmsg := p.hostmsg.drop 1 }

/-! ## The governor (R209-R236) -/

/-- A register of a pair by its holding value: no stream pops; in a landing window the value is free (R211). -/
def holding (s : State) (j : BitVec 5) : Word × State :=
  if j ≠ 0 ∧ s.core.gstream j = none ∧ s.core.windowOpen s.now (.g j) = true then
    (BitVec.ofNat 64 (Config.freeNat s.free), { s with free := s.free + 1 })
  else (if j = 0 then 0 else s.core.g[j.toNat], s)

/-- The pair of a selector (R54): base and layout word; zeros for a tile and for ONE. -/
def pairIn (s : State) (sel : BitVec 5) : (Word × Word) × State :=
  if sel.toNat ≤ 16 then ((0, 0), s)
  else
    let x := holding s (BitVec.ofNat 5 (2 * (sel.toNat % 16)))
    let y := holding x.2 (BitVec.ofNat 5 (2 * (sel.toNat % 16) + 1))
    ((x.1, y.1), y.2)

/-- A command word with captured pairs, nothing run yet. -/
def command (s : State) (i : Instr) (a b b2 c : Word × Word) : CubeCmd :=
  { CubeCmd.blank s.nextId s.core.pos i.encode s.core.crb with
    abase := a.1, alay := a.2, bbase := b.1, blay := b.2, b2base := b2.1, b2lay := b2.2, cbase := c.1, clay := c.2 }

/-- There is room in the group's queue and for the core (R210). -/
def roomy (s : State) : Prop := (s.groupAt (groupOf s.core.pos)).queue.length < 16 ∧ s.lockers.length < 7

/-- The tiles that a command issued now finds within their landing windows, with no earlier unfinished command of the core that writes
them: it reads a free value of each (R87). -/
def unlanded (s : State) : List (Nat × Nat) :=
  (List.range 8).filterMap (fun i =>
    if s.core.windowOpen s.now (.t (BitVec.ofNat 3 i)) &&
        (s.cubeCmds s.core.pos).all (fun e => !(e.writesTiles && e.tiles.any (fun d => d.toNat == i))) then some (i, s.free + i) else none)

/-- A command stands at the end of the group's queue: what it reads is fixed but the tag by which tD counts as EMPTY is that of
now (R222), tiles within their landing windows are free values (R87), and it starts 4 cycles on when the governor is idle (R211). -/
def queuedCmd (s : State) (c : CubeCmd) : State :=
  let p := s.period s.core.pos
  let g := s.groupAt (groupOf s.core.pos)
  ({ s with nextId := s.nextId + 1, free := if (unlanded s).isEmpty then s.free else s.free + 8 }).modGroup (groupOf s.core.pos) (fun h => { h with
    queue := h.queue ++ [{ c with
      emptyD := c.maj == 0x34 && c.fn != 3 && s.core.ttag.toList.getD c.td 0 == 0
      due := if g.idleAt s.now p then s.now + 4 * p else s.now
      undef := unlanded s
      marks := c.lines }] })

/-- A tile register's tag. -/
def retag (s : State) (d : BitVec 3) (t : Tag) : State := { s with core := { s.core with ttag := s.core.ttag.set d.toNat t } }

/-- The products of R221, with FN4. -/
def products : List ((BitVec 3 → BitVec 5 → BitVec 5 → BitVec 5 → BitVec 3 → Instr) × Nat) :=
  [(.tmul, 0), (.tmuls, 1), (.tmulx, 2)]

/-- A row of a tile as a source. -/
def rowIn (s : State) (i : BitVec 3) (r : Nat) : VWord × State :=
  if s.core.windowOpen s.now (.t i) then (BitVec.ofNat 512 (Config.freeNat s.free), { s with free := s.free + 1 })
  else (BitVec.ofNat 512 (s.core.t[i.toNat].toNat / 2 ^ (512 * r)), s)

/-- The current core's ring is a tile, zeroed and empty (R228). -/
def ringed (s : State) (d : BitVec 3) : State :=
  { s with core := { s.core with
      t := s.core.t.set d.toNat 0, ttag := s.core.ttag.set d.toNat 22, ract := true, rtile := d, rfull := 0
      windows := s.core.windows.filter (fun w => w.dest != .t d) } }

/-! ## Engine commands (R281-R285, R368) -/

/-- A barrier reference that names a barrier of the own region, or none (R282). -/
def barrierOk (s : State) (k : Word) : Prop :=
  k = 0 ∨ (k.toNat % 16 = 0 ∧
    (k.toNat < 0x20000 ∨
     (∃ j, j < 192 ∧ 0x40000000 + j * 0x20000 ≤ k.toNat ∧ k.toNat < 0x40000000 + (j + 1) * 0x20000 ∧
        s.owner (clusterCore s.core.pos j) = s.owner s.core.pos) ∨
     (2 ^ 63 ≤ k.toNat ∧ k.toNat / 2 ^ 48 % 2 ^ 15 = 0 ∧ k.toNat / 2 ^ 17 % 2 ^ 15 = 0 ∧
        ∃ r p, s.region? (s.owner s.core.pos) = some r ∧ r.at? (k.toNat / 2 ^ 32 % 256) (k.toNat / 2 ^ 40 % 256) = some p ∧
          s.owner p = s.owner s.core.pos)))

/-- The copies of R281, with FN5. -/
def copies : List ((BitVec 5 → BitVec 5 → BitVec 5 → BitVec 5 → Instr) × Nat) :=
  [(.cp, 0), (.cpL, 1), (.cpS, 2), (.cpG, 3), (.cpR, 4), (.cpX, 5), (.cpM, 6)]

/-- The collectives of R368, with FN5. -/
def collectives : List ((BitVec 5 → BitVec 5 → BitVec 5 → BitVec 5 → Instr) × Nat) :=
  [(.nred, 0), (.ntopk, 1), (.ncount, 2), (.nbcast, 3)]

/-- The 16 bytes at a place are from now on named as a barrier word or a status object, of which loads are no data accesses
(R325). -/
def naming (l : List (Nat × Nat)) (p : Nat) : List (Nat × Nat) := if l.contains (p, 16) then l else (p, 16) :: l

/-- What a command that names barrier k and the status object at local address st names. -/
def namedObjects (s : State) (k : Word) (st : Nat) : List (Nat × Nat) :=
  let l := match s.barrierPlace s.core.pos k with | some p => naming s.objects p | none => s.objects
  if st = 0 then l else naming l (localPlace s.core.pos st)

/-- The reference that the K field and its value give a lineage command: none for K = 0, else a barrier of the own local memory, the one
at address 0 named through the cluster window (R269, R282). -/
def barrierRef (s : State) (k : BitVec 5) (r : Word) : Word :=
  if k = 0 then 0 else if r = 0 then BitVec.ofNat 64 (2 ^ 30 + clusterIndex s.core.pos * 2 ^ 17) else r

/-- A command of the current core has been issued: it stands last, with its captured values, unstarted; its batch counts it; its
barrier and its status object are named; nothing else has changed (R285). -/
def issued (s u : State) (kind : EngKind) (k a b : Word) (d : List Byte) (total : Nat) (f : Option CubeCmd) : Prop :=
  ∃ m : EngCmd, u = { s with nextId := s.nextId + 1, cmds := s.cmds ++ [m], core := s.core.joinBatch, objects := namedObjects s k (slice d 0x30 4) } ∧
    m.id = s.nextId ∧ m.core = s.core.pos ∧ m.region = s.owner s.core.pos ∧ m.launch = s.core.launch ∧ m.home = s.core.cwp ∧
    m.batch = s.core.cbatch ∧ m.kind = kind ∧ m.k = k ∧ m.a = a ∧ m.b = b ∧ m.desc = d ∧ m.total = total ∧ m.arrived = 0 ∧
    m.progress = 0 ∧ m.started = false ∧ m.failed = none ∧ m.follow = f ∧ m.run = none ∧ m.granules = []

/-! ## Lineage (R258) -/

/-- A lineage instruction issues in free code, when every lineage operation that its core has issued before has come to its point of the
table order (R258, R267). -/
def lineageTurn (s : State) : Prop := s.core.timed = false ∧ s.lineageAhead s.core.pos s.nextId = false

/-- A synchronous lineage instruction is done: a release and an acquire over the whole region, and a stall of a free number of cycles,
which together last less than the bound in ticks (R14, R258). -/
def lineageDone (s : State) (bound : Nat) : State :=
  let k := Config.freeNat s.free % (bound * 12 / s.period s.core.pos)
  let t := ({ s with free := s.free + 1 }).syncRelease s.core.pos none
  let d := k * s.period s.core.pos
  went (({ t with core := { t.core with readyAt := s.now + s.period s.core.pos + d } }).holdSuit s.core.pos d) 4

/-- The region whose node table the current core's region uses (R247). -/
def tableIs (s : State) (t : Region) : Prop := s.region? (s.tableOwner 8 (s.owner s.core.pos)) = some t

/-- A handle names a live node of a table: its record's index and its content (R248). -/
def liveAt (s : State) (t : Region) (h : Nat) (i : Nat) (n : Node) : Prop :=
  i = h / 256 ∧ 0 < i ∧ i < t.lntCap ∧ (∃ u, getNode t i s = .ok n u ∧ u = s) ∧ (n.state = 1 ∨ n.state = 2) ∧ n.gen = h % 256

/-! ## Events -/

/-- The current core waits, alone. -/
def waitsFor (s : State) (w : Wait) : Prop := s.core.suit.act = false ∧ s.core.status = .waiting w

/-- Its wait is over: the next instruction issues in the cycle after (R30), a follower's k cycles later (R24). Cycles begin at the
multiples of the period, which is the model's choice (log 85). -/
def woken (s : State) : State :=
  { s with core := { s.core with
      status := .running, pc := s.core.pc + 4, dbg := false
      readyAt := (s.now / s.period s.core.pos + 1) * s.period s.core.pos + s.core.suit.spos.toNat * s.period s.core.pos
      popped := [] } }

/-- The first n of the registers of LINFO take the words of a record (R263). -/
def recordOut (d : Nat) (img : List Byte) : Nat → State → Option State
  | 0, s => some s
  | n + 1, s => match recordOut d img n s with
    | none => none
    | some t => gOut t (BitVec.ofNat 5 (8 * d + n)) (BitVec.ofNat 64 (slice img (8 * n) 8)) 1

/-- A core's suit member waits; the cores that a mask names in a group (R180). -/
def namedBy (grp : Nat) (m : BitVec 16) : List (Nat × Nat) :=
  ((List.range 16).filter (fun i => m.getLsbD i)).map (fun i => (i, groupCore grp i))

/-- A block address that passes the checks of R345. -/
def blockAt (s : State) (x : Word) : Prop :=
  s.core.timed = false ∧ x.toNat % 64 = 0 ∧ 2 ^ 32 ≤ x.toNat ∧ x.toNat + 512 ≤ 2 ^ 48 ∧
  ∀ o, o = 0 ∨ o = 511 → ∀ k, k = AccKind.load ∨ k = AccKind.store →
    ∃ y, s.xlate 8 (s.owner s.core.pos) (x.toNat + o) k = .ok y

/-- A request has gone to the dealer, and the core waits for its answer; everything of its region is released (R327, R345,
R385). -/
def asked (s : State) (d : BitVec 5) (op : Nat) (a arg : Word) (bound : Nat) : State :=
  let t := s.syncRelease s.core.pos none
  { t with
    core := { t.core with status := .waiting (.answer d), readyAt := s.now + s.period s.core.pos, dbg := false, popped := [] }
    requests := t.requests ++ [⟨s.core.pos, s.ticks + bound, op, a.toNat, arg, s.ticks⟩] }

/-- Every die runs at 2.0 GHz, 12 units of time a cycle (R46, R358). -/
def clocked (s : State) : State :=
  { s with device := { s.device with dies := s.device.dies.map (fun d => { d with period := 12 }) } }

/-- The control registers of R73, with the value that each reads as. -/
def controls (s : State) : List (Nat × Word) :=
  [(0x000, s.core.cwp),
   (0x001, BitVec.ofNat 64 (s.core.timed.toNat + 2 * s.core.inh.toNat + 4 * s.core.dbg.toNat)),
   (0x010, s.core.xpc), (0x011, s.core.xcause), (0x012, s.core.xval), (0x013, s.core.xscratch),
   (0x020, BitVec.ofNat 64 (s.core.lx.toNat + s.core.ly.toNat * 2 ^ 8 + s.core.lw.toNat * 2 ^ 16 + s.core.lh.toNat * 2 ^ 24)),
   (0x021, BitVec.ofNat 64 s.core.pos), (0x022, BitVec.ofNat 64 (s.owner s.core.pos).toNat),
   (0x023, BitVec.ofNat 64 (s.owner s.core.pos).toNat), (0x030, BitVec.ofNat 64 (s.now / 12)),
   (0x031, if s.core.timed then s.core.cseg + BitVec.ofNat 64 ((s.now - s.core.segFrom) / 12) else s.core.cseg),
   (0x040, BitVec.ofNat 64 s.core.crb.toNat), (0x041, BitVec.ofNat 64 s.core.csat.toNat),
   (0x042, BitVec.ofNat 64 s.core.crnd.toNat),
   (0x050, BitVec.ofNat 64 (s.core.suit.memb.toNat + s.core.suit.spos.toNat * 2 ^ 16 + s.core.suit.size.toNat * 2 ^ 20 +
     s.core.suit.act.toNat * 2 ^ 24)),
   (0x060, BitVec.ofNat 64 s.core.cbatch.toNat)]

/-- A region with one of its launches changed. -/
def launchSet (r : Region) (seq : Nat) (f : Launch → Launch) : Region :=
  { r with launches := r.launches.map (fun l => if l.seq = seq then f l else l) }

/-- The governor's only command of a group. -/
def onlyCmd (s : State) (grp : Nat) (c : CubeCmd) : Prop := (s.groupAt grp).queue = [c] ∧ groupOf c.core = grp

/-- Element j of row r of a tile of 8-bit integers, signed (R212, R217). -/
def tileInt (x : TWord) (r j : Nat) : Int := signedOf 1 (x.toNat / 2 ^ (512 * r + 8 * j) % 2 ^ 8)

/-- Accumulator (m, n) of a tile of 32-bit integers. -/
def accAt (x : TWord) (o : Nat) : Int := signedOf 4 (x.toNat / 2 ^ (32 * o) % 2 ^ 32)

/-- A 32-bit accumulator saturates (R132). -/
def sat32 (z : Int) : Int := max (-2147483648) (min 2147483647 z)

/-- A message of the management class is served (R361, R428). -/
def servesMgmt (s : State) : Prop := s.device.phase = .running

/-- The state after an answer to the outside. -/
def repliedWith (s : State) (r : Reply) : State := { s with outbox := r :: s.outbox }

/-- The device with a change. -/
def onDevice (s : State) (f : Device → Device) : State := { s with device := f s.device }

/-- A packet is dropped, and its port counts it (R360, R428). -/
def dropped (s : State) (port : BitVec 5) : State :=
  onDevice s (fun d => { d with
    ports := d.ports.set port.toNat (d.ports[port.toNat] + 1), telemetry := .droppedPacket port.toNat :: d.telemetry })

/-- The six remote operations. -/
def remotes (p : Packet) (off n : Nat) (bs : List Byte) (v w : Word) (x : BitVec 32) : List Instr :=
  [.remoteWrite p off bs, .remoteRead p off n, .remoteFetchAdd p off v, .remoteSwap p off v, .remoteCompareSwap p off w v,
   .remoteCounterAdd p off x]

/-- A supported packet reaches a running device, and no counter add of its ordered flow is still under way (R360, R366). -/
def remoteTurn (s : State) (p : Packet) : Prop :=
  s.device.phase = .running ∧ p.supported = true ∧ (p.flow = none ∨ ∀ m ∈ s.msgs, m.src ≠ .remote p.flow)

/-- A remote operation has been performed: its engine region stays until the answer has gone out (R363). -/
def underway (s : State) (p : Packet) (marks : List (Nat × Bool)) (r : Reply) : State :=
  { s with remotes := s.remotes ++ [⟨p.flow, marks, r, none⟩] }

/-! ## Frames -/

/-- An integer instruction of the scalar unit with its sources in the order of their reads and its destination (R137-R140). -/
def scalarForm (i : Instr) (srcs : List (BitVec 5)) (d : BitVec 5) : Prop :=
  (∃ e ∈ scalarTwo ++ scalarMul, ∃ a b, i = e.1 d a b ∧ srcs = [a, b]) ∨
  (∃ e ∈ scalarThree, ∃ a b, i = e.1 d a b ∧ srcs = [a, b, d]) ∨
  (∃ e ∈ scalarOne, ∃ a, i = e.1 d a ∧ srcs = [a]) ∨
  (∃ e ∈ scalarImm, ∃ a n, i = e.1 d a n ∧ srcs = [a]) ∨
  (∃ e ∈ scalarShiftImm, ∃ a n, i = e.1 d a n ∧ srcs = [a])

/-- Everything but the general registers, the streams, the windows, the program counter and the time of the next issue is as
before. -/
def restStays (s u : State) : Prop :=
  u.core.v = s.core.v ∧ u.core.m = s.core.m ∧ u.core.t = s.core.t ∧ u.core.vtag = s.core.vtag ∧ u.core.ttag = s.core.ttag ∧
  u.core.cwp = s.core.cwp ∧ u.core.xpc = s.core.xpc ∧ u.core.xcause = s.core.xcause ∧ u.core.xval = s.core.xval ∧
  u.core.xscratch = s.core.xscratch ∧ u.core.timed = s.core.timed ∧ u.core.inh = s.core.inh ∧ u.core.csat = s.core.csat ∧
  u.core.crb = s.core.crb ∧ u.core.crnd = s.core.crnd ∧ u.core.cbatch = s.core.cbatch ∧ u.core.suit = s.core.suit ∧
  u.core.counters = s.core.counters ∧ u.core.pending = s.core.pending ∧ u.core.access = s.core.access ∧
  (∀ p, u.getByte p = s.getByte p) ∧ u.poison = s.poison ∧ u.marks = s.marks ∧ u.others = s.others ∧ u.groups = s.groups ∧
  u.cmds = s.cmds ∧ u.regions = s.regions ∧ u.device = s.device

/-- The first 16 bits at a core's program counter: those that an earlier access of this cycle has read, else what stands there
(R49, R91). -/
def firstHalf (s : State) : Nat :=
  match s.core.half with
  | some h => h.toNat
  | none => s.getNat (localPlace s.core.pos s.core.pc.toNat) 2

/-- The second access of a fetch at an address 2 mod 4 comes later in the cycle, after what other agents land in it: where there are
such agents, a free value chooses (R49; log 24). -/
def torn (s : State) : Prop :=
  firstHalf s % 2 = 1 ∧ s.core.pc.toNat + 4 ≤ 0x20000 ∧ s.core.pc.toNat % 4 = 2 ∧ s.core.half = none ∧ s.core.late = 0 ∧ s.othersAct = true ∧
  Config.pick s.free % 2 = 1

/-- The word that the current core fetches (R47, R48, R49, R91): two bytes where its bit 0 is 0, else four; all in local memory. -/
def wordAt (s : State) (w len : Nat) : Prop :=
  len = (if firstHalf s % 2 = 0 then 2 else 4) ∧
  w = (if firstHalf s % 2 = 0 then firstHalf s
       else firstHalf s + 65536 * s.getNat (localPlace s.core.pos (s.core.pc.toNat + 2)) 2) ∧
  s.core.pc.toNat + len ≤ 0x20000 ∧ ¬ torn s

/-- In timed code a word is stale once a write has met it or the bytes before it that had been fetched (R91, R207). -/
def stale (s : State) (len : Nat) : Prop :=
  s.core.timed = true ∧ ∃ a, s.core.refetch = some a ∧ a < s.core.pc.toNat + len

/-- The state after an issue of u has led to v: what the core held over from an earlier attempt in this cycle, or over a drain, goes
(R49, R80), unless the issue has been put off to a later point of the cycle (R219). -/
def cycleEnd (u v : State) : State :=
  if u.core.late < v.core.late then v
  else if u.core.late ≠ 0 ∨ u.core.draining = true then
    { v with core := { v.core with
        half := none, late := 0
        draining := v.core.draining && (v.core.pc == u.core.pc && v.core.status == .running && !v.core.inh) } }
  else v

/-- A step is the issue of core p at time t, after n free values; u is the state in which that core is about to issue. -/
def issues (s u : State) (p t n : Nat) : Prop :=
  s.choose = some (.issue p, t, n) ∧ (s.now < t → s.judge = []) ∧ u = ({ s with free := s.free + n }).moment t (.issue p) ∧
  u.core.posted = [] ∧ u.core.reflecting = none ∧ u.interruptible = false

end Sys2Proof.Says

open Sys2Proof Sys2Proof.Machine Sys2Proof.Says

/-! ## Scalar instructions -/

/-- A part of ScalarArithmetic. -/
def Sys2Proof.Says.scalarTwoSource : Prop :=
  ∀ e ∈ scalarTwo, ∀ (d a b : BitVec 5) (s t u : State) (x y : Word),
    gsIn s [a, b] = some ([x, y], t) → gOut t d (e.2.2 x y) e.2.1 = some u → exec (e.1 d a b) s = .next (went u 4)

/-- A part of ScalarArithmetic. -/
def Sys2Proof.Says.scalarMultiplyDivide : Prop :=
  ∀ e ∈ scalarMul, ∀ (d a b : BitVec 5) (s t u : State) (x y : Word),
    gsIn s [a, b] = some ([x, y], t) → gOut t d (e.2.2 x y) e.2.1 = some u → exec (e.1 d a b) s = .next (went u 4)

/-- Each two-source instruction of MAJ 0x00 to 0x02 (R139) answers a next state: with its sources read in order (g0 as 0, a
bound read stream popped, a landing window as a free value), the destination takes the value of the table with the table's
latency (g0 discards it, a bound write stream appends it), PC goes on by 4 and the next instruction issues in the next cycle;
nothing else changes. (R138, R139, R69, R85, R87, R88) -/
def Obligations.ScalarArithmetic : Prop :=
  scalarTwoSource ∧ scalarMultiplyDivide

/-- A part of ScalarFormats. -/
def Sys2Proof.Says.scalarBitFields : Prop :=
  (∀ e ∈ scalarThree, ∀ (d a b : BitVec 5) (s t u : State) (x y z : Word),
    gsIn s [a, b, d] = some ([x, y, z], t) → gOut t d (e.2 x y z) 1 = some u → exec (e.1 d a b) s = .next (went u 4)) ∧
  (∀ e ∈ scalarOne, ∀ (d a : BitVec 5) (s t u : State) (x : Word),
    gsIn s [a] = some ([x], t) → gOut t d (e.2 x) 1 = some u → exec (e.1 d a) s = .next (went u 4))

/-- A part of ScalarFormats. -/
def Sys2Proof.Says.scalarImmediates : Prop :=
  (∀ e ∈ scalarImm, ∀ (d a : BitVec 5) (n : BitVec 15) (s t u : State) (x : Word),
    gsIn s [a] = some ([x], t) → gOut t d (e.2 x n) 1 = some u → exec (e.1 d a n) s = .next (went u 4)) ∧
  (∀ e ∈ scalarShiftImm, ∀ (d a : BitVec 5) (n : BitVec 6) (s t u : State) (x : Word),
    gsIn s [a] = some ([x], t) → gOut t d (e.2 x n) 1 = some u → exec (e.1 d a n) s = .next (went u 4))

/-- A part of ScalarFormats. -/
def Sys2Proof.Says.scalarCompact : Prop :=
  (∀ e ∈ compactTwo, ∀ (d a : BitVec 4) (s t u : State) (x y : Word),
    gsIn s [low d, low a] = some ([x, y], t) → gOut t (low d) (e.2 x y) 1 = some u → exec (e.1 d a) s = .next (went u 2)) ∧
  (∀ e ∈ compactImm, ∀ (d n : BitVec 4) (s t u : State) (x : Word),
    gsIn s [low d] = some ([x], t) → gOut t (low d) (e.2 x n) 1 = some u → exec (e.1 d n) s = .next (went u 2)) ∧
  (∀ (d a : BitVec 4) (s t u : State) (x : Word),
    gsIn s [low a] = some ([x], t) → gOut t (low d) x 1 = some u → exec (.movC d a) s = .next (went u 2))

/-- SEL, BINS, FSHL, FSHR, CLZ, CTZ, POPC, BSWAP (R139), the immediate forms of R140, and the two-address words of R58 answer
the next state in which the destination has the value of their table, the PC is 4 or 2 bytes on, and nothing else has changed
but what reading and writing the operands changes. (R139, R140, R58, R69, R85) -/
def Obligations.ScalarFormats : Prop :=
  scalarBitFields ∧ scalarImmediates ∧ scalarCompact

/-- A part of ScalarFloats. -/
def Sys2Proof.Says.floatResults : Prop :=
  (∀ e ∈ floatTwo, ∀ (d a b : BitVec 5) (s t u : State) (x y : Word),
    gsIn s [a, b] = some ([x, y], t) → gOut t d (BitVec.ofNat 64 (e.2.2.2 (fop e.2.1 x) (fop e.2.1 y)).1) e.2.2.1 = some u →
    exec (e.1 d a b) s = .next (went (flagsOut u (e.2.2.2 (fop e.2.1 x) (fop e.2.1 y)).2 e.2.2.1) 4)) ∧
  (∀ e ∈ floatOne, ∀ (d a : BitVec 5) (s t u : State) (x : Word),
    gsIn s [a] = some ([x], t) → gOut t d (BitVec.ofNat 64 (e.2.2.2 (fop e.2.1 x)).1) e.2.2.1 = some u →
    exec (e.1 d a) s = .next (went (flagsOut u (e.2.2.2 (fop e.2.1 x)).2 e.2.2.1) 4)) ∧
  (∀ e ∈ floatThree, ∀ (d a b : BitVec 5) (s t u : State) (x y z : Word),
    gsIn s [a, b, d] = some ([x, y, z], t) →
    gOut t d (BitVec.ofNat 64 (ffma e.2.1 (fop e.2.1 x) (fop e.2.1 y) (fop e.2.1 z)).1) e.2.2 = some u →
    exec (e.1 d a b) s = .next (went (flagsOut u (ffma e.2.1 (fop e.2.1 x) (fop e.2.1 y) (fop e.2.1 z)).2 e.2.2) 4))

/-- A part of ScalarFloats. -/
def Sys2Proof.Says.floatConversions : Prop :=
  ∀ e ∈ conversions, ∀ (d a : BitVec 5) (r : BitVec 4) (s t u : State) (x : Word) (c : Nat × Fl),
    gsIn s [a] = some ([x], t) → c = e.2.2 (modeNamed s.core.crnd r) (x.toNat % 2 ^ e.2.1) →
    gOut t d (BitVec.ofNat 64 c.1) 3 = some u → exec (e.1 d a r) s = .next (went (flagsOut u c.2 3) 4)

/-- The instructions of R141 and R142 answer the next state with the result of the number-format functions at the latency of
R143, and their flags due to land with it; FCVT rounds by its rounding code, CRND for code 0. (R141, R142, R143, R63, R126,
R128) -/
def Obligations.ScalarFloats : Prop :=
  floatResults ∧ floatConversions

/-! ## Control flow -/

/-- A branch compares its two registers by its relation; taken, PC becomes PC + sext(OFF15)*2 (WINDOW if that lies outside
local memory, R48), else PC + 4; that a suit follower reads its own registers and goes where the leader went is read from R25 by the model
(log 25); the six stand in MAJ 0x14 to 0x19. (R144, R48, R25) -/
def Obligations.Branches : Prop :=
  (∀ e ∈ branches, ∀ (a b : BitVec 5) (o : BitVec 15) (s t : State) (x y : Word),
    s.core.lead = none → gsIn s [a, b] = some ([x, y], t) →
    exec (e.1 a b o) s = .next (if e.2 x y then goes s t (target s o) else went t 4)) ∧
  (∀ e ∈ branches, ∀ (a b : BitVec 5) (o : BitVec 15) (s t : State) (x y u : Word),
    s.core.lead = some u → gsIn s [a, b] = some ([x, y], t) → exec (e.1 a b o) s = .next (wentTo t u)) ∧
  (∀ (a b : BitVec 5) (o : BitVec 15), branches.map (fun e => (e.1 a b o).encode / 2 % 64) = [0x14, 0x15, 0x16, 0x17, 0x18, 0x19])

/-- A part of ControlTransfer. -/
def Sys2Proof.Says.compactBranching : Prop :=
  (∀ e ∈ compactBranches, ∀ (d a : BitVec 4) (o : BitVec 2) (s t : State) (x : Word),
    s.core.lead = none → gsIn s [low a] = some ([x], t) →
    exec (e.1 d a o) s = .next (if e.2 x then goes s t (target s (o ++ d)) else went t 2)) ∧
  (∀ e ∈ compactBranches, ∀ (d a : BitVec 4) (o : BitVec 2) (s t : State) (x u : Word),
    s.core.lead = some u → gsIn s [low a] = some ([x], t) → exec (e.1 d a o) s = .next (wentTo t u))

/-- A part of ControlTransfer. -/
def Sys2Proof.Says.jumpAndLink : Prop :=
  (∀ (d : BitVec 5) (o : BitVec 20) (s u : State),
    (target s o).toNat < 0x20000 → gOut s d (s.core.pc + 4) 1 = some u →
    exec (.jal d o) s = .next (wentTo u (s.core.lead.getD (target s o)))) ∧
  (∀ (d : BitVec 5) (o : BitVec 20) (s : State), 0x20000 ≤ (target s o).toNat →
    exec (.jal d o) s = .next (s.takeTrap false 4 (target s o) 0)) ∧
  (∀ (d a : BitVec 5) (o : BitVec 13) (s t u : State) (x v : Word),
    s.core.lead = none → gsIn s [a] = some ([x], t) → v = x + wrap (o.toInt * 2) → v.toNat % 2 = 0 → v.toNat < 0x20000 →
    gOut t d (s.core.pc + 4) 1 = some u → exec (.jalr d a o) s = .next (wentTo u v)) ∧
  (∀ (d a : BitVec 5) (o : BitVec 13) (s t : State) (x v : Word),
    s.core.lead = none → gsIn s [a] = some ([x], t) → v = x + wrap (o.toInt * 2) →
    (v.toNat % 2 = 1 → exec (.jalr d a o) s = .next (s.takeTrap false 3 v 0)) ∧
    (v.toNat % 2 = 0 → 0x20000 ≤ v.toNat → exec (.jalr d a o) s = .next (s.takeTrap false 4 v 0))) ∧
  (∀ (d a : BitVec 5) (o : BitVec 13) (s t u : State) (x v : Word),
    s.core.lead = some v → gsIn s [a] = some ([x], t) → gOut t d (s.core.pc + 4) 1 = some u → exec (.jalr d a o) s = .next (wentTo u v))

/-- BZ.C and BNZ.C branch on a register being zero or not; JAL and JALR go to their target and write PC + 4 to gD, a read
before it is written; an odd JALR target raises ALIGN and a target outside local memory WINDOW, before any write. That a suit
follower takes the leader's target and writes its own link is read from R25 by the model (log 25). (R145, R147, R59, R48, R47, R25) -/
def Obligations.ControlTransfer : Prop :=
  compactBranching ∧ jumpAndLink

/-- LOOP on a bound stream register raises STREAM subcode 5. Otherwise n = wrap64(a - 1); if n is not 0 and the target lies
outside local memory it raises WINDOW; else gA takes n with latency 1 and PC goes to the target if n is not 0, on by 4 if it
is; that a suit follower counts its own register and goes where the leader went is read from R25 by the model (log 25). A = 0 is ill formed; it
stands in MAJ 0x1B, SUB 1. (R146, R25) -/
def Obligations.LoopCounts : Prop :=
  (∀ (a : BitVec 5) (o : BitVec 13) (s t u : State) (x : Word),
    s.core.lead = none → s.core.gstream a = none → gsIn s [a] = some ([x], t) → gOut t a (x - 1) 1 = some u →
    exec (.loop a o) s = .next
      (if x = 1 then went u 4
       else if (target s o).toNat < 0x20000 then wentTo u (target s o) else s.takeTrap false 4 (target s o) 0)) ∧
  (∀ (a : BitVec 5) (o : BitVec 13) (s : State), (s.core.gstream a).isSome = true →
    exec (.loop a o) s = .next (s.takeTrap false 17 (BitVec.ofNat 64 (a.toNat + 5 * 256)) 0)) ∧
  (∀ (a : BitVec 5) (o : BitVec 13) (s t u : State) (x v : Word),
    s.core.lead = some v → s.core.gstream a = none → gsIn s [a] = some ([x], t) → gOut t a (x - 1) 1 = some u →
    exec (.loop a o) s = .next (wentTo u v)) ∧
  (∀ (a : BitVec 5) (o : BitVec 13), (Instr.loop a o).encode / 2 % 64 = 0x1B ∧ (Instr.loop a o).encode / 2 ^ 30 = 1 ∧
    ((Instr.loop a o).wf = true ↔ a ≠ 0))

/-- IDLE n, n from 1 to 8,191, and IDLE.C n, n from 1 to 255, let the next instruction issue n cycles after they issue, in
both modes; nothing else changes. (R148) -/
def Obligations.IdleDelays : Prop :=
  (∀ (n : BitVec 13) (s : State), exec (.idle n) s = .next { s with core := { s.core with
    pc := s.core.pc + 4, readyAt := s.now + n.toNat * s.period s.core.pos, dbg := false } }) ∧
  (∀ (d a : BitVec 4) (s : State), exec (.idleC d a) s = .next { s with core := { s.core with
    pc := s.core.pc + 2, readyAt := s.now + (d.toNat * 16 + a.toNat) * s.period s.core.pos, dbg := false } }) ∧
  (∀ n : BitVec 13, (Instr.idle n).encode / 2 % 64 = 0x1B ∧ (Instr.idle n).encode / 2 ^ 30 = 2 ∧
    ((Instr.idle n).wf = true ↔ 1 ≤ n.toNat ∧ n.toNat ≤ 8191)) ∧
  (∀ d a : BitVec 4, (Instr.idleC d a).wf = true ↔ 1 ≤ d.toNat * 16 + a.toNat ∧ d.toNat * 16 + a.toNat ≤ 255)

/-! ## Own local memory -/

/-- A part of LoadsAndStores. -/
def Sys2Proof.Says.loadsFromOwnMemory : Prop :=
  ∀ e ∈ loads, ∀ (d a : BitVec 5) (o : BitVec 13) (s t u : State) (x : Word),
    gsIn s [a] = some ([x], t) → ea x o e.2.1 % e.2.1 = 0 → ownOk t [(ea x o e.2.1, e.2.1)] .load →
    gOut (noted t [(ea x o e.2.1, e.2.1)] .load) d
      (if e.2.2 then wrap (signedOf e.2.1 (oldAt t (ea x o e.2.1) e.2.1)) else BitVec.ofNat 64 (oldAt t (ea x o e.2.1) e.2.1)) 3 = some u →
    exec (e.1 d a o) s = .next (went u 4)

/-- A part of LoadsAndStores. -/
def Sys2Proof.Says.storesToOwnMemory : Prop :=
  ∀ e ∈ stores, ∀ (d a : BitVec 5) (o : BitVec 13) (s t : State) (x y : Word),
    gsIn s [a, d] = some ([x, y], t) → ea x o e.2 % e.2 = 0 → ownOk t [(ea x o e.2, e.2)] .store →
    exec (e.1 d a o) s = .next (went (noted (stored t (ea x o e.2) (leBytes e.2 y.toNat)) [(ea x o e.2, e.2)] .store) 4)

/-- ST in free code on the own local memory: every byte of memory outside the S bytes at the effective address reads as
before, those bytes read as stored at once, which is the model's choice (log 31), and every register class, tag, counter, control
register (R73), region and group stays; PC goes on by 4. The S bytes start at the sum of R52, which the meaning forms in the same way.
(R153, R152, R52) -/
def Obligations.StoreFrame : Prop :=
  ∀ e ∈ stores, ∀ (d a : BitVec 5) (o : BitVec 13) (s t u : State) (x y : Word) (p : Nat),
    s.memWf → gsIn s [a, d] = some ([x, y], t) → ea x o e.2 % e.2 = 0 → ownOk t [(ea x o e.2, e.2)] .store →
    s.core.timed = false → p = localPlace s.core.pos (ea x o e.2) → exec (e.1 d a o) s = .next u →
    (∀ q, q < p ∨ p + e.2 ≤ q → u.getByte q = s.getByte q) ∧
    (∀ i, i < e.2 → u.getByte (p + i) = BitVec.ofNat 8 (y.toNat / 2 ^ (8 * i))) ∧
    u.core.g = t.core.g ∧ u.core.v = s.core.v ∧ u.core.m = s.core.m ∧ u.core.t = s.core.t ∧ u.core.vtag = s.core.vtag ∧
    u.core.ttag = s.core.ttag ∧ u.core.counters = s.core.counters ∧ u.core.csat = s.core.csat ∧
    u.core.timed = s.core.timed ∧ u.core.inh = s.core.inh ∧
    u.core.xpc = s.core.xpc ∧ u.core.xcause = s.core.xcause ∧ u.core.xval = s.core.xval ∧ u.core.cwp = s.core.cwp ∧
    u.core.xscratch = s.core.xscratch ∧ u.core.crb = s.core.crb ∧ u.core.crnd = s.core.crnd ∧ u.core.cbatch = s.core.cbatch ∧
    u.core.suit = s.core.suit ∧ u.core.cseg = s.core.cseg ∧ u.core.segFrom = s.core.segFrom ∧ u.core.pos = s.core.pos ∧
    u.core.lx = s.core.lx ∧ u.core.ly = s.core.ly ∧ u.core.lw = s.core.lw ∧ u.core.lh = s.core.lh ∧
    u.core.pc = s.core.pc + 4 ∧ u.others = s.others ∧ u.groups = s.groups ∧ u.regions = s.regions

/-- A part of LoadsAndStores. -/
def Sys2Proof.Says.misalignedAccess : Prop :=
  (∀ e ∈ loads, ∀ (d a : BitVec 5) (o : BitVec 13) (s t : State) (x : Word),
    gsIn s [a] = some ([x], t) → ea x o e.2.1 % e.2.1 ≠ 0 →
    exec (e.1 d a o) s = .next (s.takeTrap false 3 (BitVec.ofNat 64 (ea x o e.2.1)) 0)) ∧
  (∀ e ∈ stores, ∀ (d a : BitVec 5) (o : BitVec 13) (s t : State) (x y : Word),
    gsIn s [a, d] = some ([x, y], t) → ea x o e.2 % e.2 ≠ 0 →
    exec (e.1 d a o) s = .next (s.takeTrap false 3 (BitVec.ofNat 64 (ea x o e.2)) 0))

/-- A part of LoadsAndStores. -/
def Sys2Proof.Says.loadsElsewhere : Prop :=
  (∀ e ∈ loads, ∀ (d a : BitVec 5) (o : BitVec 13) (s t : State) (x : Word) (p : Nat),
    gsIn s [a] = some ([x], t) → reaches t (ea x o e.2.1) e.2.1 .load p → d = 0 ∨ t.core.gstream d = none →
    ∃ u, exec (e.1 d a o) s = .next u ∧ u.core.pc = s.core.pc + 4 ∧
      (d ≠ 0 → u.core.g[d.toNat] =
        if e.2.2 then wrap (signedOf e.2.1 (t.getNat p e.2.1)) else BitVec.ofNat 64 (t.getNat p e.2.1)) ∧
      (∀ i : Fin 32, i.val ≠ d.toNat → u.core.g[i] = t.core.g[i]) ∧ (∀ q, u.getByte q = s.getByte q) ∧
      u.core.v = s.core.v ∧ u.core.m = s.core.m ∧ u.core.t = s.core.t ∧ u.core.vtag = s.core.vtag ∧ u.core.ttag = s.core.ttag ∧
      u.core.counters = s.core.counters ∧ u.core.csat = s.core.csat ∧ u.core.xpc = s.core.xpc) ∧
  (∀ e ∈ loads, ∀ (d a : BitVec 5) (o : BitVec 13) (s t u : State) (x : Word) (i : Nat),
    gsIn s [a] = some ([x], t) → e.2.1 = 4 → i < 64 → s.core.pos < 49152 → ea x o 4 = 0x60000000 + s.core.pos * 0x100 + 4 * i →
    gOut t d (if e.2.2 then (s.core.counters.toList.getD i 0).signExtend 64 else (s.core.counters.toList.getD i 0).zeroExtend 64) 3 = some u →
    exec (e.1 d a o) s = .next (went u 4))

/-- A part of LoadsAndStores. -/
def Sys2Proof.Says.storesElsewhere : Prop :=
  ∀ e ∈ stores, ∀ (d a : BitVec 5) (o : BitVec 13) (s t : State) (x y : Word) (p : Nat),
    s.memWf → gsIn s [a, d] = some ([x, y], t) → reaches t (ea x o e.2) e.2 .store p →
    ∃ u, exec (e.1 d a o) s = .next u ∧ u.core.pc = s.core.pc + 4 ∧
      (∀ q, q < p ∨ p + e.2 ≤ q → u.getByte q = s.getByte q) ∧
      (∀ i, i < e.2 → u.getByte (p + i) = BitVec.ofNat 8 (y.toNat / 2 ^ (8 * i))) ∧
      u.core.g = t.core.g ∧ u.core.v = s.core.v ∧ u.core.m = s.core.m ∧ u.core.t = s.core.t ∧ u.core.vtag = s.core.vtag ∧
      u.core.ttag = s.core.ttag ∧ u.core.counters = s.core.counters ∧ u.core.csat = s.core.csat ∧ u.core.xpc = s.core.xpc

/-- A part of LoadsAndStores. -/
def Sys2Proof.Says.accessTraps : Prop :=
  (∀ e ∈ loads, ∀ (d a : BitVec 5) (o : BitVec 13) (s t : State) (x y : Word) (cause : Nat) (q : RegionId),
    gsIn s [a] = some ([x], t) → trapsOf t (ea x o e.2.1) e.2.1 .load cause y q → exec (e.1 d a o) s = .next (s.takeTrap false cause y q)) ∧
  (∀ e ∈ stores, ∀ (d a : BitVec 5) (o : BitVec 13) (s t : State) (x z y : Word) (cause : Nat) (q : RegionId),
    gsIn s [a, d] = some ([x, z], t) → trapsOf t (ea x o e.2) e.2 .store cause y q → exec (e.1 d a o) s = .next (s.takeTrap false cause y q)) ∧
  (∀ e ∈ loads, ∀ (d a : BitVec 5) (o : BitVec 13) (s t : State) (x : Word),
    gsIn s [a] = some ([x], t) → ea x o e.2.1 % e.2.1 = 0 → 2 ^ 32 ≤ ea x o e.2.1 → ea x o e.2.1 + e.2.1 ≤ 2 ^ 48 → s.core.timed = true →
    exec (e.1 d a o) s = .next (s.takeTrap false 1 (BitVec.ofNat 64 (e.1 d a o).encode) 0)) ∧
  (∀ e ∈ stores, ∀ (d a : BitVec 5) (o : BitVec 13) (s t : State) (x z : Word),
    gsIn s [a, d] = some ([x, z], t) → ea x o e.2 % e.2 = 0 → 2 ^ 32 ≤ ea x o e.2 → ea x o e.2 + e.2 ≤ 2 ^ 48 → s.core.timed = true →
    exec (e.1 d a o) s = .next (s.takeTrap false 1 (BitVec.ofNat 64 (e.1 d a o).encode) 0))

/-- A load of S bytes from ordinary bytes of the own local memory gives gD their value, sign-extended or not, with latency 3;
a store writes the low S bytes of gD there, in free code at once, and its bytes are no barrier or status object from then on, which are
the model's choices (log 31, log 26); each leaves the marks of a data access. An address that is not a multiple of S
raises ALIGN with XVAL = the address. Outside the own local memory a load gives, and a store writes, the bytes of the cluster window, of
the own group's scratchpad, of the own mailbox counters and of virtual memory. An access that fails a later row of R152 raises the cause
of that row, WINDOW, ILLEGAL, PERM, PAGE, RACE or POISON, with its XVAL. (R150, R152, R153, R52, R33, R78, R326, R401) -/
def Obligations.LoadsAndStores : Prop :=
  loadsFromOwnMemory ∧ storesToOwnMemory ∧ misalignedAccess ∧ loadsElsewhere ∧ storesElsewhere ∧ accessTraps

/-- A part of WideMemory. -/
def Sys2Proof.Says.vectorMemory : Prop :=
  (∀ (d a : BitVec 5) (o : BitVec 13) (w : BitVec 2) (s t u : State) (x : Word) (v n : Nat) (p : List (Nat × Nat)),
    gsIn s [a] = some ([x], t) → n = 64 * 2 ^ w.toNat → v = ea x o n → v % 64 = 0 → v + n ≤ 0x20000 → p = strips s.core v (widened d.toNat (2 ^ w.toNat)) → ownOk t p .load →
    stripsOut 3 (t.getBytes (localPlace t.core.pos v) n) 0 (widened d.toNat (2 ^ w.toNat)) (noted t p .load) = some u →
    exec (.ldv d a o w) s = .next (went u 4)) ∧
  (∀ (d a : BitVec 5) (o : BitVec 13) (w : BitVec 2) (s t u : State) (x : Word) (xs : List VWord) (v n : Nat) (p : List (Nat × Nat)),
    gsIn s [a] = some ([x], t) → vsIn t (widened d.toNat (2 ^ w.toNat)) = some (xs, u) → n = 64 * 2 ^ w.toNat → v = ea x o n → v % 64 = 0 →
    v + n ≤ 0x20000 → p = strips s.core v (widened d.toNat (2 ^ w.toNat)) → ownOk u p .store →
    exec (.stv d a o w) s = .next (went (noted (stripsStored u v
      (List.zipWith (fun r y => if (s.core.vstream r).isSome then none else some y) (widened d.toNat (2 ^ w.toNat)) xs)) p .store) 4))

/-- A part of WideMemory. -/
def Sys2Proof.Says.registerRanges : Prop :=
  (∀ (d a b : BitVec 5) (s t u : State) (x : Word) (n : Nat),
    (∀ r ∈ rangeOf d b, s.core.gstream r = none) → gsIn s [a] = some ([x], t) → n = 8 * (b.toNat + 1) → x.toNat % 8 = 0 →
    ownOk t [(x.toNat, n)] .load →
    wordsOut d.toNat 3 (t.getBytes (localPlace t.core.pos x.toNat) n) (b.toNat + 1) 0 (noted t [(x.toNat, n)] .load) = some u →
    exec (.ldm d a b) s = .next (went u 4)) ∧
  (∀ (d a b : BitVec 5) (s t u : State) (x : Word) (xs : List Word) (n : Nat),
    (∀ r ∈ rangeOf d b, s.core.gstream r = none) → gsIn s [a] = some ([x], t) → gsIn t (rangeOf d b) = some (xs, u) →
    n = 8 * (b.toNat + 1) → x.toNat % 8 = 0 → ownOk u [(x.toNat, n)] .store →
    exec (.stm d a b) s = .next (went (noted (stored u x.toNat (xs.flatMap (fun y => leBytes 8 y.toNat))) [(x.toNat, n)] .store) 4)) ∧
  (∀ (d a b r : BitVec 5) (s : State),
    (rangeOf d b).find? (fun r => (s.core.gstream r).isSome) = some r →
    exec (.ldm d a b) s = .next (s.takeTrap false 17 (BitVec.ofNat 64 (r.toNat + 5 * 256)) 0) ∧
    exec (.stm d a b) s = .next (s.takeTrap false 17 (BitVec.ofNat 64 (r.toNat + 5 * 256)) 0))

/-- A part of WideMemory. -/
def Sys2Proof.Says.tileRows : Prop :=
  (∀ (d : BitVec 3) (a b : BitVec 5) (s t : State) (x y : Word),
    gsIn s [a, b] = some ([x, y], t) → rowsOk t x y .load → t.writeLocked d = false → t.readLocked d = false →
    ∃ u, exec (.ldt d a b) s = .next u ∧ u.core.pc = s.core.pc + 4 ∧
      u.core.t[d.toNat] = BitVec.ofNat 8192 (leNat ((rows x y).flatMap (fun v => t.getBytes (localPlace t.core.pos v) 64))) ∧
      u.core.ttag[d.toNat] = BitVec.ofNat 5 (max 1 (y.toNat / 2 ^ 24 % 32)) ∧
      (⟨.t d, s.now + 18 * s.period s.core.pos⟩ : Window) ∈ u.core.windows ∧ (∀ p, u.getByte p = s.getByte p) ∧ u.core.g = t.core.g ∧ u.core.v = s.core.v ∧
      (∀ j : Fin 8, j.val ≠ d.toNat → u.core.t[j] = s.core.t[j] ∧ u.core.ttag[j] = s.core.ttag[j])) ∧
  (∀ (d : BitVec 3) (a b : BitVec 5) (s t : State) (x y : Word),
    s.memWf → gsIn s [a, b] = some ([x, y], t) → rowsOk t x y .store → t.readLocked d = false → t.core.windowOpen t.now (.t d) = false →
    t.core.ract = false ∨ t.core.rtile ≠ d ∨ t.core.rfull = 0xFFFF →
    s.core.timed = false →
    ∃ u, exec (.stt d a b) s = .next u ∧ u.core.pc = s.core.pc + 4 ∧ u.core.t = s.core.t ∧ u.core.g = t.core.g ∧
      (∀ p, u.getByte p =
        match (List.range 16).reverse.find? (fun r =>
          decide (localPlace s.core.pos (x.toNat + r * (y.toNat % 2 ^ 24)) ≤ p ∧ p < localPlace s.core.pos (x.toNat + r * (y.toNat % 2 ^ 24)) + 64)) with
        | some r => BitVec.ofNat 8 (s.core.t[d.toNat].toNat / 2 ^ (8 * (64 * r + (p - localPlace s.core.pos (x.toNat + r * (y.toNat % 2 ^ 24))))))
        | none => s.getByte p)) ∧
  (∀ (d : BitVec 3) (a b : BitVec 5) (s t : State) (x y : Word),
    gsIn s [a, b] = some ([x, y], t) → x.toNat % 64 = 0 → y.toNat % 2 ^ 24 % 64 = 0 → s.core.pos < 49152 →
    (∀ v ∈ rows x y, v + 64 ≤ 0x20000 ∧ t.core.noArea v 64 = true) → tagAssigned (y.toNat / 2 ^ 24 % 32) = false →
    exec (.ldt d a b) s = .next (s.takeTrap false 2 (tagWord (y.toNat / 2 ^ 24) d.toNat 4) 0) ∧
    exec (.stt d a b) s = .next (s.takeTrap false 2 (tagWord (y.toNat / 2 ^ 24) d.toNat 4) 0))

/-- LDV and STV move the strips of a vector group, LDM and STM the 8-byte words of a register range, LDT and STT the 16 rows
of a tile at their pitch, each in ascending order with its landing latency, an LDT 18 cycles; a bound stream register in an LDM or STM
range raises STREAM subcode 5; LDT sets the tile's tag from the layout word, and a tag there that no tile has raises TAG. (A strip of a
bound stream register in LDV is a free value, log entry 13; that STV, STM and STT in free code are performed at once, and that STT
checks the tag as LDT does, is the model's choice, log 31 and log 32.) (R154, R155, R156, R157, R159, R160, R152, R83, R88) -/
def Obligations.WideMemory : Prop :=
  vectorMemory ∧ registerRanges ∧ tileRows

/-! ## Atomics -/

/-- A part of AtomicsAndPosts. -/
def Sys2Proof.Says.atomicsOnOwnMemory : Prop :=
  (∀ e ∈ amoPlain, ∀ (k a b : BitVec 5) (z : BitVec 1) (s t u : State) (x y : Word) (n old : Nat),
    gsIn s [a, b] = some ([x, y], t) → n = amoSize z → x.toNat % n = 0 → ownOk t [(x.toNat, n)] .atomic → old = oldAt t x.toNat n →
    gOut (noted (storedNow t x.toNat (leBytes n (amoNew e.2 n old (y.toNat % 2 ^ (8 * n))))) [(x.toNat, n)] .atomic) k
      (wrap (signedOf n old)) 4 = some u →
    exec (e.1 k a b z) s = .next (went u 4)) ∧
  (∀ e ∈ amoOrdered, ∀ (k a b c : BitVec 5) (z : BitVec 1) (s t r u : State) (x y q : Word) (n old : Nat),
    gsIn s [a, b, c] = some ([x, y, q], t) → n = amoSize z → x.toNat % n = 0 → ownOk t [(x.toNat, n)] .atomic →
    old = oldAt t x.toNat n → (e.2.2 = true → allPerformed t) →
    r = noted (storedNow t x.toNat (leBytes n (amoNew e.2.1 n old (y.toNat % 2 ^ (8 * n))))) [(x.toNat, n)] .atomic →
    gOut (if e.2.2 then r.syncRelease r.core.pos (r.scope (scopeIn c q)) else r.endRegion r.core.pos) k (wrap (signedOf n old)) 4 = some u →
    exec (e.1 k a b c z) s = .next (went u 4))

/-- A part of AtomicsAndPosts. -/
def Sys2Proof.Says.compareAndSwap : Prop :=
  ∀ (n : Nat) (k a b c : BitVec 5) (s t r u : State) (x y z : Word) (old : Nat),
    n = 4 ∨ n = 8 →
    gsIn s [a, b, c] = some ([x, y, z], t) → x.toNat % n = 0 → ownOk t [(x.toNat, n)] .atomic → old = oldAt t x.toNat n →
    allPerformed t → r = noted (if old = y.toNat % 2 ^ (8 * n) then storedNow t x.toNat (leBytes n z.toNat) else t) [(x.toNat, n)] .atomic →
    gOut (r.syncRelease r.core.pos none) k (wrap (signedOf n old)) 4 = some u →
    exec (if n = 4 then .casW k a b c else .casD k a b c) s = .next (went u 4)

/-- A part of AtomicsAndPosts. -/
def Sys2Proof.Says.atomicsElsewhere : Prop :=
  ∀ e ∈ amoPlain, ∀ (k a b : BitVec 5) (z : BitVec 1) (s t : State) (x y : Word) (n p : Nat),
    s.memWf → gsIn s [a, b] = some ([x, y], t) → n = amoSize z → reaches t x.toNat n .atomic p → k = 0 ∨ t.core.gstream k = none →
    ∃ u, exec (e.1 k a b z) s = .next u ∧ u.core.pc = s.core.pc + 4 ∧
      (k ≠ 0 → u.core.g[k.toNat] = wrap (signedOf n (t.getNat p n))) ∧
      (∀ i : Fin 32, i.val ≠ k.toNat → u.core.g[i] = t.core.g[i]) ∧
      (∀ q, q < p ∨ p + n ≤ q → u.getByte q = s.getByte q) ∧
      (∀ i, i < n → u.getByte (p + i) =
        BitVec.ofNat 8 (amoNew e.2 n (t.getNat p n) (y.toNat % 2 ^ (8 * n)) / 2 ^ (8 * i))) ∧
      u.core.v = s.core.v ∧ u.core.m = s.core.m ∧ u.core.t = s.core.t ∧ u.core.counters = s.core.counters ∧
      u.core.csat = s.core.csat ∧ u.core.xpc = s.core.xpc

/-- A part of AtomicsAndPosts. -/
def Sys2Proof.Says.atomicTraps : Prop :=
  (∀ e ∈ amoPlain, ∀ (k a b : BitVec 5) (z : BitVec 1) (s t : State) (x y w : Word) (cause : Nat) (q : RegionId),
    gsIn s [a, b] = some ([x, y], t) → trapsOf t x.toNat (amoSize z) .atomic cause w q →
    exec (e.1 k a b z) s = .next (s.takeTrap false cause w q)) ∧
  (∀ e ∈ amoOrdered, ∀ (k a b c : BitVec 5) (z : BitVec 1) (s t : State) (x y o w : Word) (cause : Nat) (q : RegionId),
    gsIn s [a, b, c] = some ([x, y, o], t) → (e.2.2 = true → allPerformed t) → trapsOf t x.toNat (amoSize z) .atomic cause w q →
    exec (e.1 k a b c z) s = .next (s.takeTrap false cause w q)) ∧
  (∀ (n : Nat) (k a b c : BitVec 5) (s t : State) (x y z w : Word) (cause : Nat) (q : RegionId), n = 4 ∨ n = 8 →
    gsIn s [a, b, c] = some ([x, y, z], t) → allPerformed t → trapsOf t x.toNat n .atomic cause w q →
    exec (if n = 4 then .casW k a b c else .casD k a b c) s = .next (s.takeTrap false cause w q))

/-- A part of AtomicsAndPosts. -/
def Sys2Proof.Says.postSends : Prop :=
  ∀ (a b c : BitVec 5) (s t r : State) (x y z : Word) (p : Nat) (i : BitVec 6),
    gsIn s [a, b, c] = some ([x, y, z], t) → p < 49152 → x.toNat = 0x60000000 + p * 0x100 + i.toNat * 4 →
    s.core.timed = false ∨ (t.unsent t.core.pos).length ≤ Config.injectionCredits →
    r = t.syncRelease t.core.pos (t.scope (scopeIn c z)) →
    exec (.post a b c) s = .next (went
      (if t.owner p = t.owner t.core.pos then
        { r with msgs := r.msgs ++ [⟨.post t.core.pos, t.owner t.core.pos, p, i, BitVec.ofNat 32 y.toNat, none, t.lastStore t.core.pos⟩] }
      else r.postReject t.core.pos x) 4)

/-- An AMO reads the old value, writes the function of R66 of it and b, and gives gK the old value sign-extended with latency
4, with acquire or release as named, on the own local memory, the cluster window, the own group's scratchpad and virtual memory; CAS
writes c when the old value equals b, and is always synchronising; an access that fails a row of R152 raises its cause; POST puts an
increment under way to a counter of a core of the same region, and raises POST-REJECT at the poster for another region's.
(R66, R150, R152, R172, R173, R174, R327, R401) -/
def Obligations.AtomicsAndPosts : Prop :=
  atomicsOnOwnMemory ∧ compareAndSwap ∧ atomicsElsewhere ∧ atomicTraps ∧ postSends

/-! ## Waits -/

/-- A part of WaitsIssue. -/
def Sys2Proof.Says.waitsForObjects : Prop :=
  (∀ (a b c : BitVec 5) (s t : State) (x y z : Word), gsIn s [a, b, c] = some ([x, y, z], t) → x.toNat ≤ 63 →
    exec (.waitc a b c) s = .next
      (if t.core.suit.act = false ∧ (t.core.counters.toList.getD x.toNat 0 - BitVec.ofNat 32 y.toNat).toNat < 2 ^ 31 then passed t
       else waits s t (.counter (BitVec.ofNat 6 x.toNat) (BitVec.ofNat 32 y.toNat) (scopeIn c z)))) ∧
  (∀ (a b c : BitVec 5) (s t : State) (x y z : Word), gsIn s [a, b, c] = some ([x, y, z], t) → 63 < x.toNat →
    exec (.waitc a b c) s = .next (s.takeTrap false 4 x 0)) ∧
  (∀ (k a c : BitVec 5) (s t : State) (x z d : Word), gsIn s [a, c, k] = some ([x, z, d], t) →
    d.toNat % 16 = 0 → d.toNat < 0x20000 → t.getNat (localPlace t.core.pos d.toNat) 8 / 2 ^ 58 % 2 = 0 →
    exec (.waitb k a c) s = .next
      (if t.core.suit.act = false ∧ t.getNat (localPlace t.core.pos d.toNat) 8 / 2 ^ 56 % 2 = x.toNat % 2 then passed t
       else waits s t (.barrier d.toNat (x.toNat % 2 == 1) (scopeIn c z)))) ∧
  (∀ (k a c : BitVec 5) (s t : State) (x z d : Word), gsIn s [a, c, k] = some ([x, z, d], t) →
    d.toNat % 16 = 0 → d.toNat < 0x20000 → t.getNat (localPlace t.core.pos d.toNat) 8 / 2 ^ 58 % 2 = 1 →
    exec (.waitb k a c) s = .next (s.takeTrap false 11 d 0)) ∧
  (∀ (c : BitVec 5) (s t : State) (z : Word), s.core.timed = false → gsIn s [c] = some ([z], t) →
    exec (.fence c) s = .next
      (if t.core.suit.act = false ∧ t.accessesDone t.core.pos = true then passed (t.releaseMarks t.core.pos (t.scope (scopeIn c z)))
       else waits s t (.fence (scopeIn c z))))

/-! ## The vector unit -/

/-- A part of VectorLanes. -/
def Sys2Proof.Says.vectorLanesWide : Prop :=
  (∀ e ∈ vectorTwo, ∀ (d a b c : BitVec 4) (s t u : State) (x y : VWord) (T : Nat),
    typed e.2.1 c s [a, b] T → vsIn s [a, b] = some ([x, y], t) →
    laneOut t d (tagWidth T) T e.2.2.1 (fun j => e.2.2.2 T (lane (tagWidth T) x j) (lane (tagWidth T) y j)) = some u →
    exec (e.1 d a b c) s = .next (went u 4)) ∧
  (∀ e ∈ vectorOne, ∀ (d a c : BitVec 4) (s t u : State) (x : VWord) (T : Nat),
    typed e.2.1 c s [a] T → vsIn s [a] = some ([x], t) →
    laneOut t d (tagWidth T) T e.2.2.1 (fun j => e.2.2.2 T (lane (tagWidth T) x j)) = some u →
    exec (e.1 d a c) s = .next (went u 4)) ∧
  (∀ e ∈ vectorThree, ∀ (d a b c : BitVec 4) (s t u : State) (x y z : VWord) (T : Nat),
    typed e.2.1 c s [a, b, d] T → vsIn s [a, b, d] = some ([x, y, z], t) →
    laneOut t d (tagWidth T) T e.2.2.1
      (fun j => e.2.2.2 T (lane (tagWidth T) x j) (lane (tagWidth T) y j) (lane (tagWidth T) z j)) = some u →
    exec (e.1 d a b c) s = .next (went u 4))

/-- A part of VectorLanes. -/
def Sys2Proof.Says.vectorCompactLanes : Prop :=
  (∀ e ∈ compactLanes, ∀ (d a : BitVec 4) (s t u : State) (x y : VWord) (T : Nat),
    typed e.2.1 0 s [d, a] T → vsIn s [d, a] = some ([x, y], t) →
    laneOut t d (tagWidth T) T e.2.2.1 (fun j => e.2.2.2 T (lane (tagWidth T) x j) (lane (tagWidth T) y j)) = some u →
    exec (e.1 d a) s = .next (went u 2)) ∧
  (∀ e ∈ compactLane, ∀ (d a : BitVec 4) (s t u : State) (x : VWord) (T : Nat),
    typed tagSigned 0 s [a] T → vsIn s [a] = some ([x], t) →
    laneOut t d (tagWidth T) T 2 (fun j => e.2 T (lane (tagWidth T) x j)) = some u →
    exec (e.1 d a) s = .next (went u 2)) ∧
  (∀ (d a : BitVec 4) (s t u : State) (x : VWord), vsIn s [a] = some ([x], t) → vOut t d x (s.core.tagV a) 2 = some u →
    exec (.vmovC d a) s = .next (went u 2)) ∧
  (∀ (d a : BitVec 4) (s t u : State) (x y z : VWord) (T : Nat),
    typed tagNum 0 s [a, 15, d] T → vsIn s [a, 15, d] = some ([x, y, z], t) →
    laneOut t d (tagWidth T) T 4
      (fun j => maccLane T T (lane (tagWidth T) x j) (lane (tagWidth T) y j) (lane (tagWidth T) z j)) = some u →
    exec (.vmaccC d a) s = .next (went u 2))

/-- A part of VectorLanes: TAG (R83, R184). The model names the first source that fails in the order of the operands (log 27). -/
def Sys2Proof.Says.vectorTagTraps : Prop :=
  (∀ e ∈ vectorTwo, ∀ (d a b c : BitVec 4) (s : State) (f : Nat),
    f = (s.core.tagV a).toNat → (c ≠ 0 ∧ f ≠ codeTag c) ∨ (c = 0 ∧ e.2.1 f = false) →
    exec (e.1 d a b c) s = .next (s.takeTrap false 2 (tagWord f a.toNat 1) 0)) ∧
  (∀ e ∈ vectorTwo, ∀ (d a b c : BitVec 4) (s : State) (f T : Nat),
    T = (s.core.tagV a).toNat → (c ≠ 0 ∧ T = codeTag c) ∨ (c = 0 ∧ e.2.1 T = true) → f = (s.core.tagV b).toNat → f ≠ T →
    exec (e.1 d a b c) s = .next (s.takeTrap false 2 (tagWord f b.toNat 2) 0)) ∧
  (∀ e ∈ vectorOne, ∀ (d a c : BitVec 4) (s : State) (f : Nat),
    f = (s.core.tagV a).toNat → (c ≠ 0 ∧ f ≠ codeTag c) ∨ (c = 0 ∧ e.2.1 f = false) →
    exec (e.1 d a c) s = .next (s.takeTrap false 2 (tagWord f a.toNat 1) 0)) ∧
  (∀ e ∈ vectorThree, ∀ (d a b c : BitVec 4) (s : State) (f T : Nat),
    T = (s.core.tagV a).toNat → (c ≠ 0 ∧ T = codeTag c) ∨ (c = 0 ∧ e.2.1 T = true) → (s.core.tagV b).toNat = T →
    f = (s.core.tagV d).toNat → f ≠ T → exec (e.1 d a b c) s = .next (s.takeTrap false 2 (tagWord f d.toNat 0) 0)) ∧
  (∀ e ∈ compares, ∀ (d : BitVec 3) (a b c : BitVec 4) (s : State) (f : Nat),
    f = (s.core.tagV a).toNat → (c ≠ 0 ∧ f ≠ codeTag c) ∨ (c = 0 ∧ tagNum f = false) →
    exec (e.1 d a b c) s = .next (s.takeTrap false 2 (tagWord f a.toNat 1) 0))

/-- For sources of the instruction's type, every lane of the result is the lane function of the source lanes, rounded or
wrapped in the type; the destination's tag is the type, its bits land with the rule's latency and the flags of all lanes with
them; nothing else changes. A source of another type raises TAG with its tag, register and operand, and which of several is named is the
model's choice (log 27); so does a compare into a mask. (R83, R182, R184, R185, R188, R190, R192, R57, R204, R84) -/
def Obligations.VectorLanes : Prop :=
  vectorLanesWide ∧ vectorCompactLanes ∧ vectorTagTraps

/-- A part of VectorMasks. -/
def Sys2Proof.Says.vectorCompares : Prop :=
  ∀ e ∈ compares, ∀ (d : BitVec 3) (a b c : BitVec 4) (s t : State) (x y : VWord) (T w : Nat),
    typed tagNum c s [a, b] T → w = tagWidth T → vsIn s [a, b] = some ([x, y], t) →
    exec (e.1 d a b c) s = .next (went (flagsOut (mOut t d (maskOf w (fun j => (laneRel e.2 T (lane w x j) (lane w y j)).1)) 2)
      ((List.range (512 / w)).foldl (fun f j => f ||| (laneRel e.2 T (lane w x j) (lane w y j)).2) 0) 2) 4)

/-- A part of VectorGroups. -/
def Sys2Proof.Says.vectorGroupResults : Prop :=
  (∀ (d a b : BitVec 4) (w : BitVec 2) (c : BitVec 4) (s t u : State) (x y : VWord) (zs : List VWord) (T Tw n : Nat),
    n = 2 ^ w.toNat → typed tagNum c s [a, b] T → wideOf T n = some Tw →
    (∀ r ∈ widened d.toNat n, (s.core.tagV r).toNat = Tw) →
    vsIn s (a :: b :: widened d.toNat n) = some (x :: y :: zs, t) →
    groupOut d.toNat (tagWidth Tw) Tw 4 (fun j => maccLane T Tw (lane (tagWidth T) x j) (lane (tagWidth T) y j) (element (tagWidth Tw) zs j))
      n 0 t = some u →
    exec (.vmacc d a b w c) s = .next (went u 4)) ∧
  (∀ (d a b : BitVec 4) (w : BitVec 1) (c : BitVec 4) (s t u : State) (x y : VWord) (T k : Nat),
    typed tagUint c s [a, b] T → k = tagWidth T → vsIn s [a, b] = some ([x, y], t) →
    (if w = 0 then laneOut t d k T 4 (fun j => (carrylessOf k (lane k x j) (lane k y j) % 2 ^ k, 0))
     else groupOut d.toNat k T 4 (fun e => (carrylessOf k (lane k x (e / 2)) (lane k y (e / 2)) / 2 ^ (k * (e % 2)) % 2 ^ k, 0)) 2 0 t) = some u →
    exec (.vclmul d a b w c) s = .next (went u 4))

/-- A part of VectorGroups. -/
def Sys2Proof.Says.vectorConversion : Prop :=
  (∀ (d a : BitVec 4) (w : BitVec 2) (r : BitVec 4) (s t u : State) (x : VWord),
    s.core.tagV a ≠ 0 → vsIn s [a] = some ([x], t) → vOut t d x 1 4 = some u →
    exec (.vcvt d a w r 11) s = .next (went u 4)) ∧
  (∀ (d a : BitVec 4) (w : BitVec 2) (r c : BitVec 4) (s t u : State) (xs : List VWord) (S T ws wt : Nat),
    S = (s.core.tagV a).toNat → T = codeTag c → S ≠ 0 → S ≠ 1 → T ≠ 1 → ws = tagWidth S → wt = tagWidth T →
    2 ^ w.toNat = max ws wt / min ws wt →
    (if ws < wt then d else if wt < ws then a else 0).toNat % 2 ^ w.toNat = 0 →
    (∀ q ∈ widened a.toNat (if wt < ws then 2 ^ w.toNat else 1), (s.core.tagV q).toNat = S) →
    vsIn s (widened a.toNat (if wt < ws then 2 ^ w.toNat else 1)) = some (xs, t) →
    groupOut d.toNat wt T 4 (fun j => cvtLane t S T (modeNamed s.core.crnd r) (element ws xs j))
      (if ws < wt then 2 ^ w.toNat else 1) 0 t = some u →
    exec (.vcvt d a w r c) s = .next (went u 4))

/-- VMACC accumulates products in a group of the wider type, VCLMUL gives carry-less products narrow or wide, and VCVT
converts every element between a register and a group, register D + i landing i cycles after D. (R186, R189, R191, R194, R195)
-/
def Obligations.VectorGroups : Prop :=
  vectorGroupResults ∧ vectorConversion

/-- VREDSUM of integers is the wrapped sum, of floats the FP32 sum by the tree of R196; VREDMAX and VREDMIN fold max and min
over the lanes; gD receives the value with its latency and flags; a source of another type raises TAG. (R196, R197, R83, R184) -/
def Obligations.VectorReductions : Prop :=
  (∀ (d : BitVec 5) (a c : BitVec 4) (s : State) (f : Nat),
    f = (s.core.tagV a).toNat → (c ≠ 0 ∧ f ≠ codeTag c) ∨ (c = 0 ∧ tagNum f = false) →
    exec (.vredsum d a c) s = .next (s.takeTrap false 2 (tagWord f a.toNat 1) 0) ∧
    exec (.vredmax d a c) s = .next (s.takeTrap false 2 (tagWord f a.toNat 1) 0) ∧
    exec (.vredmin d a c) s = .next (s.takeTrap false 2 (tagWord f a.toNat 1) 0)) ∧
  (∀ (d : BitVec 5) (a c : BitVec 4) (s t u : State) (x : VWord) (T w : Nat),
    typed tagNum c s [a] T → tagFlt T = false → w = tagWidth T → vsIn s [a] = some ([x], t) →
    gOut t d (wrap ((List.range (512 / w)).foldl (fun z j => z + laneInt T (lane w x j)) 0)) 4 = some u →
    exec (.vredsum d a c) s = .next (went u 4)) ∧
  (∀ (d : BitVec 5) (a c : BitVec 4) (s t u : State) (x : VWord) (T w : Nat) (y : Nat × Fl),
    typed tagNum c s [a] T → tagFlt T = true → w = tagWidth T → vsIn s [a] = some ([x], t) →
    y = treeSum 5 ((List.range (512 / w)).map (fun j => (floatToFloat (tagFmt T) fp32 .rne (lane w x j)).1)) →
    gOut t d (BitVec.ofNat 64 y.1) 8 = some u →
    exec (.vredsum d a c) s = .next (went (flagsOut u
      ((List.range (512 / w)).foldl (fun f j => f ||| (floatToFloat (tagFmt T) fp32 .rne (lane w x j)).2) 0 ||| y.2) 8) 4)) ∧
  (∀ (isMax : Bool) (d : BitVec 5) (a c : BitVec 4) (s t u : State) (x : VWord) (T w : Nat) (y : Nat × Fl),
    typed tagNum c s [a] T → w = tagWidth T → vsIn s [a] = some ([x], t) →
    y = (List.range (512 / w - 1)).foldl (fun r j =>
      let z := numLane (if isMax then max else min) (fun F => fminmax F isMax) T r.1 (lane w x (j + 1)); (z.1, r.2 ||| z.2)) (lane w x 0, 0) →
    gOut t d (if tagSint T then wrap (laneInt T y.1) else BitVec.ofNat 64 y.1) 4 = some u →
    exec (if isMax then .vredmax d a c else .vredmin d a c) s = .next (went (flagsOut u y.2 4) 4))

/-- VSCAN writes the inclusive prefix sums of the lanes; VSORTKV writes keys and values permuted by a stable order of the
keys, in the direction of B, whose values from 2 on are illegal; a source, or keys, of another type, and values of another width, raise
TAG. (R198, R205) -/
def Obligations.VectorScanAndSort : Prop :=
  (∀ (d a c : BitVec 4) (s t u : State) (x : VWord) (T w : Nat),
    typed tagNum c s [a] T → w = tagWidth T → vsIn s [a] = some ([x], t) →
    laneOut t d w T 8 (prefixAt T w x) = some u →
    exec (.vscan d a c) s = .next (went u 4)) ∧
  (∀ (d a c : BitVec 4) (b : BitVec 1) (s : State) (f : Nat),
    f = (s.core.tagV a).toNat → (c ≠ 0 ∧ f ≠ codeTag c) ∨ (c = 0 ∧ tagNum f = false) →
    exec (.vscan d a c) s = .next (s.takeTrap false 2 (tagWord f a.toNat 1) 0) ∧
    exec (.vsortkv d a b c) s = .next (s.takeTrap false 2 (tagWord f a.toNat 1) 0)) ∧
  (∀ (d a c r : BitVec 4) (b : BitVec 1) (s : State) (T f : Nat), typed tagNum c s [a] T → r = BitVec.ofNat 4 (a.toNat + 1) →
    f = (s.core.tagV r).toNat → f = 0 ∨ tagWidth f ≠ tagWidth T →
    exec (.vsortkv d a b c) s = .next (s.takeTrap false 2 (tagWord f r.toNat 1) 0)) ∧
  (∀ (d a c : BitVec 4) (n : Nat), 2 ≤ n → n < 32 → decodeWord (Instr.encode (.vsortkv d a 0 c) + n * 2 ^ 17) = none) ∧
  (∀ (d a : BitVec 4) (b : BitVec 1) (c : BitVec 4) (s t : State) (x y : VWord) (T w : Nat) (V : Tag),
    typed tagNum c s [a] T → w = tagWidth T → V = s.core.tagV (BitVec.ofNat 4 (a.toNat + 1)) → V ≠ 0 → tagWidth V.toNat = w →
    vsIn s [a, BitVec.ofNat 4 (a.toNat + 1)] = some ([x, y], t) →
    ∃ is : List Nat, is.Perm (List.range (512 / w)) ∧
      is.Pairwise (fun i j => after T w b x i j = false ∧ (after T w b x j i = false → i < j)) ∧
      ∀ u r, vOut t d (ofLanes w (fun k => lane w x (is.getD k 0))) (BitVec.ofNat 5 T) 12 = some u →
        vOut u (BitVec.ofNat 4 (d.toNat + 1)) (ofLanes w (fun k => lane w y (is.getD k 0))) V 13 = some r →
        exec (.vsortkv d a b c) s = .next (went r 4))

/-- A part of VectorMoves. -/
def Sys2Proof.Says.vectorMovesOfLanes : Prop :=
  (∀ (d a : BitVec 4) (b : BitVec 3) (c : BitVec 4) (s t u r : State) (x z : VWord) (m : Word) (T w : Nat),
    typed tagAny c s [a, d] T → w = tagWidth T → vIn s a = some (x, t) → vIn (mIn t b).2 d = some (z, u) → m = (mIn t b).1 →
    vOut u d (ofLanes w (fun j => if governs m w j then lane w x j else lane w z j)) (BitVec.ofNat 5 T) 2 = some r →
    exec (.vsel d a b c) s = .next (went r 4)) ∧
  (∀ (d a c : BitVec 4) (s t u : State) (x : VWord) (S : Nat), S = (s.core.tagV a).toNat →
    c = 0 ∨ (S ≠ 0 ∧ (codeTag c = 1 ∨ S = 1 ∨ tagWidth S = tagWidth (codeTag c))) →
    vsIn s [a] = some ([x], t) → vOut t d x (BitVec.ofNat 5 (if c = 0 then S else codeTag c)) 2 = some u →
    exec (.vmov d a c) s = .next (went u 4)) ∧
  (∀ (d : BitVec 4) (a : BitVec 5) (c : BitVec 4) (s t u : State) (x : Word) (T w : Nat),
    T = codeTag c → w = tagWidth T → gsIn s [a] = some ([x], t) →
    vOut t d (ofLanes w (fun _ => x.toNat)) (BitVec.ofNat 5 T) 2 = some u → exec (.vbcast d a c) s = .next (went u 4)) ∧
  (∀ (d : BitVec 4) (a b : BitVec 5) (c : BitVec 4) (s t u r : State) (x k : Word) (z : VWord) (T w : Nat),
    typed tagData c s [d] T → w = tagWidth T → gsIn s [a, b] = some ([x, k], t) → vIn t d = some (z, u) →
    vOut u d (ofLanes w (fun j => if j = k.toNat % (512 / w) then x.toNat else lane w z j)) (BitVec.ofNat 5 T) 2 = some r →
    exec (.vins d a b c) s = .next (went r 4)) ∧
  (∀ (d : BitVec 5) (a : BitVec 4) (b : BitVec 5) (c : BitVec 4) (s t u r : State) (x : VWord) (k : Word) (T w y : Nat),
    typed tagData c s [a] T → w = tagWidth T → vIn s a = some (x, t) → gIn t b = some (k, u) → y = lane w x (k.toNat % (512 / w)) →
    gOut u d (if tagSint T then wrap (sx w y) else BitVec.ofNat 64 y) 3 = some r →
    exec (.vext d a b c) s = .next (went r 4))

/-- A part of VectorMoves. -/
def Sys2Proof.Says.vectorRearrangements : Prop :=
  (∀ (d a b c : BitVec 4) (s t u : State) (x y : VWord) (T w : Nat),
    typed tagData c s [a] T → w = tagWidth T → (s.core.tagV b).toNat = unsignedTag w → vsIn s [a, b] = some ([x, y], t) →
    vOut t d (ofLanes w (fun j => lane w x (lane w y j % (512 / w)))) (BitVec.ofNat 5 T) 3 = some u →
    exec (.vperm d a b c) s = .next (went u 4)) ∧
  (∀ (d a : BitVec 4) (b : BitVec 3) (c : BitVec 4) (s t u : State) (x : VWord) (T w : Nat),
    typed tagData c s [a] T → w = tagWidth T → vIn s a = some (x, t) →
    vOut (mIn t b).2 d (ofLanes w (fun j => match ((List.range (512 / w)).filter (governs (mIn t b).1 w))[j]? with
      | some i => lane w x i
      | none => 0)) (BitVec.ofNat 5 T) 3 = some u →
    exec (.vcompress d a b c) s = .next (went u 4)) ∧
  (∀ (d a : BitVec 4) (b : BitVec 3) (c : BitVec 4) (s t u : State) (x : VWord) (T w : Nat),
    typed tagData c s [a] T → w = tagWidth T → vIn s a = some (x, t) →
    vOut (mIn t b).2 d (ofLanes w (fun j =>
      if governs (mIn t b).1 w j then lane w x ((List.range j).countP (governs (mIn t b).1 w)) else 0)) (BitVec.ofNat 5 T) 3 = some u →
    exec (.vexpand d a b c) s = .next (went u 4)) ∧
  (∀ (d a b c : BitVec 4) (s t u : State) (x y : VWord) (T w : Nat),
    typed tagTable c s [b] T → w = tagWidth T → (s.core.tagV a).toNat = unsignedTag w → vsIn s [a, b] = some ([x, y], t) →
    vOut t d (ofLanes w (fun j => lane w y (lane w x j % 16))) (BitVec.ofNat 5 T) 3 = some u →
    exec (.vlut16 d a b c) s = .next (went u 4)) ∧
  (∀ (d a b : BitVec 4) (q : BitVec 2) (c : BitVec 4) (s t u : State) (x : VWord) (ys : List VWord) (T w : Nat),
    typed tagTable c s (widened b.toNat (2 ^ q.toNat)) T → w = tagWidth T → (w = 8 ∧ q = 2) ∨ (w = 16 ∧ q = 3) →
    (s.core.tagV a).toNat = unsignedTag w → vsIn s (a :: widened b.toNat (2 ^ q.toNat)) = some (x :: ys, t) →
    vOut t d (ofLanes w (fun j => element w ys (lane w x j % 256))) (BitVec.ofNat 5 T) 3 = some u →
    exec (.vlut256 d a b q c) s = .next (went u 4))

/-- Each gives its destination the lanes that its rule selects from the sources, with the type as the tag and the latency of
the rule. (R193, R199, R200, R203, R184) -/
def Obligations.VectorMoves : Prop :=
  vectorMovesOfLanes ∧ vectorRearrangements

/-- VGATHER's destination, a register or a bound write stream, receives the elements at gB + index*size: in timed code as they stand three
cycles after it issues, when its reads count as issued; VSCATTER's elements are stored in lane order, in timed code four cycles after it
issues. That both act at once, in program order, in free code is the model's choice (log 15, log 31). (R201, R202, R33, R89, R333) -/
def Obligations.GatherAndScatter : Prop :=
  (∀ (d a : BitVec 4) (b : BitVec 5) (c : BitVec 4) (s t r q u : State) (x : VWord) (y : Word) (T w : Nat) (g : Gather)
      (slot : Option (Nat × Nat)),
    T = codeTag c → w = tagWidth T → (s.core.tagV a).toNat = unsignedTag w → vIn s a = some (x, t) → gIn t b = some (y, r) →
    elementsPass w y x .load r q →
    slot = (match r.core.vstream d with
      | some z => some (r.now + 6 * r.period r.core.pos,
          (z.landing.filter (fun e => e.1 == r.now + 6 * r.period r.core.pos)).length)
      | none => none) →
    g = ⟨r.now + 3 * r.period r.core.pos, r.core.pos, d, w, (elementAddr w y x).map (localPlace r.core.pos), slot⟩ →
    vOut q d (ofLanes w (fun j => q.getNat (localPlace r.core.pos ((elementAddr w y x).getD j 0)) (w / 8))) (BitVec.ofNat 5 T) 6 = some u →
    exec (.vgather d a b c) s = .next (went (if s.core.timed then { u with gathers := insertGather g u.gathers } else u) 4)) ∧
  (∀ (s : State) (g : Gather) (r : List Gather) (i : Fin 16), s.gathers = g :: r → g.due ≤ s.now → (∀ e ∈ r, s.now < e.due) →
    g.core = s.core.pos → g.dest.toNat = i.val → g.append = none → g.width = 8 ∨ g.width = 16 ∨ g.width = 32 →
    g.places.length = 512 / g.width →
    (fillDue s s.gathers).gathers = r ∧ (fillDue s s.gathers).mem = s.mem ∧
    (fillDue s s.gathers).core.v[i] = ofLanes g.width (fun j => (s.memoryAt g.due).getNat (g.places.getD j 0) (g.width / 8))) ∧
  (∀ (d a : BitVec 4) (b : BitVec 5) (c : BitVec 4) (s t r u q : State) (x z : VWord) (y : Word) (T w : Nat),
    typed tagData c s [d] T → w = tagWidth T → (s.core.tagV a).toNat = unsignedTag w → vIn s a = some (x, t) → gIn t b = some (y, r) →
    vIn r d = some (z, u) → elementsPass w y x .store u q →
    exec (.vscatter d a b c) s = .next (went (if s.core.timed then { q with
        later := (List.range (512 / w)).foldl (fun l j =>
          insertLater ⟨u.now + 4 * u.period u.core.pos, u.core.pos, localPlace u.core.pos ((y.toNat + lane w x j * (w / 8)) % 2 ^ 64),
            leBytes (w / 8) (lane w z j), []⟩ l) u.later }
      else (List.range (512 / w)).foldl (fun p j =>
        p.storeBy true (localPlace u.core.pos ((y.toNat + lane w x j * (w / 8)) % 2 ^ 64)) (leBytes (w / 8) (lane w z j))) q) 4))

/-- A part of VectorMasks. -/
def Sys2Proof.Says.maskResults : Prop :=
  (∀ (d a b : BitVec 3) (s : State), exec (.mand d a b) s = .next (went (mOut (mIn (mIn s a).2 b).2 d ((mIn s a).1 &&& (mIn (mIn s a).2 b).1) 1) 4)) ∧
  (∀ (d a b : BitVec 3) (s : State), exec (.mor d a b) s = .next (went (mOut (mIn (mIn s a).2 b).2 d ((mIn s a).1 ||| (mIn (mIn s a).2 b).1) 1) 4)) ∧
  (∀ (d a b : BitVec 3) (s : State), exec (.mxor d a b) s = .next (went (mOut (mIn (mIn s a).2 b).2 d ((mIn s a).1 ^^^ (mIn (mIn s a).2 b).1) 1) 4)) ∧
  (∀ (d a : BitVec 3) (s : State), exec (.mnot d a) s = .next (went (mOut (mIn s a).2 d (~~~(mIn s a).1) 1) 4)) ∧
  (∀ (d : BitVec 5) (a : BitVec 3) (b : BitVec 2) (s t : State), b ≠ 3 →
    gOut (mIn s a).2 d (BitVec.ofNat 64 ((List.range (64 / 2 ^ b.toNat)).countP (counted (mIn s a).1 b))) 2 = some t →
    exec (.mpop d a b) s = .next (went t 4)) ∧
  (∀ (d : BitVec 5) (a : BitVec 3) (b : BitVec 2) (s t : State), b ≠ 3 →
    gOut (mIn s a).2 d (BitVec.ofNat 64 ((List.range (64 / 2 ^ b.toNat)).findIdx (counted (mIn s a).1 b))) 2 = some t →
    exec (.mfirst d a b) s = .next (went t 4))

/-- VCMP sets all bits of a lane of mD to the relation of the lanes of its sources, with the flags of signalling comparisons;
MAND, MOR, MXOR, MNOT, MPOP and MFIRST give their values; m0 reads as ones and discards writes. (R192, R206, R71, R127) -/
def Obligations.VectorMasks : Prop :=
  vectorCompares ∧ maskResults

/-! ## Streams -/

/-- A part of Streams. -/
def Sys2Proof.Says.streamBinding : Prop :=
  (∀ (d : BitVec 3) (a b : BitVec 5) (s t : State) (x y : Word),
    gsIn s [a, b] = some ([x, y], t) → releasable t false d.toNat →
    (∀ r, describes (bound t false d.toNat none) false x.toNat y r → r.due = s.now + ((t.firstDelay t.core.pos r.base.toNat).getD 0) * t.period t.core.pos →
      exec (.sbindG d a b) s = .next (went (bound t false d.toNat (some r)) 4)) ∧
    ((∀ r, ¬ describes t false x.toNat y r) →
      exec (.sbindG d a b) s = .next ((bound s false d.toNat none).takeTrap false 17 (BitVec.ofNat 64 (24 + d.toNat + 4 * 256)) 0))) ∧
  (∀ (d : BitVec 2) (a b : BitVec 5) (s t : State) (x y : Word),
    gsIn s [a, b] = some ([x, y], t) → releasable t true d.toNat →
    (∀ r, describes (bound t true d.toNat none) true x.toNat y r → r.due = s.now + ((t.firstDelay t.core.pos r.base.toNat).getD 0) * t.period t.core.pos →
      exec (.sbindV d a b) s = .next (went (bound t true d.toNat (some r)) 4)) ∧
    ((∀ r, ¬ describes t true x.toNat y r) →
      exec (.sbindV d a b) s = .next ((bound s true d.toNat none).takeTrap false 17 (BitVec.ofNat 64 (12 + d.toNat + 32 + 4 * 256)) 0))) ∧
  (∀ (d : BitVec 3) (s : State), releasable s false d.toNat →
    exec (.sfreeG d) s = .next (went (bound s false d.toNat none) 4)) ∧
  (∀ (d : BitVec 2) (s : State), releasable s true d.toNat →
    exec (.sfreeV d) s = .next (went (bound s true d.toNat none) 4))

/-- A source that raises STREAM with a subcode: a bound write stream (3), or a read stream past its last element (1) (R167). -/
def Sys2Proof.Says.badSource (r : Option Stream) (n : Nat) : Prop :=
  ∃ t, r = some t ∧ ((t.mode.toNat % 2 = 1 ∧ n = 3) ∨ (t.mode.toNat % 2 = 0 ∧ t.n0 * t.n1 * t.n2 ≤ t.next ∧ n = 1))

/-- A destination that raises STREAM with a subcode: a bound read stream (3), or a write stream past its last element (2) (R167). -/
def Sys2Proof.Says.badTarget (r : Option Stream) (n : Nat) : Prop :=
  ∃ t, r = some t ∧ ((t.mode.toNat % 2 = 0 ∧ n = 3) ∨ (t.mode.toNat % 2 = 1 ∧ t.n0 * t.n1 * t.n2 ≤ t.next ∧ n = 2))

/-- XVAL of STREAM for register number i of class g or v (R167). -/
def Sys2Proof.Says.streamWord (isV : Bool) (i n : Nat) : Word := BitVec.ofNat 64 (i + (if isV then 32 else 0) + n * 256)

/-- A part of Streams: a bound stream register as an operand against its direction, or past its elements, raises STREAM (R167). -/
def Sys2Proof.Says.streamTraps : Prop :=
  (∀ e ∈ scalarTwo ++ scalarMul, ∀ (d a b : BitVec 5) (s t : State) (x y : Word) (n : Nat),
    (badSource (s.core.gstream a) n → (a = 31 → s.metaBusy = false) →
      exec (e.1 d a b) s = .next (s.takeTrap false 17 (streamWord false a.toNat n) 0)) ∧
    (gIn s a = some (x, t) → badSource (t.core.gstream b) n → (b = 31 → t.metaBusy = false) →
      exec (e.1 d a b) s = .next (s.takeTrap false 17 (streamWord false b.toNat n) 0)) ∧
    (gsIn s [a, b] = some ([x, y], t) → badTarget (t.core.gstream d) n →
      exec (e.1 d a b) s = .next (s.takeTrap false 17 (streamWord false d.toNat n) 0))) ∧
  (∀ e ∈ scalarThree, ∀ (d a b : BitVec 5) (s t : State) (x y z : Word) (n : Nat),
    (gsIn s [a, b] = some ([x, y], t) → badSource (t.core.gstream d) n → (d = 31 → t.metaBusy = false) →
      exec (e.1 d a b) s = .next (s.takeTrap false 17 (streamWord false d.toNat n) 0)) ∧
    (gsIn s [a, b, d] = some ([x, y, z], t) → badTarget (t.core.gstream d) n →
      exec (e.1 d a b) s = .next (s.takeTrap false 17 (streamWord false d.toNat n) 0))) ∧
  (∀ e ∈ branches, ∀ (a b : BitVec 5) (o : BitVec 15) (s t : State) (x : Word) (n : Nat), gIn s a = some (x, t) →
    badSource (t.core.gstream b) n → (b = 31 → t.metaBusy = false) →
    exec (e.1 a b o) s = .next (s.takeTrap false 17 (streamWord false b.toNat n) 0)) ∧
  (∀ e ∈ stores, ∀ (d a : BitVec 5) (o : BitVec 13) (s : State) (n : Nat), badSource (s.core.gstream a) n → (a = 31 → s.metaBusy = false) →
    exec (e.1 d a o) s = .next (s.takeTrap false 17 (streamWord false a.toNat n) 0)) ∧
  (∀ e ∈ vectorTwo, ∀ (d a b c : BitVec 4) (s t : State) (x y : VWord) (T n : Nat), typed e.2.1 c s [a, b] T →
    (badSource (s.core.vstream a) n → exec (e.1 d a b c) s = .next (s.takeTrap false 17 (streamWord true a.toNat n) 0)) ∧
    (vIn s a = some (x, t) → badSource (t.core.vstream b) n →
      exec (e.1 d a b c) s = .next (s.takeTrap false 17 (streamWord true b.toNat n) 0)) ∧
    (vsIn s [a, b] = some ([x, y], t) → badTarget (t.core.vstream d) n →
      exec (e.1 d a b c) s = .next (s.takeTrap false 17 (streamWord true d.toNat n) 0)))

/-- A part of Streams. -/
def Sys2Proof.Says.streamService : Prop :=
  (∀ (v : Bool) (i : BitVec 3) (s : State) (r : Stream) (p : Nat),
    s.core.streamOf v i.toNat = some r → r.mode.toNat % 2 = 0 → r.failed = none → p = r.next + r.queue.length →
    p < r.n0 * r.n1 * r.n2 → r.queue.length < (if v then 4 else 16) → s.served? r (r.addr p) = true →
    s.core.pos < 49152 → r.addr p % r.size = 0 → 0 < r.size → r.addr p + r.size ≤ 0x20000 →
    (ownSeg s (r.addr p) r.size).lines.any (fun l => s.heldUp s.core.pos l.1 false) = false →
    (∀ l ∈ (ownSeg s (r.addr p) r.size).lines, s.engineCount s.nextId l.1 false ≤ 4095) →
    r.after ≤ s.now ∨ (∀ e ∈ s.later, e.core ≠ s.core.pos) →
    (∀ e ∈ (ownSeg s (r.addr p) r.size).granules, s.poisoned e.1 = false) →
    ∃ q, exec (.streamFetch v i) s = .next (bound s v i.toNat (some q)) ∧
      q.queue = r.queue ++ [s.getNat (localPlace s.core.pos (r.addr p)) r.size] ∧ q.next = r.next ∧ q.failed = none) ∧
  (∀ (v : Bool) (i : BitVec 3) (s : State) (r : Stream) (x : Nat) (rest : List Nat) (p : Nat),
    s.core.streamOf v i.toNat = some r → r.mode.toNat % 2 = 1 → r.failed = none → r.queue = x :: rest →
    p = r.addr (r.next - r.landing.length - r.queue.length) → s.core.pos < 49152 → p % r.size = 0 → 0 < r.size → p + r.size ≤ 0x20000 →
    s.core.inWorkspace p r.size = false →
    (ownSeg s p r.size).lines.any (fun l => s.heldUp s.core.pos l.1 true) = false →
    (∀ l ∈ (ownSeg s p r.size).lines, s.engineCount s.nextId l.1 true ≤ 4095) →
    r.after ≤ s.now ∨ (∀ e ∈ s.later, e.core ≠ s.core.pos) →
    ∃ q, exec (.streamWrite v i) s = .next (bound (s.store (localPlace s.core.pos p) (leBytes r.size x)) v i.toNat (some q)) ∧
      q.queue = rest ∧ q.landing = r.landing ∧ q.next = r.next ∧ q.failed = none)

/-- SBIND reads its descriptor and binds the register, or raises STREAM subcode 4 with the register released (log entry 18);
SFREE releases it; a source or a destination used against its direction raises STREAM subcode 3, a source past its elements subcode 1, a
destination past them subcode 2; the copy engine fetches the next element of a read stream and writes the oldest of a write stream, after
the stores that the core had under way when it bound the register. (R164, R165, R166, R167, R168, R323, R334) -/
def Obligations.Streams : Prop :=
  streamBinding ∧ streamTraps ∧ streamService

/-! ## Tags of keys, waits without a scope, suits -/

/-- LOOK folds its key to a set and gives the slot whose key and region match or the missing answer; LSET sets or clears a
slot; IFENCE in free code discards prefetched words, and in timed code raises ILLEGAL. (R161, R162, R163) -/
def Obligations.TagTable : Prop :=
  (∀ (d a : BitVec 5) (s t u : State) (x : Word) (k : Nat), gsIn s [a] = some ([x], t) → k = foldKey x →
    (∀ e ∈ (t.groupAt (groupOf t.core.pos)).tags, e.slot / 4 = k → e.since + 2 * t.period t.core.pos ≤ t.now) →
    gOut t d (BitVec.ofNat 64 (match (List.range 4).find? (fun w => (t.groupAt (groupOf t.core.pos)).tags.any (fun e =>
        decide (e.slot = 4 * k + w) && decide (e.cur = some (x, t.owner t.core.pos)))) with
      | some w => 4 * k + w
      | none => 2 ^ 63 + 4 * k)) 4 = some u →
    exec (.look d a) s = .next (went u 4)) ∧
  (∀ (a b : BitVec 5) (s t : State) (x y : Word), gsIn s [a, b] = some ([x, y], t) →
    ∃ u, exec (.lset a b) s = .next (went u 4) ∧ u.core = t.core ∧ u.mem = t.mem ∧
      (u.groupAt (groupOf s.core.pos)).tags.find? (fun e => e.slot == y.toNat % 4096) = some ⟨y.toNat % 4096,
        (if y.toNat < 2 ^ 63 then some (x, t.owner t.core.pos) else none),
        ((t.groupAt (groupOf s.core.pos)).tags.find? (fun e => e.slot == y.toNat % 4096)).bind TagSlot.cur, t.now⟩) ∧
  (∀ s : State, s.core.timed = false →
    exec .ifence s = .next (went { s with core := { s.core with refetch := none } } 4)) ∧
  (∀ s : State, s.core.timed = true →
    exec .ifence s = .next (s.takeTrap false 1 (BitVec.ofNat 64 (Instr.encode .ifence)) 0))

/-- The publish group of a core's key (R317, R322). -/
def Sys2Proof.Says.keyed (s : State) (k : Nat) (g : PubGroup) : Prop :=
  g ∈ s.pubs ∧ g.key = .key s.core.pos k ∧ ∀ h ∈ s.pubs, h.key = .key s.core.pos k → h = g

/-- A group has been published in one step: every page is mapped to its shadow frame, every pair shows its other half (R320). -/
def Sys2Proof.Says.published (s u : State) (k : Nat) (g : PubGroup) : Prop :=
  u.pubs = s.pubs.filter (fun h => h.key != .key s.core.pos k) ∧ u.mem = s.mem ∧
  ((g.pages.map (fun e => e.2.1)).Nodup → ∀ e ∈ g.pages, u.frame e.2.1 = e.2.2) ∧
  (∀ p, (∀ e ∈ g.pages, e.2.1 ≠ p) → u.frame p = s.frame p) ∧
  (g.pairs.Nodup → ∀ e ∈ g.pairs, ∀ r ∈ (s.groupAt e.1).pairs, r.base = e.2 →
    ∃ q ∈ (u.groupAt e.1).pairs, q = { r with upper := !r.upper })

/-- The failed command of a group that was issued first (R322). -/
def Sys2Proof.Says.firstFailed (g : PubGroup) (f : Finished) : Prop :=
  f ∈ g.done ∧ f.failed = true ∧ ∀ e ∈ g.done, e.failed = true → f.id < e.id ∨ e = f

/-- A group has been discarded: nothing that it shadowed shows (R321). -/
def Sys2Proof.Says.discarded (s v : State) (k : Nat) : Prop :=
  v.pubs = s.pubs.filter (fun h => h.key != .key s.core.pos k) ∧ v.remap = s.remap ∧ v.core.pos = s.core.pos ∧ v.core.pc = s.core.pc ∧
  v.core.g = s.core.g ∧ ∀ n, (v.groupAt n).pairs = (s.groupAt n).pairs

/-- A part of WaitsIssue. -/
def Sys2Proof.Says.waitsWithoutScope : Prop :=
  (∀ (a : BitVec 5) (s t : State) (x : Word), gsIn s [a] = some ([x], t) →
    exec (.waitn a) s =
      (if t.core.suit.act = false ∧ t.openBatches t.core.pos ≤ x.toNat then
        (match t.failedBatch t.core.pos with
          | none => .next (passed t)
          | some n => .next ((s.reportBatch t.core.pos).takeTrap false 11 (BitVec.ofNat 64 n.toNat) 0))
       else .next (waits s t (.batch (BitVec.ofNat 32 (min x.toNat (2 ^ 32 - 1))))))) ∧
  (∀ s : State, exec .tfence s = .next
      (if s.core.suit.act = false ∧ s.cubeDone s.core.pos = true then
        went { s with core := { s.core with status := .running, readyAt := s.now, popped := [] } } 4
       else { s with core := { s.core with
        status := .waiting .tfence, readyAt := s.now + s.period s.core.pos, dbg := false, popped := [] } })) ∧
  (∀ (a : BitVec 5) (s t : State) (x : Word) (k : Nat), s.core.timed = false → gsIn s [a] = some ([x], t) → k = x.toNat % 256 →
    t.core.suit.act = true ∨ t.keyBusy t.core.pos k = true → exec (.pub a) s = .next (waits s t (.pub k))) ∧
  (∀ (a : BitVec 5) (s t : State) (x : Word) (k : Nat), s.core.timed = false → gsIn s [a] = some ([x], t) → k = x.toNat % 256 →
    t.core.suit.act = false → t.keyBusy t.core.pos k = false → (∀ g ∈ t.pubs, g.key ≠ .key t.core.pos k) →
    ∃ u, exec (.pub a) s = .next u ∧ u.core.pc = t.core.pc + 4 ∧ u.core.status = .running ∧ u.core.g = t.core.g ∧
      u.core.readyAt = t.now + t.period t.core.pos ∧ u.core.access = [] ∧ u.mem = t.mem ∧ u.pubs = t.pubs) ∧
  (∀ (a : BitVec 5) (s t : State) (x : Word) (k : Nat) (g : PubGroup), s.core.timed = false → gsIn s [a] = some ([x], t) →
    k = x.toNat % 256 → t.core.suit.act = false → t.keyBusy t.core.pos k = false → keyed t k g → g.failed = false →
    ∃ u, exec (.pub a) s = .next u ∧ u.core.pc = t.core.pc + 4 ∧ u.core.status = .running ∧ u.core.g = t.core.g ∧ u.core.access = [] ∧
      u.core.readyAt = t.now + t.period t.core.pos ∧ published t u k g) ∧
  (∀ (a : BitVec 5) (s t : State) (x : Word) (k : Nat) (g : PubGroup) (f : Finished), s.core.timed = false → gsIn s [a] = some ([x], t) →
    k = x.toNat % 256 → t.core.suit.act = false → t.keyBusy t.core.pos k = false → keyed t k g → g.failed = true → firstFailed g f →
    ∃ v, exec (.pub a) s = .next (v.takeTrap false 11 (BitVec.ofNat 64 f.batch.toNat) 0) ∧ discarded s v k)

/-- Each wait is satisfied in the cycle it issues when its condition holds (and the core is in no suit), and then goes on;
else the core waits. WAITC on an index above 63 raises WINDOW; WAITB on a barrier with ERR set raises ENGINE; WAITN with a
failed batch raises ENGINE. PUB publishes the group of its key in one step, or, where a command of it failed, discards it and raises ENGINE
with the batch of the earliest. (R175, R176, R177, R308, R236, R320, R321, R322, R30) -/
def Obligations.WaitsIssue : Prop :=
  waitsForObjects ∧ waitsWithoutScope

/-- SUIT.BAR with a mask that names the core, all members of its region and launch, waits for the others, or forms a suit of
one at once; a mask without the core raises ILLEGAL; SUIT.DIS leaves the suit. (R22, R180, R181) -/
def Obligations.Suits : Prop :=
  (∀ (a : BitVec 5) (s t : State) (x : Word) (m : BitVec 16),
    s.core.suit.act = false → gsIn s [a] = some ([x], t) → m = BitVec.ofNat 16 x.toNat → m.getLsbD (groupPos s.core.pos) = true →
    (∀ i, i < 16 → m.getLsbD i = true → t.owner (groupCore (groupOf s.core.pos) i) = t.owner s.core.pos ∧
      (t.coreAt (groupCore (groupOf s.core.pos) i)).launch = t.core.launch) →
    (∀ i, i < 16 → ∀ m', (t.coreAt (groupCore (groupOf s.core.pos) i)).status = .waiting (.suitBar m') → m' = m ∨ m' &&& m = 0) →
    exec (.suitBar a) s = .next
      (if m = BitVec.ofNat 16 (2 ^ groupPos s.core.pos) then
        went { t with core := { t.core with suit := ⟨true, 0, 0, m⟩ } } 4
       else stands s t (.suitBar m))) ∧
  (∀ (a : BitVec 5) (s t : State) (x : Word),
    s.core.suit.act = false → gsIn s [a] = some ([x], t) → (BitVec.ofNat 16 x.toNat).getLsbD (groupPos s.core.pos) = false →
    exec (.suitBar a) s = .next (s.takeTrap false 1 (BitVec.ofNat 64 (Instr.encode (.suitBar a))) 0)) ∧
  (∀ s : State, exec .suitDis s = .next
    (went { s with core := { s.core with suit := ⟨false, 0, 0, 0⟩, follow := [], lead := none } } 4))

/-! ## Traps and returns -/

/-- A trap whose cause the region handles saves XPC, XCAUSE and XVAL, sets CSTAT.INH, clears CSTAT.TIMED, goes to HVEC after
the drain and leaves registers and memory as they are; BRK, ECALL and illegal words raise their causes. (That the PC is HVEC without its
bit 0 is the model's choice: log 69.) (R379, R381, R387, R149, R60) -/
def Obligations.TrapEntry : Prop :=
  (∀ (s : State) (r : Region) (cause : Nat) (x : Word),
    s.region? (s.owner s.core.pos) = some r → r.handles cause = true → s.core.inh = false →
    (cause = 14 → r.dbgGang = false) → entered s (s.takeTrap false cause x 0) r (BitVec.ofNat 64 cause) x) ∧
  (∀ (c : BitVec 12) (s : State), exec (.brk c) s = .next (s.takeTrap false 14 (c.zeroExtend 64) 0) ∧
    exec (.ecall c) s = .next (s.takeTrap false 15 (c.zeroExtend 64) 0)) ∧
  (∀ (d a : BitVec 4) (s : State),
    exec (.brkC d a) s = .next (s.takeTrap false 14 (BitVec.ofNat 64 (d.toNat * 16 + a.toNat)) 0)) ∧
  (∀ (w : BitVec 32) (s : State), exec (.illegalWord true w) s = .next (s.takeTrap false 1 (w.zeroExtend 64) 0) ∧
    exec (.illegalWord false w) s = .next (s.takeTrap false 1 (BitVec.ofNat 64 (w.toNat % 2 ^ 16)) 0))

/-- Reflected, the core parks with its cause saved, and the supervisor of the nearest ancestor that handles the cause receives
a child trap: with the address of the record, which is written in SWAP, in that ancestor's space, or with 2^48 - 1 where SWAP is 0;
while a governor command of the core is within a block, or appended elements are still to be written, the core waits first (how it
waits is the model's choice: log 28). (R80, R242, R387, R388) -/
def Obligations.TrapReflection : Prop :=
  ∀ (s u : State) (r p : Region) (path : List Region) (cause : Nat) (x : Word),
    s.region? (s.owner s.core.pos) = some r → r.id ≠ 1 → climbs s cause r.parent path p → path.length ≤ 8 →
    s.core.inh = true ∨ r.handles cause = false → cause ≠ 14 → (∀ g ∈ s.gathers, g.core ≠ s.core.pos) →
    u = s.takeTrap false cause x 0 →
    u.core.xcause = BitVec.ofNat 64 cause ∧ u.core.xval = x ∧ u.core.xpc = s.core.pc ∧ u.core.timed = false ∧
    (s.atBoundary s.core.pos = false ∨ (s.core.appending = true ∧ s.core.appendStuck = false) →
      u.core.status = .running ∧ u.core.reflecting = some (p.id, s.core.cstat) ∧ u.core.pc = s.core.pc ∧ u.core.inh = s.core.inh ∧
      u.mem = s.mem) ∧
    (s.atBoundary s.core.pos = true → s.core.appending = false → r.swap = 0 →
      u.core.status = .parked none p.id ∧ u.core.reflecting = none ∧ (u.coreAt p.supervisor).pending.trees =
        (s.coreAt p.supervisor).pending.trees ++ [(false, BitVec.ofNat 64 ((s.owner s.core.pos).toNat * 2 ^ 48 + (2 ^ 48 - 1)))]) ∧
    (∀ (rec a : Nat), rec = r.swap + 2 ^ 17 * r.indexOf s.core.pos + s.core.cwp.toNat → r.swap ≠ 0 → s.core.appending = false →
      s.spanOk r.parent rec 0x4000 .store = true → s.carryUp p.id 9 r.parent rec = some a →
      (∀ c ∈ (s.groupAt (groupOf s.core.pos)).queue, c.core ≠ s.core.pos ∧ c.isPart = false) →
      (∀ e ∈ s.deliveries, groupOf e.core ≠ groupOf s.core.pos) →
      u.core.status = .parked (some a) p.id ∧ u.core.reflecting = none ∧ (u.coreAt p.supervisor).pending.trees =
        (s.coreAt p.supervisor).pending.trees ++ [(false, BitVec.ofNat 64 ((s.owner s.core.pos).toNat * 2 ^ 48 + a))] ∧
      ∃ img : List Byte, img.length = 0x4000 ∧ u.mem = (s.poke r.parent rec img).mem ∧
        (∀ i : Fin 24, i.val ≠ 0 → slice img (8 * i.val) 8 = s.core.g[i.val].toNat) ∧ slice img 0x6E8 8 = s.core.pc.toNat ∧
        slice img 0x6F0 8 = cause % 2 ^ 64 ∧ slice img 0x6F8 8 = x.toNat ∧ slice img 0x738 8 = s.core.pc.toNat)

/-- Outside timed code and INH the lowest pending code is taken, with XCAUSE bit 63, and is no longer pending; a waiting core
abandons its wait; with INH or TIMED set, in a drain, or while it waits to park, none is taken. (That the PC is HVEC without its bit 0, and
that a core that waits to park takes none, are the model's choices: log 69, log 28.) (R178, R380, R381, R382) -/
def Obligations.InterruptEntry : Prop :=
  (∀ (s : State) (r : Region) (code : Nat) (x : Word),
    s.region? (s.owner s.core.pos) = some r → s.core.inh = false → s.core.timed = false → s.core.draining = false → s.core.posted = [] →
    s.core.reflecting = none →
    s.core.status = .running ∨ (∃ w, s.core.status = .waiting w ∧ ∀ d, w ≠ .answer d) → firstOf s.core.pending = some (code, x) →
    ∃ u, exec .takeInterrupt s = .next u ∧ entered s u r (BitVec.ofNat 64 (2 ^ 63 + code)) x ∧
      u.core.pending = without s.core.pending code) ∧
  (∀ s : State, s.core.inh = true ∨ s.core.timed = true ∨ s.core.draining = true ∨ s.core.reflecting ≠ none ∨ firstOf s.core.pending = none →
    exec .takeInterrupt s = .refused (.notEnabled "TAKE_INTERRUPT"))

/-- ERET in a handler clears INH and goes to XPC after four cycles; outside one, or in timed code, it raises ILLEGAL. ERET gA
resumes a parked core from its saved image; a region without a parked core raises PERM. (That the PC is the saved one
without its bit 0 is the model's choice: log 69.) (R383, R389) -/
def Obligations.ReturnFromTrap : Prop :=
  (∀ s : State, s.core.inh = true → s.core.timed = false →
    ∃ u, exec .eret s = .next u ∧ u.core.inh = false ∧ u.core.pc = s.core.xpc &&& ~~~1 ∧
      u.core.readyAt = s.now + 4 * s.period s.core.pos ∧ u.core.xpc = s.core.xpc ∧ u.core.xcause = s.core.xcause ∧
      u.core.xval = s.core.xval ∧ u.core.g = s.core.g ∧ u.core.v = s.core.v ∧ u.core.t = s.core.t ∧ u.mem = s.mem) ∧
  (∀ s : State, s.core.inh = false ∨ s.core.timed = true →
    exec .eret s = .next (s.takeTrap false 1 (BitVec.ofNat 64 (Instr.encode .eret)) 0)) ∧
  (∀ (a : BitVec 5) (s t : State) (x : Word) (p : Nat) (img : List Byte),
    s.core.timed = false → gsIn s [a] = some ([x], t) → t.parkedAt (t.owner t.core.pos) (x.toNat % 2 ^ 48) = some p →
    (∀ o, o = 0 ∨ o = 0x3FFF → ∃ y, t.xlate 8 (t.owner t.core.pos) (x.toNat % 2 ^ 48 + o) .load = .ok y) →
    img = (t.peek (t.owner t.core.pos) (x.toNat % 2 ^ 48) 0x4000).getD [] → badTagOffset img = none →
    p ≠ s.core.pos →
    ∃ u, exec (.eretResume a) s = .next u ∧ u.core.pc = s.core.pc + 4 ∧ u.core.readyAt = s.now + 48 * s.period s.core.pos ∧
      (u.coreAt p).status = .running ∧ (u.coreAt p).readyAt = s.now + 48 * s.period p ∧
      (u.coreAt p).pc = BitVec.ofNat 64 (slice img 0x738 8) &&& ~~~1 ∧
      ∀ i : Fin 32, i.val ≠ 0 → (u.coreAt p).g[i] = BitVec.ofNat 64 (slice img (8 * i.val) 8)) ∧
  (∀ (a : BitVec 5) (s t : State) (x : Word),
    s.core.timed = false → gsIn s [a] = some ([x], t) → t.parkedAt (t.owner t.core.pos) (x.toNat % 2 ^ 48) = none →
    exec (.eretResume a) s = .next (s.takeTrap false 6 x 0))

/-! ## The governor -/

/-- A part of TileProducts: TAG, where operand A is a tile (R217, R223). A tag of no kind is named at A; else tD must be EMPTY or have
the accumulator tag of A's kind. -/
def Sys2Proof.Says.productTags : Prop :=
  ∀ e ∈ products, ∀ (d a : BitVec 3) (b c : BitVec 5) (m : BitVec 3) (s : State) (k f : Nat),
    (e.1 d (a.zeroExtend 5) b c m).wf = true → k = s.core.ttag[a.toNat].toNat → f = s.core.ttag[d.toNat].toNat →
    (k ≠ 4 → k ≠ 12 → k ≠ 13 → (k < 16 ∨ 19 < k) →
      exec (e.1 d (a.zeroExtend 5) b c m) s = .next (s.takeTrap false 2 (tagWord k a.toNat 1) 0)) ∧
    (k = 4 ∨ k = 12 ∨ k = 13 ∨ (16 ≤ k ∧ k ≤ 19) → f ≠ 0 → f ≠ (if k = 4 then 20 else 21) →
      exec (e.1 d (a.zeroExtend 5) b c m) s = .next (s.takeTrap false 2 (tagWord f d.toNat 0) 0))

/-- With operands that pass the checks and room in the queue, a product command stands last in the group's queue with its
captured operands, tD takes the accumulator tag, and the core goes on; a tile whose tag admits no kind, and a tD of another kind, raise
TAG. (R210, R211, R221, R222, R223, R212, R217) -/
def Obligations.TileProducts : Prop :=
  productTags ∧ ∀ e ∈ products, ∀ (d : BitVec 3) (a b c : BitVec 5) (m : BitVec 3) (s r : State) (pa pb p2 pc : (Word × Word) × State) (k : CubeCmd),
    pa = pairIn s a → pb = pairIn pa.2 b → p2 = (if e.2 = 2 then pairIn pb.2 (b + 1) else ((0, 0), pb.2)) → pc = pairIn p2.2 c →
    r = pc.2 → k = (command s (e.1 d a b c m) pa.1 pb.1 p2.1 pc.1).withTags s.core → (e.1 d a b c m).wf = true →
    r.cubeChecks k = .ok () → roomy r →
    exec (e.1 d a b c m) s = .next (went (retag (queuedCmd r k) d (if k.isInt then 20 else 21)) 4)

/-- Each is queued with its captured pair, tD taking the tag EMPTY or that of the layout word. (R232, R233, R234, R235, R210)
-/
def Obligations.TileMoves : Prop :=
  (∀ (d : BitVec 3) (s : State), roomy s →
    exec (.tzero d) s = .next (went (retag (queuedCmd s ((command s (.tzero d) (0, 0) (0, 0) (0, 0) (0, 0)).withTags s.core)) d 0) 4)) ∧
  (∀ (d : BitVec 3) (a : BitVec 4) (s r : State) (p : Word × Word) (k : CubeCmd),
    pairIn s (16 + BitVec.ofNat 5 a.toNat) = (p, r) → a ≠ 0 →
    k = (command s (.tld d a) p (0, 0) (0, 0) (0, 0)).withTags s.core → r.cubeChecks k = .ok () → roomy r →
    exec (.tld d a) s = .next (went (retag (queuedCmd r k) d (BitVec.ofNat 5 (max 1 (layTag p.2)))) 4)) ∧
  (∀ (d : BitVec 3) (a : BitVec 4) (s r : State) (p : Word × Word) (k : CubeCmd),
    pairIn s (16 + BitVec.ofNat 5 a.toNat) = (p, r) → a ≠ 0 →
    k = (command s (.tst d a) p (0, 0) (0, 0) (0, 0)).withTags s.core → r.cubeChecks k = .ok () → roomy r →
    exec (.tst d a) s = .next (went (queuedCmd r k) 4)) ∧
  (∀ (a : BitVec 5) (n : BitVec 2) (s r : State) (p : Word × Word) (k : CubeCmd),
    pairIn s a = (p, r) → (Instr.tcode a n).wf = true →
    k = (command s (.tcode a n) (p.1, 0) (0, 0) (0, 0) (0, 0)).withTags s.core → r.cubeChecks k = .ok () → roomy r →
    exec (.tcode a n) s = .next (went (queuedCmd r k) 4))

/-- In a suit of 16 the leader's TPART queues the command and every member's makes tD its ring; outside one it raises ILLEGAL;
TROW gives vD a row of a tile, and takes a full row of the ring. (R227, R228, R231) -/
def Obligations.RingProducts : Prop :=
  (∀ (d : BitVec 3) (a b c : BitVec 5) (m : BitVec 3) (s r : State) (pa pb pc : (Word × Word) × State) (k : CubeCmd),
    s.core.suit.act = true → s.core.suit.size = 15 → s.core.suit.spos = 0 → (Instr.tpart d a b c m).wf = true →
    pa = pairIn s a → pb = pairIn pa.2 b → pc = pairIn pb.2 c → r = pc.2 →
    k = (command s (.tpart d a b c m) pa.1 pb.1 (0, 0) pc.1).withTags s.core → r.cubeChecks k = .ok () → roomy r →
    r.writeLocked d = false → r.readLocked d = false → r.core.ract = false →
    exec (.tpart d a b c m) s = .next (went (ringed (queuedCmd r k) d) 4)) ∧
  (∀ (d : BitVec 3) (a b c : BitVec 5) (m : BitVec 3) (s : State),
    s.core.suit.act = true → s.core.suit.size = 15 → s.core.suit.spos ≠ 0 → s.writeLocked d = false → s.readLocked d = false →
    s.core.ract = false → exec (.tpart d a b c m) s = .next (went (ringed s d) 4)) ∧
  (∀ (d : BitVec 3) (a b c : BitVec 5) (m : BitVec 3) (s : State), s.core.suit.act = false ∨ s.core.suit.size ≠ 15 →
    exec (.tpart d a b c m) s = .next (s.takeTrap false 1 (BitVec.ofNat 64 (Instr.encode (.tpart d a b c m))) 0)) ∧
  (∀ (d : BitVec 4) (a : BitVec 3) (b : BitVec 5) (s t u : State) (y : Word) (x : VWord × State),
    gsIn s [b] = some ([y], t) → t.readLocked a = false → x = rowIn t a (y.toNat % 16) → s.core.ttag[a.toNat] ≠ 22 →
    t.core.ract = false ∨ t.core.rtile ≠ a ∨ t.core.rfull.getLsbD (y.toNat % 16) = true →
    vOut x.2 d x.1
      (if s.core.ttag[a.toNat] = 21 then 15 else if s.core.ttag[a.toNat] = 20 then 8 else s.core.ttag[a.toNat]) 3 = some u →
    exec (.trow d a b) s = .next (went u 4)) ∧
  (∀ (d : BitVec 4) (a : BitVec 3) (b : BitVec 5) (s t u : State) (y : Word) (x : VWord × State),
    gsIn s [b] = some ([y], t) → t.readLocked a = false → x = rowIn t a (y.toNat % 16) → s.core.ttag[a.toNat] = 22 →
    s.core.rtile = a → s.core.rfull.getLsbD (y.toNat % 16) = true →
    vOut { x.2 with core := { x.2.core with rfull := x.2.core.rfull &&& ~~~((1 : BitVec 16) <<< (y.toNat % 16)) } } d
      x.1 (if y.getLsbD 8 then 8 else 15) 3 = some u →
    exec (.trow d a b) s = .next (went u 4))

/-! ## Engine commands -/

/-- A part of CopiesIssue. -/
def Sys2Proof.Says.copiesWithoutFollow : Prop :=
  ∀ e ∈ copies, ∀ (k a b c : BitVec 5) (s t : State) (x y z r : Word) (d : List Byte),
    gsIn s [a, b, c, k] = some ([x, y, z, r], t) → barrierOk t r → z.toNat % 64 = 0 → z.toNat + 128 ≤ 0x20000 →
    t.core.noArea z.toNat 128 = true → d = t.getBytes (localPlace t.core.pos z.toNat) 128 → dscOk e.2 d r x y = true →
    slice d 0x34 4 = 0 → (t.cmds.filter (fun c => c.core == t.core.pos && !c.isNet)).length < 16 →
    ∃ u, exec (e.1 k a b c) s = .next (went u 4) ∧ issued t u (.copy e.2) r x y d (dscBytes e.2 d) none

/-- A copy with a follow-on: its operands are captured with the command's (R243, R295). -/
def Sys2Proof.Says.followOns : Prop :=
  ∀ e ∈ copies, ∀ (k a b c : BitVec 5) (s t v : State) (x y z r : Word) (d : List Byte) (f : CubeCmd),
    gsIn s [a, b, c, k] = some ([x, y, z, r], t) → barrierOk t r → z.toNat % 64 = 0 → z.toNat + 128 ≤ 0x20000 →
    t.core.noArea z.toNat 128 = true → d = t.getBytes (localPlace t.core.pos z.toNat) 128 → dscOk e.2 d r x y = true →
    slice d 0x34 4 ≠ 0 →
    (followLegal (slice d 0x34 4) = true → (t.cmds.filter (fun c => c.core == t.core.pos && !c.isNet)).length < 16 →
      t.lockers.length < 7 → (t.groupAt (groupOf t.core.pos)).queue.length < 16 → captureCube (slice d 0x34 4) t = .ok f v →
      ∃ u, exec (e.1 k a b c) s = .next (went u 4) ∧ issued v u (.copy e.2) r x y d (dscBytes e.2 d) (some f)) ∧
    (followLegal (slice d 0x34 4) = false →
      exec (e.1 k a b c) s = .next (s.takeTrap false 1 (BitVec.ofNat 64 (slice d 0x34 4)) 0))

/-- A descriptor that is not well formed raises ENGINE with its address (R284). -/
def Sys2Proof.Says.copiesRefused : Prop :=
  ∀ e ∈ copies, ∀ (k a b c : BitVec 5) (s t : State) (x y z r : Word) (d : List Byte),
    gsIn s [a, b, c, k] = some ([x, y, z, r], t) → barrierOk t r →
    (z.toNat % 64 ≠ 0 → exec (e.1 k a b c) s = .next (s.takeTrap false 3 z 0)) ∧
    (z.toNat % 64 = 0 → 0x20000 < z.toNat + 128 → exec (e.1 k a b c) s = .next (s.takeTrap false 4 z 0)) ∧
    (z.toNat % 64 = 0 → z.toNat + 128 ≤ 0x20000 → t.core.noArea z.toNat 128 = true →
      d = t.getBytes (localPlace t.core.pos z.toNat) 128 → dscOk e.2 d r x y = false →
      exec (e.1 k a b c) s = .next (s.takeTrap false 11 z 0))

/-- A copy whose descriptor is well formed stands last among the commands with its captured operands and its batch counts it;
a follow-on's operands are captured with it and an illegal follow-on word raises ILLEGAL; a misaligned descriptor raises
ALIGN, one outside local memory WINDOW, a malformed one ENGINE. (R281, R282, R283, R284, R285, R243, R295) -/
def Obligations.CopiesIssue : Prop :=
  copiesWithoutFollow ∧ followOns ∧ copiesRefused

/-- A collective whose descriptor is well formed and whose issuer lies in its scope stands last among the commands with its
captured operands. (R368, R369, R285) -/
def Obligations.CollectivesIssue : Prop :=
  ∀ e ∈ collectives, ∀ (k a b c : BitVec 5) (s t : State) (x y z r : Word) (d : List Byte),
    gsIn s [a, b, c, k] = some ([x, y, z, r], t) → barrierOk t r → z.toNat % 64 = 0 → z.toNat + 128 ≤ 0x20000 →
    t.core.noArea z.toNat 128 = true → d = t.getBytes (localPlace t.core.pos z.toNat) 128 → netOk e.2 d r = true →
    t.inScope d = true → (t.cmds.filter (fun c => c.core == t.core.pos && c.isNet)).length < 8 →
    ∃ u, exec (e.1 k a b c) s = .next (went u 4) ∧ issued t u (.net e.2) r x y d (netBytes e.2 d) none

/-- SEAL gives gD the open batch's number and opens the next; ARMB adds to PEND, sets ARMED, clears ERR and word 1, changes no
other byte of memory, and raises ENGINE when armed or when the count is out of range. (R307, R310, R312, R313) -/
def Obligations.BatchesAndBarriers : Prop :=
  (∀ (d : BitVec 5) (s t : State) (mine : Batch → Bool), s.openBatches s.core.pos < 64 →
    gOut s d (BitVec.ofNat 64 s.core.cbatch.toNat) 1 = some t → mine = (fun b => b.is s.core.cbatch s.core.launch s.core.cwp) →
    (∀ b ∈ s.core.batches, mine b = true → b.unfinished ≠ 0 ∧ b.sealed = false) → s.core.batches.any mine = true →
    exec (.seal d) s = .next (went { t with core := { t.core with
      cbatch := s.core.cbatch + 1
      batches := s.core.batches.filter (fun b => !mine b) ++ (s.core.batches.filter mine).map (fun b => { b with sealed := true }) } } 4)) ∧
  (∀ (d : BitVec 5) (s t : State) (n : BitVec 32), n = s.core.cbatch →
    gOut s d (BitVec.ofNat 64 n.toNat) 1 = some t →
    (∀ b ∈ s.core.batches, b.is n s.core.launch s.core.cwp = false) →
    (∀ g ∈ s.pubs, g.key ≠ .batch s.core.pos s.core.launch s.core.cwp n ∧
      ∀ f ∈ g.done, ¬(f.core = s.core.pos ∧ f.launch = s.core.launch ∧ f.home = s.core.cwp ∧ f.batch = n)) →
    exec (.seal d) s = .next (went { t with core := { t.core with cbatch := n + 1 } } 4)) ∧
  (∀ (a b : BitVec 5) (s t : State) (x y : Word) (w : Nat),
    gsIn s [a, b] = some ([x, y], t) → x.toNat % 16 = 0 → x.toNat < 0x20000 → s.core.pos < 49152 → s.memWf →
    t.savedAt (t.owner t.core.pos) t.core.launch (localPlace t.core.pos x.toNat) = none →
    w = t.getNat (localPlace t.core.pos x.toNat) 8 → w / 2 ^ 57 % 2 = 0 → 1 ≤ y.toNat → y.toNat < 2 ^ 55 →
    ∃ u, exec (.armb a b) s = .next (went u 4) ∧
      u.getNat (localPlace t.core.pos x.toNat) 8 = w % 2 ^ 57 / 2 ^ 56 * 2 ^ 56 + 2 ^ 57 + (w % 2 ^ 56 + y.toNat) % 2 ^ 56 ∧
      u.getNat (localPlace t.core.pos x.toNat + 8) 8 = 0 ∧
      (∀ q, q < localPlace t.core.pos x.toNat ∨ localPlace t.core.pos x.toNat + 16 ≤ q → u.getByte q = s.getByte q) ∧
      (⟨t.owner t.core.pos, t.core.launch, localPlace t.core.pos x.toNat⟩ : BarRef) ∈ u.judge) ∧
  (∀ (a b : BitVec 5) (s t : State) (x y : Word),
    gsIn s [a, b] = some ([x, y], t) → x.toNat % 16 = 0 → x.toNat < 0x20000 →
    t.savedAt (t.owner t.core.pos) t.core.launch (localPlace t.core.pos x.toNat) = none →
    t.getNat (localPlace t.core.pos x.toNat) 8 / 2 ^ 57 % 2 = 1 ∨ y = 0 ∨ 2 ^ 55 ≤ y.toNat →
    exec (.armb a b) s = .next (s.takeTrap false 11 x 0))

/-! ## Lineage -/

/-- A part of LineageForks: the record that a fork writes, last for a root, before its parent's for a child (R248, R249, R260, R261). -/
def Sys2Proof.Says.forkRecords : Prop :=
  (∀ (r : Region) (q : RegionId) (b h : Nat) (s u : State), forkRoot r q b s = .ok h u →
    ∃ (i : Nat) (n : Node) (v : State), putNode r i n v = .ok () u ∧ 0 < i ∧ i < r.lntCap ∧ h = i * 256 + n.gen ∧ n.parent = 0 ∧
      n.depth = 0 ∧ n.kind = 0 ∧ n.state = 1 ∧ n.tag = b / 2 ^ 40 % 32 ∧ n.rows = b % 2 ^ 20 + 1 ∧ n.cols = b / 2 ^ 20 % 2 ^ 20 + 1 ∧
      n.children = 0 ∧ n.owner = q.toNat ∧ n.pending = false ∧ n.deferred = false) ∧
  (∀ (r : Region) (q : RegionId) (a h i : Nat) (p : Node) (f : Node → L (List Byte)) (rank : Bool) (s u : State), liveAt s r a i p →
    forkChild r q a f rank s = .ok h u →
    ∃ (j : Nat) (n old : Node) (v w : State), putNode r j n v = .ok () w ∧ 0 < j ∧ j < r.lntCap ∧ h = j * 256 + n.gen ∧ n.parent = a ∧
      n.depth = p.depth + 1 ∧ n.kind = (if rank then 3 else 1) ∧ n.state = 1 ∧ n.tag = p.tag ∧ n.rows = p.rows ∧ n.cols = p.cols ∧
      n.children = 0 ∧ n.owner = q.toNat ∧ n.pending = false ∧ n.deferred = false ∧
      (rank = false → n.daddr = 0 ∧ n.dsize = 16 ∧ n.ncount = 0 ∧ n.pages = 0) ∧
      (∃ w', getNode r i w = .ok old w' ∧ putNode r i { old with children := old.children + 1, state := 2 } w' = .ok () u)) ∧
  (∀ n : Node, n.bytes.length = 64 ∧ slice n.bytes 0 4 = n.parent % 2 ^ 32 ∧ slice n.bytes 4 1 = n.depth % 256 ∧
    slice n.bytes 5 1 = n.kind % 256 ∧ slice n.bytes 6 1 = n.state % 256 ∧ slice n.bytes 7 1 = n.tag % 256 ∧
    slice n.bytes 8 4 = n.rows % 2 ^ 32 ∧ slice n.bytes 12 4 = n.cols % 2 ^ 32 ∧ slice n.bytes 16 8 = n.daddr % 2 ^ 64 ∧
    slice n.bytes 24 8 = n.dsize % 2 ^ 64 ∧ slice n.bytes 32 4 = n.children % 2 ^ 32 ∧ slice n.bytes 36 2 = n.owner % 2 ^ 16 ∧
    slice n.bytes 38 1 = n.gen % 256 ∧ slice n.bytes 39 1 = n.pending.toNat + 2 * n.deferred.toNat ∧
    slice n.bytes 40 4 = n.ncount % 2 ^ 32 ∧ slice n.bytes 44 4 = n.pages % 2 ^ 32)

/-- LFORK with a = 0 makes a root, with a handle a child; LFORKR makes a child with a RANK image; the new record has the KIND, DEPTH,
PARENT, STATE, shape and OWNER of the rule, and the parent one more of CHILDREN and the state SEALED; gD receives the handle; the
instruction is synchronising and stalls for less than 4,000 ticks and the time of the copies that it does; depth 8 raises LINEAGE
reason 3. (R247, R248, R249, R258, R259, R260, R261, R267) -/
def Obligations.LineageForks : Prop :=
  forkRecords ∧
  (∀ (d a b : BitVec 5) (s t u v : State) (x y : Word) (r : Region) (h : Nat),
    lineageTurn s → gsIn s [a, b] = some ([x, y], t) → tableIs t r → x.toNat % 2 ^ 32 = 0 →
    forkRoot r (t.owner t.core.pos) y.toNat t = .ok h u → gOut u d (BitVec.ofNat 64 h) 1 = some v →
    exec (.lfork d a b) s = .next (lineageDone v 4000)) ∧
  (∀ (d a b : BitVec 5) (s t u v : State) (x y : Word) (r : Region) (p h : Nat),
    lineageTurn s → gsIn s [a, b] = some ([x, y], t) → tableIs t r → p = x.toNat % 2 ^ 32 → p ≠ 0 →
    forkChild r (t.owner t.core.pos) p (fun _ => pure []) false t = .ok h u → gOut u d (BitVec.ofNat 64 h) 1 = some v →
    exec (.lfork d a b) s = .next (lineageDone v 4000)) ∧
  (∀ (d a b : BitVec 5) (s t t2 t3 u v : State) (x y : Word) (r : Region) (i h k : Nat) (p : Node) (head img : List Byte),
    lineageTurn s → gsIn s [a, b] = some ([x, y], t) → tableIs t r → liveAt t r (x.toNat % 2 ^ 32) i p →
    p.pending = false → p.depth < 7 → 13 ≤ p.tag → p.tag ≤ 15 → y.toNat % 64 = 0 →
    readRank y.toNat 64 t = .ok head t2 → k = slice head 0 4 → 1 ≤ k → k ≤ 64 → (head.drop 4).all (fun c => c == 0) = true →
    readRank y.toNat (rankSize p k) t2 = .ok img t3 →
    forkChild r (t.owner t.core.pos) (x.toNat % 2 ^ 32) (fun _ => pure img) true t3 = .ok h u → gOut u d (BitVec.ofNat 64 h) 1 = some v →
    exec (.lforkr d a b) s = .next (lineageDone v (4000 + t.copyTime (t.owner t.core.pos) (rankSize p k)))) ∧
  (∀ (d a b : BitVec 5) (s t : State) (x y : Word) (r : Region) (i : Nat) (p : Node),
    lineageTurn s → gsIn s [a, b] = some ([x, y], t) → tableIs t r → x.toNat % 2 ^ 32 ≠ 0 →
    liveAt t r (x.toNat % 2 ^ 32) i p → p.pending = false → p.depth = 7 →
    exec (.lfork d a b) s = .next (s.takeTrap false 10 (BitVec.ofNat 64 (x.toNat % 2 ^ 32 * 2 ^ 32 + 3)) 0))

/-- Each makes its change to the node table and gives its result; a node of a region outside the caller's subtree raises
LINEAGE reason 12; LINFO of a handle that names nothing gives zeros. (R262, R263, R258, R259) -/
def Obligations.LineageUpdates : Prop :=
  (∀ (d a b : BitVec 5) (s t u v : State) (x y : Word) (r : Region) (k : Nat) (m : List Nat),
    lineageTurn s → gsIn s [a, b] = some ([x, y], t) → tableIs t r →
    putPairs r (t.owner t.core.pos) (x.toNat % 2 ^ 32) y.toNat t = .ok (k, m) u → gOut u d (BitVec.ofNat 64 k) 1 = some v →
    exec (.lput d a b) s = .next (lineageDone v (4000 + (m.map (t.copyTime (t.owner t.core.pos))).sum))) ∧
  (∀ (a : BitVec 5) (s t u : State) (x : Word) (r : Region) (i : Nat) (n : Node),
    lineageTurn s → gsIn s [a] = some ([x], t) → tableIs t r → liveAt t r (x.toNat % 2 ^ 32) i n →
    t.below 8 (t.owner t.core.pos) (BitVec.ofNat 16 n.owner) = true → n.pending = false →
    putNode r i { n with state := 2 } t = .ok () u → exec (.lseal a) s = .next (lineageDone u 4000)) ∧
  (∀ (a : BitVec 5) (s t u : State) (x : Word) (r : Region) (i : Nat) (n : Node),
    lineageTurn s → gsIn s [a] = some ([x], t) → tableIs t r → liveAt t r (x.toNat % 2 ^ 32) i n →
    t.below 8 (t.owner t.core.pos) (BitVec.ofNat 16 n.owner) = true → n.pending = false →
    dropNode r i n t = .ok () u → exec (.ldrop a) s = .next (lineageDone u 4000)) ∧
  (∀ (d : BitVec 2) (a : BitVec 5) (s t u : State) (x : Word) (r : Region) (i : Nat) (n : Node),
    lineageTurn s → gsIn s [a] = some ([x], t) → tableIs t r → liveAt t r (x.toNat % 2 ^ 32) i n →
    recordOut d.toNat n.bytes 8 t = some u → exec (.linfo d a) s = .next (lineageDone u 4000)) ∧
  (∀ (d : BitVec 2) (a : BitVec 5) (s t u : State) (x : Word) (r : Region),
    lineageTurn s → gsIn s [a] = some ([x], t) → tableIs t r →
    x.toNat % 2 ^ 32 / 256 = 0 ∨ r.lntCap ≤ x.toNat % 2 ^ 32 / 256 →
    recordOut d.toNat (zeros 64) 8 t = some u → exec (.linfo d a) s = .next (lineageDone u 4000)) ∧
  (∀ (a : BitVec 5) (s t : State) (x : Word) (r : Region) (i : Nat) (n : Node),
    lineageTurn s → gsIn s [a] = some ([x], t) → tableIs t r → liveAt t r (x.toNat % 2 ^ 32) i n →
    t.below 8 (t.owner t.core.pos) (BitVec.ofNat 16 n.owner) = false →
    exec (.lseal a) s = .next (s.takeTrap false 10 (BitVec.ofNat 64 (x.toNat % 2 ^ 32 * 2 ^ 32 + 12)) 0) ∧
    exec (.ldrop a) s = .next (s.takeTrap false 10 (BitVec.ofNat 64 (x.toNat % 2 ^ 32 * 2 ^ 32 + 12)) 0))

/-- LFLAT and LREBASE stand last among the engine commands with their captured operands, LPROD last in the governor's queue
with its members' tiles tagged. (R269, R274, R276, R282) -/
def Obligations.LineageCommands : Prop :=
  (∀ (k a : BitVec 5) (s t : State) (x r : Word), gsIn s [a, k] = some ([x, r], t) → r.toNat % 16 = 0 → r.toNat < 0x20000 →
    (t.cmds.filter (fun c => c.core == t.core.pos && !c.isNet)).length < 16 →
    ∃ u, exec (.lflat k a) s = .next (went u 4) ∧ issued t u .lflat (barrierRef t k r) x 0 [] 16 none) ∧
  (∀ (k a b : BitVec 5) (s t : State) (x y r : Word), gsIn s [a, b, k] = some ([x, y, r], t) → r.toNat % 16 = 0 →
    r.toNat < 0x20000 → (t.cmds.filter (fun c => c.core == t.core.pos && !c.isNet)).length < 16 →
    ∃ u, exec (.lrebase k a b) s = .next (went u 4) ∧ issued t u .lrebase (barrierRef t k r) x y [] 16 none) ∧
  (∀ (k a : BitVec 5) (s t : State) (x r xb xl : Word) (d : List Byte), gsIn s [a, k] = some ([x, r], t) → r.toNat % 16 = 0 →
    r.toNat < 0x20000 → x.toNat % 64 = 0 → x.toNat + 128 ≤ 0x20000 → t.core.noArea x.toNat 128 = true →
    d = t.getBytes (localPlace t.core.pos x.toNat) 128 → famOk d = true → xb = BitVec.ofNat 64 (slice d 8 8) →
    xl = BitVec.ofNat 64 (slice d 0x10 8) → t.famChecks (Instr.encode (.lprod k a)) d xb xl = .ok () → roomy t →
    ∃ u q, exec (.lprod k a) s = .next (went u 4) ∧
      (u.groupAt (groupOf s.core.pos)).queue = (t.groupAt (groupOf s.core.pos)).queue ++ [q] ∧
      q.id = t.nextId ∧ q.core = s.core.pos ∧ q.abase = xb ∧ q.alay = xl ∧ q.bbase = x ∧ q.fam = d ∧ q.bar = barrierRef t k r ∧
      q.batch = s.core.cbatch ∧ q.crbv = s.core.crb ∧ q.started = false ∧ u.nextId = t.nextId + 1 ∧ u.mem = t.mem ∧
      u.core.g = t.core.g ∧ u.core.t = t.core.t ∧
      ∀ j, j < famMembers d → u.core.ttag.toList.getD (famTile d j) 0 = if cubeKind (layTag xl) = some true then 20 else 21)

/-! ## Control registers and system instructions -/

/-- CRD and CWR complete: CRD of any register of R73 into a g register that is no bound stream register answers a next state; CWR of
XPC, XCAUSE, XVAL and XSCRATCH from such a register does, and of CRB, CSAT and CRND where the value fits. (R73, R75) -/
def Sys2Proof.Says.controlCompletes : Prop :=
  (∀ (d : BitVec 5) (i : BitVec 15) (s : State), s.core.gstream d = none → (∃ x, (i.toNat, x) ∈ controls s) →
    ∃ u, exec (.crd d i) s = .next u ∧ u.core.pc = s.core.pc + 4 ∧ u.mem = s.mem) ∧
  (∀ (d : BitVec 5) (i : BitVec 15) (s : State), s.core.gstream d = none → i ∈ ([0x010, 0x011, 0x012, 0x013] : List (BitVec 15)) →
    ∃ u, exec (.cwr d i) s = .next u ∧ u.core.pc = s.core.pc + 4 ∧ u.mem = s.mem) ∧
  (∀ (d : BitVec 5) (i : BitVec 15) (s : State), s.core.gstream d = none → s.core.windowOpen s.now (.g d) = false →
    (i = 0x040 ∧ (s.core.rawG d).toNat ≤ 16) ∨ (i = 0x041 ∧ (s.core.rawG d).toNat < 256) ∨ (i = 0x042 ∧ (s.core.rawG d).toNat < 4) →
    ∃ u, exec (.cwr d i) s = .next u ∧ u.core.pc = s.core.pc + 4 ∧ u.mem = s.mem)

/-- CRD gives the value of the named register, and a free value for CSAT while a flag is on its way; with a number that names none
CRD and CWR are ill formed, and raise ILLEGAL; CWR writes the writable registers, CSAT together with the flags that land in its cycle, and raises ILLEGAL for every other
number or value; both complete wherever their operands are plain registers. (That CRD of CSAT gives a free value exactly while a raised
flag is on its way is the model's choice: log 52.) (R73, R74, R75, R405, R128) -/
def Obligations.ControlRegisters : Prop :=
  controlCompletes ∧
  (∀ (d : BitVec 5) (i : BitVec 15) (s u : State) (x : Word), (i.toNat, x) ∈ controls s → i ≠ 0x041 ∨ (∀ e ∈ s.core.flagsDue, e.1 ≤ s.now) →
    gOut s d x 1 = some u → exec (.crd d i) s = .next (went u 4)) ∧
  (∀ (d : BitVec 5) (i : BitVec 15) (s : State), (∀ x, (i.toNat, x) ∉ controls s) →
    (Instr.crd d i).wf = false ∧ (Instr.cwr d i).wf = false ∧
    exec (.crd d i) s = .next (s.takeTrap false 1 (BitVec.ofNat 64 (Instr.encode (.crd d i))) 0)) ∧
  (∀ (d : BitVec 5) (s u : State), (∃ e ∈ s.core.flagsDue, s.now < e.1) →
    gOut { s with free := s.free + 1 } d (BitVec.ofNat 64 (Config.freeNat s.free % 256)) 1 = some u →
    exec (.crd d 0x041) s = .next (went u 4)) ∧
  (∀ (d : BitVec 5) (s t : State) (x : Word), gsIn s [d] = some ([x], t) →
    exec (.cwr d 0x010) s = .next (went { t with core := { t.core with xpc := x } } 4) ∧
    exec (.cwr d 0x011) s = .next (went { t with core := { t.core with xcause := x } } 4) ∧
    exec (.cwr d 0x012) s = .next (went { t with core := { t.core with xval := x } } 4) ∧
    exec (.cwr d 0x013) s = .next (went { t with core := { t.core with xscratch := x } } 4) ∧
    (x.toNat ≤ 16 → exec (.cwr d 0x040) s = .next (went { t with core := { t.core with crb := BitVec.ofNat 5 x.toNat } } 4)) ∧
    (x.toNat < 256 → exec (.cwr d 0x041) s = .next (went { t with core := { t.core with
      csat := BitVec.ofNat 8 x.toNat ||| (t.core.flagsDue.filter (fun e => e.1 == t.now)).foldl (fun a e => a ||| e.2) 0 } } 4)) ∧
    (x.toNat < 4 → exec (.cwr d 0x042) s = .next (went { t with core := { t.core with crnd := BitVec.ofNat 2 x.toNat } } 4)) ∧
    ∀ i : BitVec 15, i ∉ ([0x010, 0x011, 0x012, 0x013, 0x040, 0x041, 0x042] : List (BitVec 15)) ∨ (i = 0x040 ∧ 16 < x.toNat) ∨
        (i = 0x041 ∧ 256 ≤ x.toNat) ∨ (i = 0x042 ∧ 4 ≤ x.toNat) →
      exec (.cwr d i) s = .next (s.takeTrap false 1 (BitVec.ofNat 64 (Instr.encode (.cwr d i))) 0))

/-- A drained core outside a suit that switches to another workspace without a bad tag saves g1 to g31 and the next PC in the
old workspace and has the registers of the new one 48 cycles later; a misaligned or outside operand raises ALIGN or WINDOW,
and in a suit WSWP raises ILLEGAL. (That the PC is the saved one without its bit 0 is the model's choice: log 69.) (R76, R77, R80) -/
def Obligations.WorkspaceSwitch : Prop :=
  (∀ (d : BitVec 5) (s : State) (x : Word) (img : List Byte),
    s.core.pos < 49152 → gsIn s [d] = some ([x], s) → s.core.suit.act = false → x.toNat % 0x4000 = 0 → x.toNat ≤ 0x1C000 →
    s.core.cwp.toNat ≤ 0x1C000 → s.core.cwp.toNat % 0x4000 = 0 → x ≠ s.core.cwp → s.memWf →
    (∀ i : Fin 8, s.core.gs[i] = none) → (∀ i : Fin 4, s.core.vs[i] = none) → s.core.flagsDue = [] → s.core.windows = [] →
    (∀ g ∈ s.gathers, g.core ≠ s.core.pos) → (∀ c ∈ (s.groupAt (groupOf s.core.pos)).queue, c.core ≠ s.core.pos ∧ c.isPart = false) →
    (∀ e ∈ s.deliveries, groupOf e.core ≠ groupOf s.core.pos) → (∀ c ∈ s.cmds, c.core = s.core.pos → c.follow = none) →
    img = s.getBytes (localPlace s.core.pos x.toNat) 0x4000 → badTagOffset img = none →
    ∃ u, exec (.wswp d) s = .next u ∧ u.core.cwp = x ∧ u.core.pc = BitVec.ofNat 64 (slice img 0x738 8) &&& ~~~1 ∧
      u.core.readyAt = s.now + 48 * s.period s.core.pos ∧
      (∀ i : Fin 32, u.core.g[i] = if i.val = 0 then 0 else BitVec.ofNat 64 (slice img (8 * i.val) 8)) ∧
      (∀ i : Fin 16, u.core.v[i] = BitVec.ofNat 512 (slice img (0x100 + 64 * i.val) 64)) ∧
      u.core.xpc = BitVec.ofNat 64 (slice img 0x6E8 8) ∧
      (∀ i : Fin 32, i.val ≠ 0 → u.getNat (localPlace s.core.pos (s.core.cwp.toNat + 8 * i.val)) 8 = s.core.g[i].toNat) ∧
      u.getNat (localPlace s.core.pos (s.core.cwp.toNat + 0x738)) 8 = (s.core.pc + 4).toNat) ∧
  (∀ (d : BitVec 5) (s t : State) (x : Word), gsIn s [d] = some ([x], t) →
    (s.core.suit.act = true → exec (.wswp d) s = .next (s.takeTrap false 1 (BitVec.ofNat 64 (Instr.encode (.wswp d))) 0)) ∧
    (s.core.suit.act = false → x.toNat % 0x4000 ≠ 0 → exec (.wswp d) s = .next (s.takeTrap false 3 x 0)) ∧
    (s.core.suit.act = false → x.toNat % 0x4000 = 0 → 0x1C000 < x.toNat → exec (.wswp d) s = .next (s.takeTrap false 4 x 0)))

/-- GBAR releases, once the core's stores under way are performed, and waits; RYIELD marks the launch; TBEGIN waits for its tick, with every die at 2.0 GHz from its issue on, which is the model's choice (log 51),
or raises ILLEGAL or TIMESLIP when it is too far or past, and ILLEGAL in timed code; TEND ends timed code and keeps CSEG; HALT waits for the core's commands and then ends it. (R35, R29, R356, R357,
R358, R384) -/
def Obligations.SegmentsAndHalt : Prop :=
  (∀ s : State, ∃ u, exec .gbar s = .next u ∧ u.core.status = .waiting .gbar ∧ u.core.pc = s.core.pc ∧
    u.core.readyAt = s.now + s.period s.core.pos ∧ u.core.access = [] ∧ u.core.g = s.core.g ∧ u.mem = s.mem ∧
    ((∀ e ∈ s.later, e.core ≠ s.core.pos) → u.later = s.later ∧ u.marks = s.marks.filterMap (fun k =>
      if s.now < k.since then some k else LineMark.release s.core.pos (s.owner s.core.pos) (s.gbarScope s.core.pos) k)) ∧
    ((∃ e ∈ s.later, e.core = s.core.pos) → u.marks = s.marks ∧
      ∃ e ∈ u.later, e.core = s.core.pos ∧ (s.gbarScope s.core.pos, s.now) ∈ e.releases)) ∧
  (∀ s : State, ∃ u, exec .ryield s = .next (went u 4) ∧ u.core = s.core ∧ u.mem = s.mem ∧
    u.regions = s.regions.map (fun r => if r.id = s.owner s.core.pos then
      { r with launches := r.launches.map (fun l => if l.seq = s.core.launch then { l with yield := true } else l) } else r)) ∧
  (∀ (a : BitVec 5) (s : State), s.core.timed = true →
    exec (.tbegin a) s = .next (s.takeTrap false 1 (BitVec.ofNat 64 (Instr.encode (.tbegin a))) 0)) ∧
  (∀ (a : BitVec 5) (s t : State) (x : Word), s.core.timed = false → gsIn s [a] = some ([x], t) →
    (s.ticks < x.toNat → x.toNat < s.ticks + 2 ^ 32 → exec (.tbegin a) s = .next (clocked (stands s t (.start x)))) ∧
    (s.ticks + 2 ^ 32 ≤ x.toNat → exec (.tbegin a) s = .next (s.takeTrap false 1 (BitVec.ofNat 64 (Instr.encode (.tbegin a))) 0)) ∧
    (x.toNat ≤ s.ticks → exec (.tbegin a) s = .next (s.takeTrap false 8 (BitVec.ofNat 64 (10 + s.core.suit.spos.toNat * 256)) 0))) ∧
  (∀ s : State, exec .tend s = .next (went { s with core := { s.core with
    cseg := if s.core.timed then s.core.cseg + BitVec.ofNat 64 ((s.now - s.core.segFrom) / 12) else s.core.cseg
    timed := false } } 4)) ∧
  (∀ (s t : State), s.core.failedAppend = none → t = s.syncRelease s.core.pos none → t.haltDone t.core.pos = false →
    exec .halt s = .next { t with core := { t.core with
      status := .halting, cseg := if s.core.timed then s.core.cseg + BitVec.ofNat 64 ((s.now - s.core.segFrom) / 12) else s.core.cseg
      timed := false, readyAt := s.now + s.period s.core.pos, dbg := false } }) ∧
  (∀ (s t : State), s.core.failedAppend = none → t = s.syncRelease s.core.pos none → t.haltDone t.core.pos = true →
    exec .halt s = exec .coreHalt { t with core := { t.core with
      status := .halting, cseg := if s.core.timed then s.core.cseg + BitVec.ofNat 64 ((s.now - s.core.segFrom) / 12) else s.core.cseg
      timed := false, readyAt := s.now + s.period s.core.pos, dbg := false } })

/-- A request at a valid block releases everything of the region, goes to the dealer and the core waits for its answer within
the rule's bound; the answer lands in gD; RINVAL drops the cached translations of the subtree and stalls until its stores
under way are performed; a misaligned block raises ALIGN. (R344, R345, R394, R403) -/
def Obligations.DealerRequests : Prop :=
  (∀ (d a : BitVec 5) (s t u : State) (x : Word), gsIn s [a] = some ([x], t) → blockAt t x → gOut t d 0 1 = some u →
    exec (.rcreate d a) s = .next (asked t d 0 x 0 4000)) ∧
  (∀ (d a : BitVec 5) (s t u : State) (x : Word), gsIn s [a] = some ([x], t) → blockAt t x → gOut t d 0 1 = some u →
    exec (.rlaunch d a) s = .next (asked t d 1 x 0
      (if t.isVerified (t.owner t.core.pos) (t.peekNat (t.owner t.core.pos) (x.toNat + 0x10) 8) then 4000 else 80000))) ∧
  (∀ (d a b : BitVec 5) (s t u : State) (x y : Word), gsIn s [a, b] = some ([x, y], t) → blockAt t x → gOut t d 0 1 = some u →
    exec (.rrevoke d a b) s = .next (asked t d 2 x y 4000)) ∧
  (∀ (a : BitVec 5) (s t : State), s.core.timed = false → gsIn s [a] = some ([0], t) →
    ∃ u, exec (.rinval a) s = .next u ∧ u.core.pc = s.core.pc + 4 ∧ u.core.g = t.core.g ∧ u.mem = t.mem ∧
      u.tcache = (t.dropCached ((t.subtree (t.owner t.core.pos)).map Region.id)).tcache ∧
      (0 < t.period t.core.pos → ∀ e ∈ t.later, 2 ^ 36 ≤ e.place → t.owner e.core ∈ (t.subtree (t.owner t.core.pos)).map Region.id →
        e.visible ≤ u.core.readyAt)) ∧
  (∀ (d a b : BitVec 5) (s t : State) (x y : Word), gsIn s [a, b] = some ([x, y], t) → s.core.timed = false → x.toNat % 64 ≠ 0 →
    exec (.rrevoke d a b) s = .next (s.takeTrap false 3 x 0)) ∧
  (∀ (d : BitVec 5) (s t v : State) (x : Word) (e : Request),
    s.core.status = .waiting (.answer d) → s.requests.find? (fun e => e.core == s.core.pos) = some e →
    ({ s with requests := s.requests.filter (fun r => r.core != s.core.pos) }).serve e = (x, t) →
    gOut { t with core := { t.core with status := .running } } d x 1 = some v →
    exec .dealerAnswer s = .next (went { v with core := { v.core with readyAt := v.now } } 4)) ∧
  (∀ (s : State) (e : Request), s.region? (s.owner e.core) = none → s.serve e = (BitVec.ofNat 64 (2 ^ 63 + 2), s))

/-! ## Events of one core -/

/-- Each completing event of a waiting core outside a suit lets it go on in the cycle after its condition holds, or raises the
trap of the rule, and is not enabled while the condition does not hold. (R175, R176, R177, R308, R236, R322, R358) -/
def Obligations.WaitsComplete : Prop :=
  (∀ (s : State) (i : BitVec 6) (y : BitVec 32) (z : Option Word), waitsFor s (.counter i y z) →
    exec .waitcSatisfied s = if (s.core.counters[i.toNat] - y).toNat < 2 ^ 31 then .next (woken s)
      else .refused (.notEnabled "WAITC_SATISFIED")) ∧
  (∀ (s : State) (a : Nat) (p : Bool) (z : Option Word), waitsFor s (.barrier a p z) →
    exec .waitbSatisfied s = if (s.getNat (localPlace s.core.pos a) 8 / 2 ^ 56 % 2 == 1) = p then
        .next (if s.getNat (localPlace s.core.pos a) 8 / 2 ^ 58 % 2 = 1 then s.takeTrap false 11 (BitVec.ofNat 64 a) 0 else woken s)
      else .refused (.notEnabled "WAITB_SATISFIED")) ∧
  (∀ (s : State) (n : BitVec 32), waitsFor s (.batch n) →
    exec .waitnSatisfied s = if s.openBatches s.core.pos ≤ n.toNat then
        (match s.failedBatch s.core.pos with
          | none => .next (woken s)
          | some k => .next ((s.reportBatch s.core.pos).takeTrap false 11 (BitVec.ofNat 64 k.toNat) 0))
      else .refused (.notEnabled "WAITN_SATISFIED")) ∧
  (∀ (s : State) (z : Option Word), waitsFor s (.fence z) →
    exec .fenceComplete s = if s.accessesDone s.core.pos then .next (woken (s.releaseMarks s.core.pos (s.scope z)))
      else .refused (.notEnabled "FENCE_COMPLETE")) ∧
  (∀ s : State, waitsFor s .tfence →
    exec .tfenceComplete s = if s.cubeDone s.core.pos && s.core.posted.isEmpty then .next (woken s) else .refused (.notEnabled "TFENCE_COMPLETE")) ∧
  (∀ (s : State) (k : Nat), waitsFor s (.pub k) → s.keyBusy s.core.pos k = false → (∀ g ∈ s.pubs, g.key ≠ .key s.core.pos k) →
    exec .pubComplete s = .next (woken (s.releaseMarks s.core.pos none))) ∧
  (∀ (s : State) (k : Nat) (g : PubGroup), waitsFor s (.pub k) → s.keyBusy s.core.pos k = false → keyed s k g → g.failed = false →
    ∃ u, exec .pubComplete s = .next u ∧ u.core.pc = s.core.pc + 4 ∧ u.core.status = .running ∧ published s u k g) ∧
  (∀ (s : State) (k : Nat) (g : PubGroup) (f : Finished), waitsFor s (.pub k) → s.keyBusy s.core.pos k = false → keyed s k g →
    g.failed = true → firstFailed g f →
    ∃ v, exec .pubComplete s = .next (v.takeTrap false 11 (BitVec.ofNat 64 f.batch.toNat) 0) ∧ discarded s v k) ∧
  (∀ (s : State) (k : Nat), waitsFor s (.pub k) → s.keyBusy s.core.pos k = true →
    exec .pubComplete s = .refused (.notEnabled "PUB_COMPLETE")) ∧
  (∀ (s : State) (x : Word), waitsFor s (.start x) →
    exec .timedSegmentStart s = if x.toNat ≤ s.ticks then .next { clocked s with core := { s.core with
        status := .running, timed := true, cseg := 0, segFrom := 12 * x.toNat, pc := s.core.pc + 4, readyAt := 12 * x.toNat
        dbg := false, popped := [], refetch := none } }
      else .refused (.notEnabled "TIMED_SEGMENT_START"))

/-- A bound stream when the appended results that are due by now have joined its queue (R85). -/
def landed (now : Nat) (t : Stream) : Stream :=
  { t with
    queue := t.queue ++ (t.landing.filter (fun e => decide (e.1 ≤ now))).map Prod.snd
    landing := t.landing.filter (fun e => decide (now < e.1)) }

/-- The last of the appended results that are due by now, if any (R78). -/
def lastDue (now : Nat) (o : Option Stream) : Option Nat :=
  o.bind (fun t => ((t.landing.filter (fun e => decide (e.1 ≤ now))).getLast?).map Prod.snd)

/-- A suit barrier that every member has reached forms the suit with positions in ascending order, each issuing its position's
cycles later; landings close windows, OR flags into CSAT and let appended results join their streams; HALT ends the core, and the
launch when it is the last, whose state in LSTAT is then 6. (R22, R23, R24, R85, R87, R128, R355, R384) -/
def Obligations.CoreEvents : Prop :=
  (∀ (s : State) (grp : Nat) (m : BitVec 16), grp < 3072 → m ≠ 0 →
    (∀ e ∈ namedBy grp m, (s.coreAt e.2).status = .waiting (.suitBar m)) →
    ∃ u, exec (.suitBarrierComplete grp m) s = .next u ∧ u.mem = s.mem ∧
      ∀ e ∈ namedBy grp m, ∃ k, k < (namedBy grp m).length ∧ (namedBy grp m)[k]? = some e ∧
        (u.coreAt e.2).suit = ⟨true, BitVec.ofNat 4 ((namedBy grp m).length - 1), BitVec.ofNat 4 k, m⟩ ∧
        (u.coreAt e.2).status = .running ∧ (u.coreAt e.2).pc = (s.coreAt e.2).pc + 4 ∧
        (u.coreAt e.2).readyAt = (s.now / s.period e.2 + 1) * s.period e.2 + k * s.period e.2) ∧
  (∀ s : State, (∃ w ∈ s.core.windows, w.closes ≤ s.now) ∨ (∃ e ∈ s.core.flagsDue, e.1 ≤ s.now) →
    ∃ u, exec .registerLanding s = .next u ∧ (∀ w, w ∈ u.core.windows ↔ w ∈ s.core.windows ∧ s.now < w.closes) ∧
      (∀ e, e ∈ u.core.flagsDue ↔ e ∈ s.core.flagsDue ∧ s.now ≤ e.1) ∧
      (∀ i, u.core.csat.getLsbD i = (s.core.csat.getLsbD i || s.core.flagsDue.any (fun e => decide (e.1 ≤ s.now) && e.2.getLsbD i))) ∧
      (∀ i : Fin 8, u.core.gs[i] = (s.core.gs[i]).map (landed s.now)) ∧ (∀ i : Fin 4, u.core.vs[i] = (s.core.vs[i]).map (landed s.now)) ∧
      (∀ i : Fin 32, i.val < 24 → u.core.g[i] = s.core.g[i]) ∧ (∀ i : Fin 16, i.val < 12 → u.core.v[i] = s.core.v[i]) ∧
      (∀ i : Fin 8, u.core.g[24 + i.val] = ((lastDue s.now s.core.gs[i]).map (BitVec.ofNat 64)).getD s.core.g[24 + i.val]) ∧
      (∀ i : Fin 4, u.core.v[12 + i.val] = ((lastDue s.now s.core.vs[i]).map (BitVec.ofNat 512)).getD s.core.v[12 + i.val]) ∧
      u.core.pc = s.core.pc ∧ u.mem = s.mem) ∧
  (∀ (s : State) (r : Region) (l : Launch) (p : Nat),
    s.core.status = .halting → s.core.failedAppend = none → s.haltDone s.core.pos = true → s.region? (s.owner s.core.pos) = some r →
    r.launch? s.core.launch = some l → p ∈ l.cores → p ≠ s.core.pos → s.takesPart r.id l.seq p = true → (s.coreAt p).status ≠ .halted →
    ∃ u, exec .coreHalt s = .next u ∧ u.core.status = .halted ∧ u.core.timed = false ∧ u.core.g = s.core.g ∧
      u.core.counters = s.core.counters ∧ u.mem = s.mem ∧ u.regions = s.regions) ∧
  (∀ (s : State) (r : Region) (l : Launch),
    s.core.status = .halting → s.core.failedAppend = none → s.haltDone s.core.pos = true → s.region? (s.owner s.core.pos) = some r →
    r.launch? s.core.launch = some l → l.cores = [s.core.pos] → l.state = .running → s.core.launch = l.seq →
    s.takesPart r.id l.seq s.core.pos = true →
    ∃ u, exec .coreHalt s = .next u ∧ u.core.status = .idle ∧ u.core.launch = 0 ∧
      (l.seq = r.seq → r.refused = none → l.voided = false →
        ∃ v, u.region? (s.owner s.core.pos) = some v ∧ v.lstat = r.seq * 2 ^ 32 + l.code * 2 ^ 16 + 6))

/-! ## Launches, supersteps, tokens -/

/-- A waiting launch whose dependences hold becomes ready, and loses its promise where its deadline cannot be met any more; a request's
block gives it entry, arguments, stack and workspace, 0x1C000 by default; the chosen region's launch is placed with its image loaded, or fails where
the image cannot be; at its start every core has the entry state of R21. (R21, R351, R353, R355) -/
def Obligations.LaunchEvents : Prop :=
  (∀ (q : RegionId) (n : Nat) (s : State) (r : Region) (l : Launch),
    s.region? q = some r → r.launch? n = some l → l.state = .waiting → s.depsHold q l = true →
    ∃ u, exec (.launchReady q n) s = .next u ∧ u.readied = s.readied + 1 ∧
      u.region? q = some (launchSet r n (fun k =>
        let k := { k with state := .ready, order := s.readied, readyTick := s.ticks }
        if l.deadline.any (fun td => decide (td < s.ticks + l.worst + l.load + 64)) then { k with voided := true, code := 0x20 } else k))) ∧
  (∀ (q : RegionId) (r : Region) (b : List Byte) (n k : Nat) (s u : State), s.submit q r b n = .ok (k, u) → s.region? r.id = some r →
    (∀ l ∈ r.launches, l.seq ≤ r.seq) →
    ∃ v l, u.region? r.id = some v ∧ v.launch? k = some l ∧ k = r.seq + 1 ∧ v.seq = k ∧
      l.entry = BitVec.ofNat 64 (slice b 0x08 8) ∧ l.args = (List.range 4).map (fun i => BitVec.ofNat 64 (slice b (0x18 + 8 * i) 8)) ∧
      l.stack = slice b 0x50 4 ∧ l.wsbase = (if slice b 0x54 4 = 0 then 0x1C000 else slice b 0x54 4)) ∧
  (∀ (q : RegionId) (s t : State) (r : Region) (l : Launch) (cores : List Nat),
    s.region? q = some r → s.eligible r = some l → s.choice = some q → l.state = .ready → cores = s.freeCores r →
    s.fillCores r l cores = .ok t →
    ∃ u v, exec (.launchPlace q) s = .next u ∧ t.region? q = some v ∧ u.served = q ∧
      u.region? q = some (launchSet v l.seq (fun k => { k with
        state := .loading, cores := cores, loadAt := s.ticks, settled := s.ticks
        startAt := if k.state = .suspended then s.ticks + l.load + 64 else max k.tstart (s.ticks + l.load + 64) })) ∧
      u.mem = t.mem ∧ ∀ p ∈ cores, (u.coreAt p).launch = l.seq) ∧
  (∀ (q : RegionId) (s : State) (r : Region) (l : Launch) (c : Nat),
    s.region? q = some r → s.eligible r = some l → s.choice = some q → l.state = .ready → s.fillCores r l (s.freeCores r) = .error c →
    exec (.launchPlace q) s = .next (s.closeLaunch r.id l.seq .refused c)) ∧
  (∀ (q : RegionId) (s : State) (r : Region) (l : Launch),
    s.region? q = some r → r.loading? = some l → l.startAt ≤ s.ticks → l.saved = [] → l.cores.Nodup →
    ∃ u, exec (.launchStart q) s = .next u ∧
      ∀ p ∈ l.cores, (u.coreAt p).pc = l.entry ∧ (u.coreAt p).status = .running ∧ (u.coreAt p).readyAt = 12 * l.startAt ∧
        (u.coreAt p).timed = false ∧ (u.coreAt p).inh = false ∧ (u.coreAt p).cwp = BitVec.ofNat 64 l.wsbase ∧
        (u.coreAt p).crb = 16 ∧ (u.coreAt p).csat = 0 ∧ (u.coreAt p).crnd = 0 ∧ (u.coreAt p).launch = l.seq ∧
        (u.coreAt p).cbatch = 0 ∧ (u.coreAt p).cseg = 0 ∧ (u.coreAt p).xpc = 0 ∧ (u.coreAt p).xcause = 0 ∧ (u.coreAt p).xval = 0 ∧
        (u.coreAt p).xscratch = 0 ∧ (u.coreAt p).suit = ⟨false, 0, 0, 0⟩ ∧ (∀ i : Fin 8, i.val ≠ 0 → (u.coreAt p).m[i] = 0) ∧
        (u.coreAt p).gs = Vector.replicate 8 none ∧ (u.coreAt p).vs = Vector.replicate 4 none ∧
        (u.coreAt p).g[2] = BitVec.ofNat 64 (if l.stack = 0 then 0x1C000 else l.stack) ∧
        (∀ i : Fin 4, (u.coreAt p).g[4 + i.val]'(by omega) = l.args.getD i.val 0) ∧
        (∀ i : Fin 32, i.val ∉ [2, 4, 5, 6, 7] → (u.coreAt p).g[i] = 0) ∧
        (u.coreAt p).v = Vector.replicate 16 0 ∧ (u.coreAt p).vtag = Vector.replicate 16 0 ∧
        (u.coreAt p).t = Vector.replicate 8 0 ∧ (u.coreAt p).ttag = Vector.replicate 8 0)

/-- A boundary lets every participating core go on and counts a superstep; the watchdog raises TIMER at the supervisor; a gang
stop and its resume move the timetable; the end of a revocation tells the revoker. (R36, R38, R39, R41, R391, R395) -/
def Obligations.SuperstepEvents : Prop :=
  (∀ (q : RegionId) (s : State) (r : Region) (l : Launch),
    s.region? q = some r → r.running? = some l → s.allArrived q l = true → r.state = .live → l.yield = false → r.launch? l.seq = some l →
    (∀ g ∈ s.pubs, ∀ a b c, g.key ≠ .launch a b c) →
    ∃ u, exec (.superstepBoundary q) s = .next u ∧
      (∀ p ∈ l.cores, s.takesPart q l.seq p = true → (s.coreAt p).status = .waiting .gbar →
        (u.coreAt p).status = .running ∧ (u.coreAt p).pc = (s.coreAt p).pc + 4 ∧
        (u.coreAt p).readyAt = (s.now / s.period p + 1) * s.period p + (s.coreAt p).suit.spos.toNat * s.period p) ∧
      u.region? q = some (launchSet r l.seq (fun k => { k with superstep := k.superstep + 1, boundary := s.ticks })) ∧ u.mem = s.mem) ∧
  (∀ (q : RegionId) (s : State) (r : Region) (l : Launch),
    s.region? q = some r → r.running? = some l → r.watchdog ≠ 0 → l.stopTs = none → l.boundary + r.watchdog ≤ s.ticks →
    ∃ u, exec (.superstepWatchdog q) s = .next u ∧
      (u.coreAt r.supervisor).pending.timer = some (BitVec.ofNat 64 l.superstep) ∧
      u.region? q = some (launchSet r l.seq (fun k => { k with boundary := l.boundary + r.watchdog }))) ∧
  (∀ (q : RegionId) (s : State) (r : Region) (l : Launch),
    s.region? q = some r → r.running? = some l → l.stopTs.isSome = true → l.resumeTr = none →
    (∀ p ∈ l.cores, s.takesPart r.id l.seq p = true → (s.coreAt p).broken = false) →
    exec (.debugStopEnd q) s = .next (s.modLaunch q l.seq (fun k => { k with resumeTr := some (s.ticks + 256) }))) ∧
  (∀ (q : RegionId) (s : State) (r : Region) (l : Launch) (ts : Nat),
    s.region? q = some r → r.current? = some l → r.revokeTs = none → l.stopped = false → l.stopTs = some ts → ts ≤ s.ticks →
    (∀ p ∈ l.cores, s.atBoundary p = true) →
    ∃ u, exec (.gangStop q) s = .next u ∧
      u.region? q = some (launchSet r l.seq (fun k => { k with stopped := true })) ∧
      u.msgs.length = s.msgs.length ∧
      ∀ (i : Nat) (m : Msg), s.msgs[i]? = some m → ∃ k, u.msgs[i]? = some { m with kitty := k } ∧
        (k = m.kitty ∨ ∃ p ∈ l.cores, m.src = .post p ∨ m.src = .signal p)) ∧
  (∀ (q : RegionId) (s : State) (r : Region) (l : Launch) (ts tr : Nat),
    s.region? q = some r → r.running? = some l → l.stopTs = some ts → l.resumeTr = some tr → tr ≤ s.ticks → l.stopped = true →
    ∃ u, exec (.gangResume q) s = .next u ∧
      (u.coreAt r.supervisor).pending.switch = some (BitVec.ofNat 64 (tr - ts)) ∧
      u.region? q = some (launchSet r l.seq (fun k => { k with
        stopTs := none, stopped := false, resumeTr := none
        boundary := if ts - 256 ≤ k.boundary then tr else k.boundary + (tr - (ts - 256)), startAt := k.startAt + (tr - ts) }))) ∧
  (∀ (q : RegionId) (s : State) (r : Region) (c : Nat),
    s.region? q = some r → r.state = .revoking → r.revoker = some c →
    (∀ x ∈ s.subtree q, x.current? = none ∧ s.pendingOutside q x = false) →
    ∃ u old, exec (.revokeDismantle q) s = .next u ∧
      (u.coreAt c).pending.trees = old ++ [(true, BitVec.ofNat 64 (2 ^ 63 + q.toNat))])

/-- A deal to a lone root without a launch, a loan from the parent's pool, a launch that exceeds WORST, and an increment that
arrives at the core of its region with the mailbox interrupt of counter 63. (R348, R349, R350, R342, R174, R315, R316) -/
def Obligations.TokensAndIncrements : Prop :=
  (∀ (s : State) (r : Region), (s.dealt + 1) * 200000 ≤ s.ticks → s.regions = [r] → r.id = 1 → r.state ≠ .retired →
    r.current? = none →
    ∃ u, exec .deal s = .next u ∧ u.dealt = s.dealt + 1 ∧ u.core = s.core ∧ u.regions = [{ r with
      pool := 0, marker := r.marker - min r.marker r.repay
      balance := min r.balance r.tokens + ((r.tokens : Int) - ((min r.marker r.repay : Nat) : Int)) }]) ∧
  (∀ s : State, s.ticks < (s.dealt + 1) * 200000 → exec .deal s = .refused (.notEnabled "DEAL")) ∧
  (∀ (q : RegionId) (s : State) (r p : Region) (l : Launch) (x : Nat),
    s.region? q = some r → s.region? r.parent = some p → r.id ≠ 1 → p.id ≠ r.id → r.current? = some l → l.cores ≠ [] → l.earmark = 0 →
    l.settled = s.ticks → r.unpledged ≤ 0 → x = min 16384 (min p.pool (r.borrow - r.marker)) →
    ∃ u r', exec (.balanceExhausted q) s = .next u ∧ u.region? q = some r' ∧ r'.balance = r.balance + x ∧
      r'.marker = r.marker + x ∧ u.region? r.parent = some { p with pool := p.pool - x }) ∧
  (∀ (q : RegionId) (s : State) (r : Region) (l : Launch),
    s.region? q = some r → r.running? = some l → l.deadline.isSome = true → l.voided = false → l.stopTs = none →
    l.startAt + l.worst < s.ticks →
    ∃ u, exec (.worstExceeded q) s = .next u ∧ u.core = s.core ∧
      u.region? q = some (launchSet r l.seq (fun k => { k with voided := true, code := 0x21 }))) ∧
  (∀ (n : Nat) (s : State) (m : Msg), s.msgs[n]? = some m → m.kitty = none → m.after ≤ s.now →
    (m.src = .remote none ∨ ∀ e ∈ s.msgs.take n, e.src ≠ m.src ∨ ((∀ f, m.src ≠ .remote f) ∧ e.dst ≠ m.dst)) →
    (∀ f, m.src = .remote (some f) → ∀ o ∈ s.remotes, o.flow ≠ some f) →
    s.owner m.dst = m.region → (s.coreAt m.dst).launch ≠ 0 → (s.coreAt m.dst).status ≠ .idle →
    ∃ u, exec (.mailboxIncrement n) s = .next u ∧ u.msgs = s.msgs.eraseIdx n ∧
      (u.coreAt m.dst).counters = (s.coreAt m.dst).counters.set m.idx.toNat ((s.coreAt m.dst).counters[m.idx.toNat] + m.add) ∧
      (m.idx = 63 → (u.coreAt m.dst).pending.mailbox =
        some (BitVec.ofNat 64 ((s.coreAt m.dst).counters[63] + m.add).toNat)) ∧
      (∀ p, p ≠ m.dst → u.coreAt p = s.coreAt p) ∧ u.mem = s.mem ∧
      u.outbox = (match m.src with | .remote _ => [Reply.ack] | _ => []) ++ s.outbox)

/-! ## The governor and the engines at work -/

/-- Alone in its group it starts, takes its one step, and completes with every byte of its tile zero; a TPART that had stopped
starts once its members are resident. (R211, R233, R242) -/
def Obligations.GovernorRuns : Prop :=
  (∀ (grp : Nat) (s : State) (c : CubeCmd), onlyCmd s grp c → c.started = false → c.held = false → c.due ≤ s.now →
    c.isLprod = false → s.cubeStops c = false → s.countFull c.id c.marks = false →
    (∀ m ∈ c.marks, s.heldUp c.core m.1 m.2 = false ∧ s.underWay c.core m.1 = false) →
    c.isPart = false ∨ c.reloaded = false ∨ s.ringsResident c = true →
    ∃ u e, exec (.governorCommandStart grp) s = .next u ∧ onlyCmd u grp e ∧ e.started = true ∧ e.due = s.now ∧ e.word = c.word ∧
      e.id = c.id ∧ e.step = c.step ∧ u.core = s.core ∧ u.mem = s.mem) ∧
  (∀ (grp : Nat) (s : State) (c : CubeCmd) (d : BitVec 3), onlyCmd s grp c → c.word = BitVec.ofNat 32 (Instr.encode (.tzero d)) →
    c.started = true → c.total = 1 → c.step = 0 → c.due ≤ s.now → s.cubeStops c = false →
    ∃ u e, exec (.cubeStep grp) s = .next u ∧ onlyCmd u grp e ∧ e.acc = [0] ∧ e.step = 1 ∧ e.word = c.word ∧ u.core = s.core ∧
      u.mem = s.mem) ∧
  (∀ (grp : Nat) (s : State) (c : CubeCmd) (d : BitVec 3) (x : TWord), onlyCmd s grp c →
    c.word = BitVec.ofNat 32 (Instr.encode (.tzero d)) → c.started = true → c.total ≤ c.step → c.acc = [x] → c.fl = 0 →
    c.stepEnd (s.period c.core) + s.period c.core ≤ s.now →
    ∃ u, exec (.governorCommandComplete grp) s = .next u ∧ (u.groupAt grp).queue = [] ∧
      (u.coreAt c.core).t = (s.coreAt c.core).t.set d.toNat x ∧ (u.coreAt c.core).csat = (s.coreAt c.core).csat ∧ u.mem = s.mem)

/-- To accumulator (m, n) it adds the products of 16 elements of row m of A and row n of B and saturates to 32 bits; nothing
else but the command's step changes. (R132, R209, R220, R221) -/
def Obligations.CubeSliceOnIntegers : Prop :=
  ∀ (grp : Nat) (s : State) (c : CubeCmd) (d : BitVec 3) (a b : BitVec 5) (m : BitVec 3) (x A B : TWord),
    onlyCmd s grp c → c.word = BitVec.ofNat 32 (Instr.encode (.tmul d a b 16 m)) → a.toNat < 8 → b.toNat < 8 → m.toNat < 4 →
    c.tags.take 2 = [4, 4] → c.started = true → c.total = 4 → c.step < 4 → c.due ≤ s.now → c.acc = [x] →
    s.cubeStops c = false → c.undef = [] →
    A = (s.coreAt c.core).t.toList.getD a.toNat 0 → B = (s.coreAt c.core).t.toList.getD b.toNat 0 →
    ∃ u e y, exec (.cubeStep grp) s = .next u ∧ onlyCmd u grp e ∧ e.step = c.step + 1 ∧ e.acc = [y] ∧ u.core = s.core ∧ u.mem = s.mem ∧
      ∀ o, o < 256 → accAt y o = sat32 (accAt x o + ((List.range 16).map (fun j =>
        tileInt A (o / 16) (16 * c.step + j) * tileInt B (o % 16) (16 * c.step + j))).sum)

/-- A CP of one element within the own local memory starts, moves its element and only its bytes, and completes with its batch
counted down; a ready instance starts and an unready one is not enabled. (R290, R291, R292, R297, R370) -/
def Obligations.EngineRuns : Prop :=
  (∀ (s : State) (c : EngCmd), s.cmds = [c] → c.kind = .copy 0 → c.started = false → c.failed = none → s.later = [] →
    s.countFull c.id c.marks = false →
    ∃ u e, exec (.engineCommandStart c.id) s = .next u ∧ u.cmds = [e] ∧ e.started = true ∧ e.progress = c.progress ∧ e.k = c.k ∧
      u.core = s.core ∧ u.mem = s.mem) ∧
  (∀ (s : State) (c : EngCmd) (w : Nat), s.cmds = [c] → c.kind = .copy 0 → c.started = true → c.failed = none → c.progress = 0 → c.granules = [] →
    c.core = s.core.pos → s.core.pos < 49152 → s.core.timed = false → c.k = 0 → c.pubm = 0 → dscN c.desc 0 = 1 → dscN c.desc 1 = 1 → dscN c.desc 2 = 1 →
    dscStag c.desc = dscDtag c.desc → w = tagWidth (dscStag c.desc) → w = 8 ∨ w = 16 ∨ w = 32 ∨ w = 64 → tagC4 (dscStag c.desc) = false →
    c.a.toNat % (w / 8) = 0 → c.b.toNat % (w / 8) = 0 → c.a.toNat + w / 8 ≤ 0x20000 → c.b.toNat + w / 8 ≤ 0x20000 →
    s.core.inWorkspace c.b.toNat (w / 8) = false → s.marks = [] → s.poison = [] → s.corrupt = [] → (∀ k ∈ s.others, k.access = []) → s.memWf →
    ∃ u e, exec (.engineLanding c.id) s = .next u ∧ u.cmds = [e] ∧ e.progress = 1 ∧ e.arrived = c.arrived + w / 8 ∧
      u.getNat (localPlace s.core.pos c.b.toNat) (w / 8) = s.getNat (localPlace s.core.pos c.a.toNat) (w / 8) ∧
      (∀ q, q < localPlace s.core.pos c.b.toNat ∨ localPlace s.core.pos c.b.toNat + w / 8 ≤ q → u.getByte q = s.getByte q) ∧
      u.core.g = s.core.g ∧ u.core.v = s.core.v ∧ u.core.t = s.core.t) ∧
  (∀ (s : State) (c : EngCmd) (b : Batch), s.cmds = [c] → c.kind = .copy 0 → c.started = true → c.failed = none →
    c.progress = c.units → c.published = false → c.pubm = 0 → c.moves = [] → c.follow = none → dscWord c.desc 0 = 0 → dscWord c.desc 2 = 0 →
    s.core.pos = c.core → s.core.batches = [b] → b.is c.batch c.launch c.home = true → 1 < b.unfinished →
    s.judge = [] →
    ∃ u, exec (.engineCommandComplete c.id) s = .next u ∧ u.cmds = [] ∧
      u.core.batches = [{ b with unfinished := b.unfinished - 1 }] ∧ u.core.g = s.core.g ∧ u.mem = s.mem) ∧
  (∀ (s t : State) (c : EngCmd) (es : List EngCmd), s.cmds.find? (fun e => e.id == c.id) = some c → s.instanceReady c = true →
    s.members c = some es → s.startInstance c es = some t →
    exec (.collectiveInstanceStart c.id) s = .next t) ∧
  (∀ (s : State) (c : EngCmd), s.cmds.find? (fun e => e.id == c.id) = some c → s.members c = none →
    exec (.collectiveInstanceStart c.id) s = .refused (.notEnabled "COLLECTIVE_INSTANCE_START"))

/-- It acts on ghosts that wait for it; a record being freed that nothing reads becomes FREE with the next generation, one
that a snapshot reads stays. (R257, R273) -/
def Obligations.Housekeeping : Prop :=
  (∀ (q : RegionId) (i : Nat) (s t : State) (r : Region), s.region? q = some r → (q, i) ∈ s.housework → (s.nodeAt r i).state = 3 →
    s.houseKeep r i = some t → exec (.housekeeperFold q i) s = .next t) ∧
  (∀ (q : RegionId) (i : Nat) (s t u v : State) (r : Region) (n : Node), s.region? q = some r → (q, i) ∈ s.housework →
    (s.nodeAt r i).state = 4 → (∀ x ∈ s.snaps, x.table = q → i ∉ x.nodes) → getNode r i s = .ok n t → releaseImage r n t = .ok () u →
    putNode r i { n with state := 0, gen := (n.gen + 1) % 256 } u = .ok () v →
    exec (.nodeFree q i) s = .next { v with housework := v.housework.filter (fun e => e != (q, i)) }) ∧
  (∀ (q : RegionId) (i : Nat) (s : State) (r : Region), s.region? q = some r → (∃ x ∈ s.snaps, x.table = q ∧ i ∈ x.nodes) →
    exec (.nodeFree q i) s = .refused (.notEnabled "NODE_FREE"))

/-! ## Memory behind the sluices, hosts, the device -/

/-- A scrubbed line is no longer pending and reads as before; a retired page moves to a fresh frame with its bytes and poison;
the patrol scrubber and ordinary reads record what they find, and a shadow page or one that a CP.M fills retires by itself;
promotion and the decoder's stop give the page a new frame. (R396, R404, R413, R414, R418, R420) -/
def Obligations.PageEvents : Prop :=
  (∀ (s : State) (e : Nat × Nat), s.memWf → s.scrub.find? (fun e => decide (0 < e.2)) = some e →
    ∃ u, exec .scrubLine s = .next u ∧ scrubbed e.1 u.scrub = false ∧ (∀ p, u.getByte p = s.getByte p) ∧ u.core = s.core) ∧
  (∀ s : State, (∀ e ∈ s.scrub, e.2 = 0) → exec .scrubLine s = .refused (.notEnabled "SCRUB_LINE")) ∧
  (∀ (page : Nat) (s : State), s.memWf → s.pageExists page = true → linkOf (s.frame page) = none → s.frame page < s.nextFrame →
    s.device.phase = .running →
    ∃ u, exec (.pageRetire page) s = .next u ∧ u.frame page = s.nextFrame ∧ u.nextFrame = s.nextFrame + 1 ∧
      u.version page = (s.version page + 1) % 2 ^ 16 ∧
      (∀ o, o < 65536 → u.getByte (framePlace (u.frame page) o) = s.getByte (framePlace (s.frame page) o)) ∧
      (∀ k, k < 1024 → u.poisoned (framePlace (u.frame page) (64 * k)) = s.poisoned (framePlace (s.frame page) (64 * k))) ∧
      (s.frameBad (s.frame page) ≠ [] → page ∈ u.lostPages ∧ ∀ r ∈ u.regions, page ∈ r.lost)) ∧
  (∀ (g : Nat) (s : State), g < 16 * 0x180000 * 1024 → s.device.phase = .running →
    (∀ c ∈ s.cmds, ∀ m ∈ c.moves, m.2 ≠ g / 1024) →
    (∃ u, exec (.patrolScrub g .clean) s = .next u ∧ (u.stackAt (g / (0x180000 * 1024))).patrol = g ∧ u.poison = s.poison) ∧
    (∃ u, exec (.patrolScrub g .corrected) s = .next u ∧ (u.stackAt (g / (0x180000 * 1024))).patrol = g ∧ u.poison = s.poison ∧
      g ∈ (u.stackAt (g / (0x180000 * 1024))).fixed) ∧
    (∃ u, exec (.patrolScrub g .readCorrected) s = .next u ∧
      (u.stackAt (g / (0x180000 * 1024))).patrol = (s.stackAt (g / (0x180000 * 1024))).patrol ∧ u.poison = s.poison ∧
      g ∈ (u.stackAt (g / (0x180000 * 1024))).fixed) ∧
    ∀ o ∈ ([(.uncorrectable, g), (.readUncorrectable, (s.stackAt (g / (0x180000 * 1024))).patrol)] : List (ScrubFinding × Nat)),
      ∃ u, exec (.patrolScrub g o.1) s = .next u ∧ (u.stackAt (g / (0x180000 * 1024))).patrol = o.2 ∧
        u.poisoned (framePlace (g / 1024) (g % 1024 * 64)) = true ∧
        (s.remap = [] → g / 1024 ∉ s.device.freeHbm → u.inputs = .pageRetire (g / 1024) :: s.inputs)) ∧
  (∀ (f k : Nat) (s : State), s.isShadow f = true ∨ s.isMoving f = true → 2 ^ 32 ≤ f → f ∉ s.device.freeHbm → f < s.nextFrame → k < 1024 →
    s.device.phase = .running →
    ∃ u, exec (.patrolScrub (1024 * f + k) .uncorrectable) s = .next u ∧ u.nextFrame = s.nextFrame + 1 ∧
      (s.isShadow f = true → u.isShadow f = false ∧ u.isShadow s.nextFrame = true) ∧
      (s.isShadow f = false → u.isMoving f = false ∧ u.isMoving s.nextFrame = true) ∧
      u.remap = s.remap ∧ u.versions = s.versions ∧ u.inputs = s.inputs ∧ u.core = s.core) ∧
  (∀ (page f : Nat) (fs : List Nat) (s : State), s.isCompressed (s.frame page) = true → s.frameIsolated (s.frame page) = false →
    s.promoting page = false → s.device.phase = .running →
    s.device.freeHbm = f :: fs →
    ∃ u, exec (.implicitPromotion page) s = .next u ∧ u.frame page = f ∧ u.device.freeHbm = fs ∧ (∀ e ∈ u.compressed, e.1 ≠ s.frame page) ∧
      u.version page = (s.version page + 1) % 2 ^ 16) ∧
  (∀ (page code f : Nat) (fs : List Nat) (s : State), s.isCompressed (s.frame page) = true → s.frameIsolated (s.frame page) = false →
    s.promoting page = false → s.device.phase = .running →
    s.device.freeHbm = f :: fs → code = 3 ∨ code = 4 → f ≠ s.frame page →
    ∃ u, exec (.decoderWatchdog page code) s = .next u ∧ u.frame page = f ∧ u.device.freeHbm = fs ∧
      (∀ k, k < 1024 → u.poisoned (framePlace f (64 * k)) = true) ∧ Telemetry.decoderStop page code ∈ u.device.telemetry)

/-- Refresh intervals follow the temperatures; a missing heartbeat lets the sequencer take over; an unanswered expander is
isolated and later reinstated; extents come and go; wear levelling moves a page. (R410, R412, R415, R422, R423, R436) -/
def Obligations.StackAndLinkEvents : Prop :=
  (∀ (ts : List Nat) (s : State), ts.length = 16 * Config.layers → s.device.phase ≠ .powerOn →
    ∃ u, exec (.refreshUpdate ts) s = .next u ∧ u.core = s.core ∧ u.mem = s.mem ∧
      ∀ k, k < 16 → (u.stackAt k).temps = (ts.drop (Config.layers * k)).take Config.layers ∧
        ((s.stackAt k).dead = false → (u.stackAt k).intervals = ((ts.drop (Config.layers * k)).take Config.layers).map
          (fun x => if x < 85 then 3900 else if x < 95 then 1950 else 975)) ∧
        ((s.stackAt k).dead = true → (u.stackAt k).intervals = (s.stackAt k).intervals)) ∧
  (∀ (k : Nat) (s : State), k < 16 → (s.stackAt k).dead = false →
    ∃ u, exec (.heartbeat k) s = .next u ∧ (u.stackAt k).heartbeat = s.ticks ∧ (u.stackAt k).beat = (s.stackAt k).intervals ∧
      u.core = s.core ∧ u.mem = s.mem) ∧
  (∀ (k : Nat) (s : State), k < 16 → (s.stackAt k).takeover = false → (s.stackAt k).heartbeat + 200000 ≤ s.ticks →
    s.device.phase = .running →
    ∃ u, exec (.refreshTakeover k) s = .next u ∧ (u.stackAt k).takeover = true ∧ (u.stackAt k).dead = true ∧
      (∀ x ∈ (u.stackAt k).intervals, ∀ y ∈ (s.stackAt k).beat, x ≤ y) ∧ Telemetry.takeover k ∈ u.device.telemetry) ∧
  (∀ (k : Nat) (s : State), k < 16 → ∃ u, exec (.mgmtCoreRestart k) s = .next u ∧ (u.stackAt k).takeover = false ∧
    (u.stackAt k).dead = false ∧ (u.stackAt k).intervals =
      (s.stackAt k).temps.map (fun x => if x < 85 then 3900 else if x < 95 then 1950 else 975)) ∧
  (∀ (l a : Nat) (s : State), l < 8 → s.device.phase = .running → (s.linkAt l).isolated = false → (s.linkAt l).asked = some a →
    (a + 24000000 ≤ s.now → ∃ u, exec (.expanderTimeout l) s = .next u ∧ (u.linkAt l).isolated = true ∧ (u.linkAt l).asked = none ∧
      (u.linkAt l).writing = (s.linkAt l).writing ∧ u.core = s.core) ∧
    (s.now < a + 24000000 → exec (.expanderTimeout l) s = .refused (.notEnabled "EXPANDER_TIMEOUT"))) ∧
  (∀ (l : Nat) (s : State), (s.linkAt l).asked = none → exec (.expanderTimeout l) s = .refused (.notEnabled "EXPANDER_TIMEOUT")) ∧
  (∀ (l : Nat) (s : State), l < 8 → s.device.phase = .running → (s.linkAt l).isolated = true →
    ∃ u, exec (.expanderReinstate l) s = .next u ∧ (u.linkAt l).isolated = false ∧ (u.linkAt l).writing = [] ∧
      ∀ p ∈ (s.linkAt l).writing, ∀ k, k < 1024 → u.poisoned (framePlace (s.frame p) (64 * k)) = true) ∧
  (∀ (l x n : Nat) (s : State), l < 8 → s.device.phase = .running →
    ∃ u, exec (.extentAdd l x n) s = .next u ∧
      (s.extentOk l x n = true → (u.linkAt l).extents = (x, n) :: (s.linkAt l).extents ∧ u.outbox = .accepted :: s.outbox ∧
        u.device.freeCap = s.device.freeCap ++ (List.range (n * 4096)).map (fun i => 2 ^ 30 + l * 2 ^ 27 + x * 4096 + i)) ∧
      (s.extentOk l x n = false → u = repliedWith s .refused)) ∧
  (∀ (l x : Nat) (s : State), l < 8 → s.device.phase = .running → (∀ e ∈ (s.linkAt l).extents, e.1 ≠ x) →
    exec (.extentRelease l x) s = .next (repliedWith s .refused)) ∧
  (∀ (l x n : Nat) (s : State), l < 8 → s.device.phase = .running → (s.linkAt l).extents = [(x, n)] → s.remap = [] → s.cmds = [] →
    ((s.device.freeCap.filter (fun f => decide (2 ^ 30 + l * 2 ^ 27 + x * 4096 ≤ f) &&
        decide (f < 2 ^ 30 + l * 2 ^ 27 + x * 4096 + n * 4096))).length = n * 4096 →
      ∃ u, exec (.extentRelease l x) s = .next u ∧ (u.linkAt l).extents = [] ∧ u.outbox = .accepted :: s.outbox ∧
        ∀ f ∈ u.device.freeCap, f < 2 ^ 30 + l * 2 ^ 27 + x * 4096 ∨ 2 ^ 30 + l * 2 ^ 27 + x * 4096 + n * 4096 ≤ f) ∧
    (s.device.freeCap = [] → s.device.freeHbm = [] → s.compressed = [] → 0 < n →
      exec (.extentRelease l x) s = .next (repliedWith s .refused))) ∧
  (∀ (src dst : Nat) (s : State), (linkOf (s.frame src)).isSome = true → dst ∈ s.device.freeCap → s.frame src ∉ s.device.freeCap →
    s.frameIsolated (s.frame src) = false → s.frameIsolated dst = false →
    s.promoting src = false → s.device.phase = .running →
    ∃ u, exec (.wearLevelling src dst) s = .next u ∧ u.frame src = dst ∧ s.frame src ∈ u.device.freeCap ∧
      u.version src = (s.version src + 1) % 2 ^ 16 ∧ u.core = s.core)

/-- A part of RemoteOperations. -/
def Sys2Proof.Says.packetsTurnedAway : Prop :=
  (∀ (p : Packet) (off n : Nat) (bs : List Byte) (v w : Word) (x : BitVec 32) (s : State),
    s.device.phase = .safe ∨ (s.device.phase = .running ∧ p.supported = false) → ∀ i ∈ remotes p off n bs v w x,
      exec i s = .next (dropped s p.port)) ∧
  (∀ (p : Packet) (off n : Nat) (bs : List Byte) (s : State), s.device.phase = .running →
    (2 ^ 32 < n → exec (.remoteRead p off n) s = .next (dropped s p.port)) ∧
    (2 ^ 32 < bs.length → exec (.remoteWrite p off bs) s = .next (dropped s p.port))) ∧
  (∀ (p : Packet) (off n : Nat) (bs : List Byte) (v w : Word) (x : BitVec 32) (s : State), remoteTurn s p →
    (∀ e ∈ s.device.windows, e.2.key ≠ p.key) → bs.length ≤ 2 ^ 32 → n ≤ 2 ^ 32 → ∀ i ∈ remotes p off n bs v w x,
      exec i s = .next (repliedWith s (.nack .key)))

/-- A part of RemoteOperations. -/
def Sys2Proof.Says.remoteAdds : Prop :=
  (∀ (p : Packet) (off : Nat) (v : BitVec 32) (s : State) (w : HostWindow) (r : Region),
    s.device.phase = .running → p.supported = true → s.windowOf p.key = some w → s.region? w.region = some r → w.counter = true →
    w.perm.getLsbD 2 = true → off % 4 = 0 → off + 4 ≤ w.length → r.state = .live → off / 256 < (r.lw + 1) * (r.lh + 1) →
    exec (.remoteCounterAdd p off v) s = .next { s with
      msgs := s.msgs ++ [⟨.remote p.flow, r.id, r.coreOf (off / 256), BitVec.ofNat 6 (off % 256 / 4), v, none, 0⟩] }) ∧
  (∀ (p : Packet) (off : Nat) (v : BitVec 32) (s : State) (w : HostWindow),
    s.device.phase = .running → p.supported = true → s.windowOf p.key = some w → w.perm.getLsbD 2 = false →
    exec (.remoteCounterAdd p off v) s = .next (repliedWith s (.nack .perm)))

/-- A part of RemoteOperations. -/
def Sys2Proof.Says.remoteAccesses : Prop :=
  (∀ (p : Packet) (off n : Nat) (s t : State) (w : HostWindow) (segs : List Seg), remoteTurn s p →
    s.memoryWindow p.key off n 1 0 = .ok w → n ≤ 2 ^ 32 →
    State.remotePages (Config.freeNat s.free % 64) w.region .load (n / 65536 + 2) (w.base + off) n { s with free := s.free + 1 } = .ok (segs, t) →
    (∀ l ∈ segs.flatMap Seg.lines, t.heldUp remoteCore l.1 false = false) → t.countFull t.nextId (joinMarks segs false []) = false →
    (t.engineBad segs = none → exec (.remoteRead p off n) s =
      .next (underway t p (joinMarks segs false []) (.data (segs.flatMap (fun e => t.getBytes e.place e.len))))) ∧
    (∀ a u, t.engineBad segs = some (12, a, u) → exec (.remoteRead p off n) s = .next (repliedWith u .poisonedData)) ∧
    (∀ a u, t.engineBad segs = some (13, a, u) → exec (.remoteRead p off n) s = .next (repliedWith u (.nack .integrity)))) ∧
  (∀ (p : Packet) (off : Nat) (bs : List Byte) (s t : State) (w : HostWindow) (e : Seg), remoteTurn s p →
    s.memoryWindow p.key off bs.length 1 1 = .ok w → bs.length ≤ 2 ^ 32 →
    State.remotePages (Config.freeNat s.free % 64) w.region .store (bs.length / 65536 + 2) (w.base + off) bs.length
      { s with free := s.free + 1 } = .ok ([e], t) → e.len = bs.length →
    (∀ l ∈ e.lines, t.heldUp remoteCore l.1 true = false) → t.countFull t.nextId (joinMarks [e] true []) = false →
    (t.tornWrite bs [e] = none → exec (.remoteWrite p off bs) s = .next (underway (t.store e.place bs) p (joinMarks [e] true []) .ack)) ∧
    (∀ b a, t.tornWrite bs [e] = some (b, a) → exec (.remoteWrite p off bs) s = .next (repliedWith (t.untear b) (.nack .integrity)))) ∧
  (∀ (p : Packet) (off : Nat) (v c old : Word) (s t : State) (w : HostWindow) (e : Seg), remoteTurn s p →
    s.memoryWindow p.key off 8 8 2 = .ok w →
    State.remotePages (Config.freeNat s.free % 64) w.region .atomic 2 (w.base + off) 8 { s with free := s.free + 1 } = .ok ([e], t) →
    e.len = 8 → (∀ l ∈ e.lines, t.heldUp remoteCore l.1 true = false) → t.countFull t.nextId (joinMarks [e] true []) = false →
    t.engineBad [e] = none → old = BitVec.ofNat 64 (t.getNat e.place 8) →
    exec (.remoteFetchAdd p off v) s =
      .next (underway (t.store e.place (leBytes 8 (old + v).toNat)) p (joinMarks [e] true []) (.word old)) ∧
    exec (.remoteSwap p off v) s = .next (underway (t.store e.place (leBytes 8 v.toNat)) p (joinMarks [e] true []) (.word old)) ∧
    exec (.remoteCompareSwap p off c v) s =
      .next (underway (t.store e.place (leBytes 8 (if old = c then v else old).toNat)) p (joinMarks [e] true []) (.word old))) ∧
  (∀ (s : State) (n : Nat) (o : RemoteOp), s.remotes[n]? = some o →
    s.acknowledge n = repliedWith { s with remotes := s.remotes.eraseIdx n } o.answer)

/-- One that no window admits is refused; safe mode, an unsupported part and a length over 2^32 drop the packet and count it at its
port; a counter add goes under way, or lacks the permission whatever its window; reads, writes and atomics act at BASE + offset on memory that nothing holds up, and their engine
region stays until they are acknowledged. (The die whose sluice translates one is a free value, and the acknowledgement is a step of
its own: log 45.) (R360, R362, R363, R364, R365, R428) -/
def Obligations.RemoteOperations : Prop :=
  packetsTurnedAway ∧ remoteAdds ∧ remoteAccesses

/-- Host windows, peer groups, transport keys, telemetry and host messages are served as the rules say, or refused; a lost
peer is remembered. (R361, R362, R369, R374, R428) -/
def Obligations.ManagementMessages : Prop :=
  (∀ (k : Nat) (e : BitVec 256) (s : State), servesMgmt s → e.toNat / 2 ^ 64 % 2 = 0 → k < 1024 →
    ∃ u, exec (.installHostWindow k e) s = .next u ∧ (∀ x ∈ u.device.windows, x.1 ≠ k) ∧ u.outbox = .accepted :: s.outbox) ∧
  (∀ (k : Nat) (e : BitVec 256) (w : HostWindow) (s : State), servesMgmt s → k < 1024 → windowFields e = some (some w) →
    ∃ u, exec (.installHostWindow k e) s = .next u ∧ (k, w) ∈ u.device.windows ∧ u.outbox = .accepted :: s.outbox) ∧
  (∀ (k : Nat) (e : BitVec 256) (s : State), servesMgmt s → 1024 ≤ k ∨ windowFields e = none →
    exec (.installHostWindow k e) s = .next (repliedWith s .refused)) ∧
  (∀ (g r : Nat) (qs : List RegionId) (s : State), servesMgmt s → 1 ≤ g → g ≤ 255 → r < qs.length → qs.length ≤ 1024 →
    ∃ u, exec (.installPeerGroup g r qs) s = .next u ∧ u.device.peers.find? (fun p => p.1 == g) = some (g, r, qs) ∧
      u.outbox = .accepted :: s.outbox ∧ u.core = s.core) ∧
  (∀ s : State, s.device.phase ≠ .powerOn → exec .readTelemetry s =
    .next (repliedWith s (.telemetry s.device.telemetry s.device.ports.toList s.device.failures))) ∧
  (∀ (m : Word) (s : State) (r : Region), servesMgmt s → s.region? 1 = some r →
    ((s.coreAt r.supervisor).pending.hostmsg.length < 16 → ∃ u, exec (.hostmsg m) s = .next u ∧
      (u.coreAt r.supervisor).pending.hostmsg = (s.coreAt r.supervisor).pending.hostmsg ++ [m] ∧ u.outbox = .accepted :: s.outbox) ∧
    (16 ≤ (s.coreAt r.supervisor).pending.hostmsg.length → exec (.hostmsg m) s = .next (repliedWith s .refused))) ∧
  (∀ (c : Nat) (key : List Byte) (s : State), servesMgmt s →
    (c < 8 → ∃ u, exec (.transportKeyInstall c key) s = .next u ∧ (c, key) ∈ u.device.transportKeys ∧ u.outbox = .accepted :: s.outbox) ∧
    (8 ≤ c → exec (.transportKeyInstall c key) s = .next (repliedWith s .refused))) ∧
  (∀ (g r : Nat) (s : State), (∃ p ∈ s.device.peers, p.1 = g ∧ r < p.2.2.length ∧ p.2.1 ≠ r) → (∀ i ∈ s.instances, i.key.1 ≠ g) →
    ∃ u, exec (.peerUnreachable g r) s = .next u ∧ (g, r) ∈ u.device.lostPeers ∧ u.core = s.core ∧ u.mem = s.mem ∧ u.cmds = s.cmds) ∧
  (∀ (k : Nat) (e : BitVec 256) (m : Word) (s : State), s.device.phase = .safe →
    exec (.installHostWindow k e) s = .next (repliedWith s .refused) ∧ exec (.hostmsg m) s = .next (repliedWith s .refused))

/-- Starts end in running or safe mode; keys are installed and removed under the manufacturer's signature; attestation answers
with log and nonce; clocks change only when they may, and stop and go on by the temperatures; a lost die link tells the region's supervisor. (R424, R427, R429, R431,
R433, R434, R435) -/
def Obligations.DeviceEvents : Prop :=
  (∀ s : State, ∃ u, exec .coldStart s = .next u ∧ u.device.phase ≠ .powerOn ∧ u.device.keys = s.device.keys ∧
    (u.device.phase = .safe → u.regions = [] ∧ 3 ≤ u.device.failures) ∧ (u.device.phase = .running → u.device.failures = 0 ∧ u.regions ≠ [])) ∧
  (∀ s : State, servesMgmt s → ∃ u, exec .warmStartRequest s = .next u ∧ u.device.phase ≠ .powerOn ∧ u.device.keys = s.device.keys) ∧
  (∀ s : State, servesMgmt s → s.device.calibration = none → exec .warmStartRequest s = exec .coldStart s) ∧
  (∀ (c : Calibration) (now : List Nat), c.fits now = true →
    c.crc = crc32c (c.training ++ c.readings.flatMap (leBytes 2)) ∧ c.readings.length = now.length ∧
    ∀ k a b : Nat, c.readings[k]? = some a → now[k]? = some b → a ≤ b + 10 ∧ b ≤ a + 10) ∧
  (∀ (k : Nat) (pub sig : List Byte) (s : State), servesMgmt s → 1 ≤ k → k ≤ 15 → pub.length = 64 →
    (Config.slhDsaVerify Config.manufacturerKey (Config.installMessage k pub) sig = true →
      ∃ u, exec (.keyInstall k pub sig) s = .next u ∧ (k, pub) ∈ u.device.keys ∧ u.outbox = .accepted :: s.outbox ∧
        ∀ e ∈ u.verified, e.2.2.2 ≠ k) ∧
    (Config.slhDsaVerify Config.manufacturerKey (Config.installMessage k pub) sig = false →
      exec (.keyInstall k pub sig) s = .next (repliedWith s .refused))) ∧
  (∀ (k : Nat) (key id sig : List Byte) (s : State), servesMgmt s → 1 ≤ k → k ≤ 15 → (k, key) ∈ s.device.keys → keyId key = id →
    Config.slhDsaVerify Config.manufacturerKey (Config.removalMessage k id) sig = true →
    ∃ u, exec (.keyRemoval k id sig) s = .next u ∧ (∀ e ∈ u.device.keys, e.1 ≠ k) ∧ (∀ e ∈ u.verified, e.2.2.2 ≠ k) ∧
      u.outbox = .accepted :: s.outbox) ∧
  (∀ (nonce : List Byte) (s : State), s.device.phase ≠ .powerOn →
    (nonce.length = 32 → ∃ sig, exec (.attestationRequest nonce) s =
      .next (repliedWith s (.attestation s.device.log s.device.running nonce sig))) ∧
    (nonce.length ≠ 32 → exec (.attestationRequest nonce) s = .next (repliedWith s .refused))) ∧
  (∀ (k : Nat) (bs : List Byte) (s : State),
    (s.device.phase = .safe → ∃ u, exec (.firmwareReplace k bs) s = .next u ∧ (k, bs) ∈ u.device.firmware ∧ u.outbox = .accepted :: s.outbox) ∧
    (s.device.phase = .running → exec (.firmwareReplace k bs) s = .next (repliedWith s .refused))) ∧
  (∀ (die p : Nat) (s : State), die < 64 → p = 12 ∨ p = 15 ∨ p = 20 → s.dieBetween die = true → p = 12 ∨ s.heldFast die = false →
    ∃ u, exec (.clockChange die p) s = .next u ∧ u.core = s.core ∧ u.device.dies.find? (fun d => d.id == die) =
      some { (s.device.dies.find? (fun d => d.id == die)).getD ⟨die, 12, 0, false⟩ with period := p }) ∧
  (∀ (die p : Nat) (s : State), p ≠ 12 → s.heldFast die = true →
    exec (.clockChange die p) s = .refused (.notEnabled "CLOCK_CHANGE")) ∧
  (∀ (die : Nat) (s : State), s.device.phase = .running →
    ((∃ d ∈ s.device.dies, d.id = die ∧ d.stopped = false ∧ 115 ≤ d.temp) →
      ∃ u d, exec (.thermalClockStop die) s = .next u ∧ u.device.dies.find? (fun d => d.id == die) = some d ∧ d.stopped = true ∧
        Telemetry.clockStop die ∈ u.device.telemetry) ∧
    ((∀ d ∈ s.device.dies, d.id = die → d.temp < 115) →
      exec (.thermalClockStop die) s = .refused (.notEnabled "THERMAL_CLOCK_STOP"))) ∧
  (∀ (die : Nat) (s : State) (d : Die), s.device.phase = .running → s.device.dies.find? (fun d => d.id == die) = some d →
    d.stopped = true → d.temp < 105 →
    ∃ u, exec (.thermalClockResume die) s = .next u ∧ u.device.dies.find? (fun d => d.id == die) = some { d with stopped := false }) ∧
  (∀ (die : Nat) (s : State), (∀ d ∈ s.device.dies, d.id = die → 105 ≤ d.temp) →
    exec (.thermalClockResume die) s = .refused (.notEnabled "THERMAL_CLOCK_RESUME")) ∧
  (∀ (p : Nat) (s : State) (r : Region) (l : Launch), s.placedOn p = some (r, l) → l.state = .running → r.state = .live →
    r.running?.isSome = true → r ∈ s.regions →
    ∃ u, exec (.dieLinkLoss p) s = .next u ∧ (∃ rs, Telemetry.hardwareFault (.linkLoss p) r.fdom rs ∈ u.device.telemetry ∧ r.id ∈ rs) ∧
      (true, 0) ∈ (u.coreAt r.supervisor).pending.trees)

/-! ## Frames, steps, encodings, reset -/

/-- Every register but the destination (and a popped stream register), every flag, control and special register, tag, counter
and mark, and every byte of memory, is as before; g0 stays. (R69, R138, R139, R140) -/
def Obligations.ScalarFrame : Prop :=
  ∀ (i : Instr) (srcs : List (BitVec 5)) (d : BitVec 5) (s t u : State) (xs : List Word),
    scalarForm i srcs d → gsIn s srcs = some (xs, t) → (∀ x l, (gOut t d x l).isSome = true) → exec i s = .next u →
    restStays s u ∧ u.core.g[0] = s.core.g[0] ∧
    (∀ j : Fin 32, j.val ≠ d.toNat → (BitVec.ofNat 5 j.val ∈ srcs → s.core.gstream (BitVec.ofNat 5 j.val) = none) →
      u.core.g[j] = s.core.g[j])

/-- A part of StepRunsTheDecodedInstruction. -/
def Sys2Proof.Says.decodedIssue : Prop :=
  (∀ (s u : State) (p t n w len : Nat) (i : Instr), issues s u p t n → u.core.suit.act = false → wordAt u w len → ¬ stale u len →
    decodeWord w = some i →
    step s = match exec i u with | .refused (.notEnabled _) => .next u | .next v => .next (cycleEnd u v) | o => o) ∧
  (∀ (s u : State) (p t n w len : Nat), issues s u p t n → u.core.suit.act = false → wordAt u w len → ¬ stale u len →
    decodeWord w = none → step s = .next (cycleEnd u (u.takeTrap false 1 (BitVec.ofNat 64 w) 0)))

/-- A part of StepRunsTheDecodedInstruction. -/
def Sys2Proof.Says.otherFetches : Prop :=
  (∀ (s u : State) (p t n : Nat), issues s u p t n → u.core.suit.act = false →
    0x20000 < u.core.pc.toNat + (if 0x20000 < u.core.pc.toNat + 2 ∨ firstHalf u % 2 = 0 then 2 else 4) →
    step s = .next (cycleEnd u (u.takeTrap false 4 u.core.pc 0))) ∧
  (∀ (s u : State) (p t n w len : Nat), issues s u p t n → u.core.suit.act = false → wordAt u w len → stale u len →
    step s = .next (cycleEnd u (u.takeTrap false 8 (BitVec.ofNat 64 (6 + 256 * u.core.suit.spos.toNat)) 0))) ∧
  (∀ (s u : State) (p t n : Nat), issues s u p t n → u.core.suit.act = false → torn u →
    ∃ z, step s = .next z ∧ z.core.half = some (BitVec.ofNat 16 (firstHalf u)) ∧ z.core.pc = u.core.pc ∧ z.core.g = u.core.g ∧
      ∀ q, z.getByte q = u.getByte q)

/-- When a step is the issue of a core outside a suit, it is exec of the instruction that the word at the PC decodes to; a
word that decodes to nothing raises ILLEGAL with XVAL = the word, one that leaves local memory WINDOW, and one that was written
after a timed core had fetched it TIMESLIP 6. A word at an address 2 mod 4 may be read in two accesses, the second after writes of
the same cycle (the model chooses by a free value: log 24). (R47, R48, R49, R60, R61, R91) -/
def Obligations.StepRunsTheDecodedInstruction : Prop :=
  decodedIssue ∧ otherFetches

/-- Every follower at position k receives the leader's instruction k cycles later and issues it with the leader's next PC.
(R24, R25, R26) -/
def Obligations.SuitsIssueTogether : Prop :=
  (∀ (s u v : State) (p t n w len : Nat) (i : Instr) (q : Nat),
    issues s u p t n → u.core.suit.act = true → u.core.suit.spos = 0 → wordAt u w len → ¬ stale u len → decodeWord w = some i →
    exec i u = .next v → v.core.pc ≠ u.core.pc → q ∈ u.suitMembers u.core.pos → q ≠ v.core.pos → v.core.pos = u.core.pos →
    (v.coreAt q).suit.act = true →
    ∃ z, step s = .next z ∧ z.core = (cycleEnd u v).core ∧
      (z.coreAt q).follow = (v.coreAt q).follow ++
        [⟨u.now + (v.coreAt q).suit.spos.toNat * u.period q + u.heldFor v, u.core.pc, BitVec.ofNat 32 w, len, v.core.pc⟩]) ∧
  (∀ (s u v : State) (p t n : Nat) (i : Instr) (c : Queued) (rest : List Queued),
    issues s u p t n → u.core.suit.act = true → u.core.suit.spos ≠ 0 → u.core.follow = c :: rest → decodeWord c.word.toNat = some i →
    exec i { u with core := { u.core with pc := c.pc, lead := some c.next, follow := rest } } = .next v → v.core.suit.act = true →
    (∀ m ∈ u.suitMembers u.core.pos, (v.coreAt m).readyAt = (u.coreAt m).readyAt ∨ m = u.core.pos) → v.core.follow = rest →
    step s = .next (cycleEnd u { v with core := { v.core with lead := none } }))

/-- If memory is in canonical form (addresses strictly rising, no entry equal to what an unlisted address reads as) and a step
answers a next state, memory is in canonical form there. The form is the model's own representation of the memory that the
rules describe. (R396, R407, R152) -/
def Obligations.StepKeepsTheMemoryForm : Prop :=
  ∀ s t : State, s.memWf → step s = .next t → t.memWf

/-- Power-on, no region, no running core, CTIME 0, CRB 16 and the other control registers of R21; memory in canonical form;
the zeros of registers and memory that the spec gives no reset value are the model's choice (log entries 1 to 4). (R13, R21,
R424) -/
def Obligations.ResetState : Prop :=
  State.reset.memWf ∧ State.reset.device.phase = .powerOn ∧ State.reset.regions = [] ∧ State.reset.core.status = .idle ∧
  State.reset.others = [] ∧ State.reset.core.crb = 16 ∧ State.reset.core.csat = 0 ∧ State.reset.core.crnd = 0 ∧
  State.reset.core.timed = false ∧ State.reset.core.inh = false ∧ State.reset.core.suit = ⟨false, 0, 0, 0⟩ ∧
  State.reset.now = 0 ∧ State.reset.core.cwp = 0x1C000 ∧ State.reset.core.xpc = 0 ∧ State.reset.core.xcause = 0 ∧
  State.reset.core.xval = 0 ∧ State.reset.core.xscratch = 0 ∧ State.reset.core.cseg = 0 ∧ State.reset.core.cbatch = 0 ∧
  (∀ i : Fin 32, State.reset.core.g[i] = 0) ∧ (∀ p, State.reset.getByte p = 0) ∧ ∀ p i, (State.reset.coreAt p).g[(i : Fin 32)] = 0

/-- Every well-formed instruction decodes from its encoded bytes to itself, whatever follows; and a word that decodes to an
instruction is that instruction's word, of its length, and the instruction is well formed. (R47, R50, R53, R60, R62) -/
def Obligations.DecodeAndEncodeAgree : Prop :=
  (∀ (i : Instr) (rest : List Byte), i.wf = true → i.isWord = true → decode (leBytes i.bytes i.encode ++ rest) = .ok (i, rest)) ∧
  (∀ (w : Nat) (i : Instr), w < 2 ^ 32 → w % 2 = 1 → decodeWord w = some i → i.encode = w ∧ i.bytes = 4 ∧ i.wf = true) ∧
  (∀ (w : Nat) (i : Instr), w < 2 ^ 16 → w % 2 = 0 → decodeWord w = some i → i.encode = w ∧ i.bytes = 2 ∧ i.wf = true)

/-- The words worked out in the spec, of every family, decode to the instructions that stand beside them; words that it calls
illegal do not decode. (R47, R50, R62, R64, R65) -/
def Obligations.PrintedWords : Prop :=
  (∀ e ∈ ([
      (0x001E0507, .addi 10 0 15), (0x010C5281, .sub 5 5 6), (0x000E5181, .add 3 5 7), (0x0006D9BD, .stD 19 13 0),
      (0x050ED63D, .stD 12 13 0xA1), (0x00084339, .ldB 6 4 1), (0x000C0A2B, .bne 20 0 6), (0xFFFE00B5, .jal 1 (-32)),
      (0x00001037, .jalr 0 1 0), (0x7FD70037, .loop 16 (-21)), (0x80060037, .idle 3), (0xC00E0037, .brk 7),
      (0x00A005FD, .crd 11 0x050), (0x00801C7D, .cwr 24 0x040), (0x12345297, .lih 5 5 0x091A), (0x03011885, .bswap 17 17),
      (0x07171903, .clmul 18 17 11), (0x00064443, .ldm 8 4 3), (0x0232E143, .ldt 2 14 25), (0x01CC42CD, .amoAddRel 5 4 6 7 0),
      (0x101AC04F, .post 12 13 0), (0x182B404F, .waitc 20 21 0), (0x2001D84F, .waitb 16 29 0), (0x3001404F, .suitBar 20),
      (0x3800004F, .suitDis), (0x0A0C51D1, .vadd 3 5 6 10), (0xB1820251, .vmacc 4 0 1 2 1), (0x34128255, .vcmpLe 4 8 9 4),
      (0xA0801459, .vcvt 8 1 2 0 10), (0x0202A4D7, .vsel 9 10 1 2), (0x150010D7, .vmov 1 1 5), (0x050041DB, .vredsum 3 4 5),
      (0x381424DD, .vgather 9 2 10 8), (0x040422E1, .mpop 5 2 2), (0x05026C61, .mfirst 24 6 1),
      (0x01010469, .tmul 0 1 2 16 0), (0x0820D269, .tmul 4 20 1 2 4), (0x21010469, .tmulx 0 1 2 16 0),
      (0x310AD3E9, .tpart 7 20 21 16 0), (0x0000006B, .tzero 0), (0x4000006B, .tfence), (0x000A21ED, .trow 3 2 5),
      (0x00008571, .lfork 10 8 0), (0x0218A5F1, .lput 11 10 12), (0x04008071, .ldrop 8), (0x05C0A871, .linfo 2 10),
      (0x0812A073, .lrebase 0 10 9), (0x10015A73, .lprod 20 21), (0x018A4A75, .cp 20 4 5 6), (0x0A928075, .cpL 0 8 9 10),
      (0x31804075, .cpM 0 4 0 6), (0x000002F7, .seal 5), (0x01006077, .waitn 6), (0x02007077, .pub 7),
      (0x03128077, .armb 8 9), (0x0000457B, .rcreate 10 4), (0x010045FB, .rlaunch 11 4), (0x020A457B, .rrevoke 10 4 5),
      (0x0400407B, .rinval 4), (0x0300007B, .ryield), (0x0500007B, .gbar), (0x0601207B, .tbegin 18), (0x0700007B, .tend),
      (0x0800007B, .eret), (0x0800907B, .eretResume 9), (0x0900007B, .halt), (0x018A4A79, .nred 20 4 5 6),
      (0x1A928079, .nbcast 0 8 9 10), (0x5310, .vaddC 3 5), (0x4484, .bzC 4 4 0), (0x3004, .idleC 0 3), (0x6512, .addC 5 6)] : List (Nat × Instr)), decodeWord e.1 = some e.2) ∧
  ∀ w ∈ ([0x00069443, 0x20000079, 0xFFFFFFFF] : List Nat), decodeWord w = none
end

