-- ==== Sys2Proof/Laws/Lookup.lean ====
section
/-! SUPPORT. Laws of what is found by number: values under keys, cores, groups, regions. -/

namespace Sys2Proof.Machine

/-! ## Lists with keys -/

theorem alookup_ainsert (d : Nat) (xs : List (Nat × Nat)) (a v k : Nat) :
    alookup d (ainsert xs a v) k = if k = a then v else alookup d xs k := by
  induction xs with
  | nil =>
    simp only [ainsert, alookup]
    by_cases h : k = a
    · simp [h]
    · have : ¬ a = k := fun e => h e.symm
      simp [h, this]
  | cons e r ih =>
    obtain ⟨k', w⟩ := e
    simp only [ainsert]
    split
    · rename_i hk
      simp only [alookup, ih]
      by_cases h : k' = k
      · have : ¬ k = a := by omega
        simp [h, this]
      · simp [h]
    · split
      · rename_i h1 h2
        subst h2
        simp only [alookup]
        by_cases h : k' = k
        · simp [h]
        · have : ¬ k = k' := fun e => h e.symm
          simp [h, this]
      · simp only [alookup]
        by_cases h : a = k
        · simp [h]
        · have : ¬ k = a := fun e => h e.symm
          simp [h, this]

theorem mem_ainsert {α : Type} (xs : List (Nat × α)) (a : Nat) (v : α) : (a, v) ∈ ainsert xs a v := by
  induction xs with
  | nil => simp [ainsert]
  | cons e r ih =>
    obtain ⟨k, w⟩ := e
    simp only [ainsert]
    split
    · exact List.mem_cons_of_mem _ ih
    · split <;> exact List.mem_cons_self ..

/-- The element put in is found under its key. -/
theorem find_putBy_same {α : Type} (key : α → Nat) (x : α) (xs : List α) :
    (putBy key x xs).find? (fun y => key y == key x) = some x := by
  induction xs with
  | nil => simp [putBy]
  | cons y r ih =>
    simp only [putBy]
    split
    · rename_i h
      have : (key y == key x) = false := by simp; omega
      rw [List.find?_cons, this]; exact ih
    · split <;> simp

/-- What is found under another key stays. -/
theorem find_putBy_ne {α : Type} (key : α → Nat) (x : α) (xs : List α) {k : Nat} (hk : k ≠ key x) :
    (putBy key x xs).find? (fun y => key y == k) = xs.find? (fun y => key y == k) := by
  have hx : (key x == k) = false := by simp; exact fun e => hk e.symm
  induction xs with
  | nil => simp [putBy, hx]
  | cons y r ih =>
    simp only [putBy]
    split
    · simp only [List.find?_cons, ih]
    · split
      · rename_i h1 h2
        have hy : (key y == k) = false := by rw [h2]; exact hx
        simp [hx, hy]
      · simp [hx]

/-! ## Cores -/

theorem coreAt_pos (s : State) (p : Nat) : (s.coreAt p).pos = p := by
  unfold State.coreAt
  split
  · assumption
  · cases h : s.others.find? (fun c => c.pos == p) with
    | none => rfl
    | some c => have := List.find?_some h; simpa using this

@[simp] theorem coreAt_self (s : State) : s.coreAt s.core.pos = s.core := by simp [State.coreAt]

/-- The core that is changed. -/
theorem coreAt_modCore_same (s : State) (p : Nat) (f : Core → Core) (hf : ∀ c, (f c).pos = c.pos) :
    (s.modCore p f).coreAt p = f (s.coreAt p) := by
  unfold State.modCore
  split
  · rename_i h
    have : (f s.core).pos = p := by rw [hf, h]
    simp [State.coreAt, this, h]
  · rename_i h
    have hp : (f (s.coreAt p)).pos = p := by rw [hf, coreAt_pos]
    have hfind := find_putBy_same Core.pos (f (s.coreAt p)) s.others
    rw [hp] at hfind
    show (if s.core.pos = p then s.core else ((putBy Core.pos (f (s.coreAt p)) s.others).find? (fun c => c.pos == p)).getD (Core.reset p)) = _
    rw [if_neg h, hfind]; rfl

/-- Every other core stays. -/
theorem coreAt_modCore_ne (s : State) (p q : Nat) (f : Core → Core) (hf : ∀ c, (f c).pos = c.pos) (h : q ≠ p) :
    (s.modCore p f).coreAt q = s.coreAt q := by
  unfold State.modCore
  split
  · rename_i hp
    have h1 : ¬ (f s.core).pos = q := by rw [hf, hp]; exact fun e => h e.symm
    have h2 : ¬ s.core.pos = q := by rw [hp]; exact fun e => h e.symm
    simp [State.coreAt, h1, h2]
  · rename_i hp
    have hq : q ≠ (f (s.coreAt p)).pos := by rw [hf, coreAt_pos]; exact h
    have hfind := find_putBy_ne Core.pos (f (s.coreAt p)) s.others hq
    unfold State.coreAt at hfind ⊢
    simp only [hfind]

theorem modCore_mem (s : State) (p : Nat) (f : Core → Core) : (s.modCore p f).mem = s.mem := by
  unfold State.modCore; split <;> rfl

theorem modCore_regions (s : State) (p : Nat) (f : Core → Core) : (s.modCore p f).regions = s.regions := by
  unfold State.modCore; split <;> rfl

theorem modCore_groups (s : State) (p : Nat) (f : Core → Core) : (s.modCore p f).groups = s.groups := by
  unfold State.modCore; split <;> rfl

theorem modCore_cmds (s : State) (p : Nat) (f : Core → Core) : (s.modCore p f).cmds = s.cmds := by
  unfold State.modCore; split <;> rfl

theorem modCore_device (s : State) (p : Nat) (f : Core → Core) : (s.modCore p f).device = s.device := by
  unfold State.modCore; split <;> rfl

theorem modCore_now (s : State) (p : Nat) (f : Core → Core) : (s.modCore p f).now = s.now := by
  unfold State.modCore; split <;> rfl

theorem modCore_memWf {s : State} (h : s.memWf) (p : Nat) (f : Core → Core) : (s.modCore p f).memWf := by
  unfold State.memWf at h ⊢; rw [modCore_mem]; exact h

/-- Turning to a core makes it the current one, and leaves every core as it was. -/
theorem turn_core (s : State) (p : Nat) : (s.turn p).core = s.coreAt p := by
  unfold State.turn
  split
  · rename_i h; simp [State.coreAt, h]
  · rfl

theorem turn_mem (s : State) (p : Nat) : (s.turn p).mem = s.mem := by
  unfold State.turn; split <;> rfl

theorem turn_memWf {s : State} (h : s.memWf) (p : Nat) : (s.turn p).memWf := by
  unfold State.memWf at h ⊢; rw [turn_mem]; exact h

theorem turn_coreAt (s : State) (p q : Nat) : (s.turn p).coreAt q = s.coreAt q := by
  by_cases hp : s.core.pos = p
  · simp [State.turn, hp]
  · by_cases hq : q = p
    · subst hq
      have h := turn_core s q
      have hpos : (s.turn q).core.pos = q := by rw [h, coreAt_pos]
      rw [show (s.turn q).coreAt q = (s.turn q).core by simp [State.coreAt, hpos], h]
    · have hpos : ¬ (s.coreAt p).pos = q := by rw [coreAt_pos]; exact fun e => hq e.symm
      simp only [State.turn, hp, if_false]
      show (if (s.coreAt p).pos = q then s.coreAt p else
        ((putBy Core.pos s.core (s.others.filter (fun c => c.pos != p))).find? (fun c => c.pos == q)).getD (Core.reset q)) = s.coreAt q
      rw [if_neg hpos]
      by_cases hs : q = s.core.pos
      · subst hs
        rw [find_putBy_same]; simp
      · rw [find_putBy_ne Core.pos s.core _ hs]
        have hs' : ¬ s.core.pos = q := fun e => hs e.symm
        unfold State.coreAt
        rw [if_neg hs']
        have : ∀ xs : List Core, (xs.filter (fun c => c.pos != p)).find? (fun c => c.pos == q) = xs.find? (fun c => c.pos == q) := by
          intro xs
          induction xs with
          | nil => rfl
          | cons c r ih =>
            by_cases hc : c.pos = p
            · have h1 : (c.pos != p) = false := by simp [hc]
              have h2 : (c.pos == q) = false := by simp; rw [hc]; exact fun e => hq e.symm
              rw [List.filter_cons, h1, List.find?_cons, h2]; exact ih
            · have h1 : (c.pos != p) = true := by simp [hc]
              rw [List.filter_cons, h1]
              simp only [if_true, List.find?_cons, ih]
        rw [this]

/-! ## Groups and regions -/

theorem groupAt_id (s : State) (g : Nat) : (s.groupAt g).id = g := by
  unfold State.groupAt
  cases h : s.groups.find? (fun x => x.id == g) with
  | none => rfl
  | some x => have := List.find?_some h; simpa using this

theorem groupAt_modGroup_same (s : State) (g : Nat) (f : Group → Group) (hf : ∀ x, (f x).id = x.id) :
    (s.modGroup g f).groupAt g = f (s.groupAt g) := by
  have hid : (f (s.groupAt g)).id = g := by rw [hf, groupAt_id]
  have h := find_putBy_same Group.id (f (s.groupAt g)) s.groups
  rw [hid] at h
  show ((putBy Group.id (f (s.groupAt g)) s.groups).find? (fun x => x.id == g)).getD (Group.reset g) = _
  rw [h]; rfl

theorem groupAt_modGroup_ne (s : State) (g k : Nat) (f : Group → Group) (hf : ∀ x, (f x).id = x.id) (h : k ≠ g) :
    (s.modGroup g f).groupAt k = s.groupAt k := by
  have hid : k ≠ (f (s.groupAt g)).id := by rw [hf, groupAt_id]; exact h
  show ((putBy Group.id (f (s.groupAt g)) s.groups).find? (fun x => x.id == k)).getD (Group.reset k) = _
  rw [find_putBy_ne _ _ _ hid]; rfl

/-- The region that is changed, and every other one. -/
theorem region?_modRegion (s : State) (q k : RegionId) (f : Region → Region) (hf : ∀ r, (f r).id = r.id) :
    (s.modRegion q f).region? k = if k = q then (s.region? k).map f else s.region? k := by
  unfold State.modRegion State.region?
  simp only []
  induction s.regions with
  | nil => simp
  | cons r rs ih =>
    rw [List.map_cons, List.find?_cons, List.find?_cons]
    by_cases hr : r.id = q
    · have h1 : (r.id == q) = true := by simp [hr]
      rw [h1]
      simp only [if_true, hf]
      by_cases hk : k = q
      · have h2 : (r.id == k) = true := by simp [hr, hk]
        rw [h2]; simp [hk]
      · have h2 : (r.id == k) = false := by simp [hr]; exact fun e => hk e.symm
        rw [h2]; simpa [hk] using ih
    · have h1 : (r.id == q) = false := by simp [hr]
      rw [h1]
      simp only [Bool.false_eq_true, if_false]
      by_cases hk : r.id = k
      · have h2 : (r.id == k) = true := by simp [hk]
        have h3 : ¬ k = q := by rw [← hk]; exact hr
        rw [h2]; simp [h3]
      · have h2 : (r.id == k) = false := by simp [hk]
        rw [h2]; exact ih

theorem frame_remapPage (s : State) (p f k : Nat) : (s.remapPage p f).frame k = if k = p then f else s.frame k := by
  show alookup k (ainsert s.remap p f) k = _
  rw [alookup_ainsert]; rfl

theorem version_remapPage (s : State) (p f k : Nat) :
    (s.remapPage p f).version k = if k = p then (s.version p + 1) % 2 ^ 16 else s.version k := by
  show alookup 0 (ainsert s.versions p ((s.version p + 1) % 2 ^ 16)) k = _
  rw [alookup_ainsert]; rfl

end Sys2Proof.Machine
end

