-- ==== Sys2Proof/Laws/Memory.lean ====
section
/-! SUPPORT. Laws of memory: the canonical form is kept by every operation that writes a byte, and what is read after a write. -/

namespace Sys2Proof.Machine

/-! ## The list of bytes -/

theorem Memory.wfFrom_mono {lo lo' : Nat} {m : List Host.Cell} (h : Memory.wfFrom lo m = true) (hl : lo' ≤ lo) :
    Memory.wfFrom lo' m = true := by
  cases m with
  | nil => rfl
  | cons e r =>
    obtain ⟨k, b⟩ := e
    simp only [Memory.wfFrom, Bool.and_eq_true, decide_eq_true_eq] at h ⊢
    exact ⟨⟨by omega, h.1.2⟩, h.2⟩

theorem Memory.get_below {lo a : Nat} {m : List Host.Cell} (h : Memory.wfFrom lo m = true) (ha : a < lo) : Memory.get m a = 0 := by
  cases m with
  | nil => rfl
  | cons e r =>
    obtain ⟨k, b⟩ := e
    simp only [Memory.wfFrom, Bool.and_eq_true, decide_eq_true_eq] at h
    simp only [Memory.get]
    rw [if_neg (by omega), if_neg (by omega)]

/-- Writing keeps the canonical form. -/
theorem Memory.set_wfFrom {m : List Host.Cell} : ∀ {lo a : Nat} (b : Byte), Memory.wfFrom lo m = true → lo ≤ a →
    Memory.wfFrom lo (Memory.set m a b) = true := by
  induction m with
  | nil =>
    intro lo a b _ ha
    simp only [Memory.set]
    split
    · rfl
    · rename_i hb; simp [Memory.wfFrom, ha]; exact hb
  | cons e r ih =>
    obtain ⟨k, c⟩ := e
    intro lo a b h ha
    have h' := h
    simp only [Memory.wfFrom, Bool.and_eq_true, decide_eq_true_eq] at h
    simp only [Memory.set]
    split
    · rename_i hk
      simp only [Memory.wfFrom, Bool.and_eq_true, decide_eq_true_eq]
      exact ⟨h.1, ih b h.2 (by omega)⟩
    · split
      · rename_i hk
        subst hk
        split
        · exact Memory.wfFrom_mono h.2 (by omega)
        · rename_i hb
          simp only [Memory.wfFrom, Bool.and_eq_true, decide_eq_true_eq]
          exact ⟨⟨ha, hb⟩, h.2⟩
      · split
        · exact h'
        · rename_i h1 h2 hb
          simp only [Memory.wfFrom, Bool.and_eq_true, decide_eq_true_eq]
          exact ⟨⟨ha, hb⟩, ⟨by omega, h.1.2⟩, h.2⟩

theorem Memory.set_wf {m : List Host.Cell} (h : Memory.wf m = true) (a : Nat) (b : Byte) : Memory.wf (Memory.set m a b) = true :=
  Memory.set_wfFrom b h (Nat.zero_le a)

/-- What is read after a write: the byte at its place, and every other place as before. -/
theorem Memory.get_set {m : List Host.Cell} : ∀ {lo : Nat} (a : Nat) (b : Byte) (c : Nat), Memory.wfFrom lo m = true →
    Memory.get (Memory.set m a b) c = if c = a then b else Memory.get m c := by
  induction m with
  | nil =>
    intro lo a b c _
    by_cases hb : b = 0
    · simp [Memory.set, Memory.get, hb]
    · simp only [Memory.set, hb, if_false, Memory.get]
      by_cases hc : c = a
      · subst hc; simp
      · have : ¬ a = c := fun h => hc h.symm
        simp [hc, this]
  | cons e r ih =>
    obtain ⟨k, d⟩ := e
    intro lo a b c h
    simp only [Memory.wfFrom, Bool.and_eq_true, decide_eq_true_eq] at h
    simp only [Memory.set]
    by_cases hk : k < a
    · simp only [hk, if_true, Memory.get]
      rw [ih a b c h.2]
      by_cases hc : c = a
      · subst hc; simp [hk]
      · simp only [hc, if_false]
    · simp only [hk, if_false]
      by_cases he : k = a
      · subst he
        by_cases hb : b = 0
        · simp only [hb, if_true, Memory.get]
          by_cases hc : c = k
          · subst hc; simp [Memory.get_below h.2 (Nat.lt_succ_self c)]
          · have hkc : ¬ k = c := fun h => hc h.symm
            simp only [hc, hkc, if_false]
            by_cases hl : k < c
            · simp only [hl, if_true]
            · simp only [hl, if_false]; exact Memory.get_below h.2 (by omega)
        · simp only [hb, if_true, if_false, Memory.get]
          by_cases hc : c = k
          · subst hc; simp
          · have hkc : ¬ k = c := fun h => hc h.symm
            simp only [hc, hkc, if_false]
      · simp only [he, if_false]
        by_cases hb : b = 0
        · simp only [hb, if_true]
          by_cases hc : c = a
          · subst hc
            simp only [if_true, Memory.get, hk, he, if_false]
          · simp only [hc, if_false]
        · simp only [hb, if_false, Memory.get]
          by_cases hc : c = a
          · subst hc; simp
          · have hac : ¬ a = c := fun h => hc h.symm
            simp only [hc, hac, if_false]
            by_cases hl : a < c
            · simp only [hl, if_true]
            · have h1 : ¬ k < c := by omega
              have h2 : ¬ k = c := by omega
              simp only [hl, h1, h2, if_false]

/-- Two memories in canonical form that read alike are equal. -/
theorem Memory.eq_of_get {m : List Host.Cell} : ∀ {n : List Host.Cell} {lo lo' : Nat}, Memory.wfFrom lo m = true → Memory.wfFrom lo' n = true →
    (∀ a, Memory.get m a = Memory.get n a) → m = n := by
  induction m with
  | nil =>
    intro n lo lo' _ hn h
    cases n with
    | nil => rfl
    | cons e r =>
      obtain ⟨k, b⟩ := e
      simp only [Memory.wfFrom, Bool.and_eq_true, decide_eq_true_eq] at hn
      have := h k
      simp [Memory.get] at this
      exact absurd this.symm hn.1.2
  | cons e r ih =>
    obtain ⟨k, b⟩ := e
    intro n lo lo' hm hn h
    simp only [Memory.wfFrom, Bool.and_eq_true, decide_eq_true_eq] at hm
    cases n with
    | nil =>
      have := h k
      simp [Memory.get] at this
      exact absurd this hm.1.2
    | cons e' r' =>
      obtain ⟨k', b'⟩ := e'
      simp only [Memory.wfFrom, Bool.and_eq_true, decide_eq_true_eq] at hn
      have hkk : k = k' := by
        rcases Nat.lt_trichotomy k k' with hl | he | hl
        · have := h k
          have h1 : ¬ k' < k := by omega
          have h2 : ¬ k' = k := by omega
          simp [Memory.get, h1, h2] at this
          exact absurd this hm.1.2
        · exact he
        · have := h k'
          have h1 : ¬ k < k' := by omega
          have h2 : ¬ k = k' := by omega
          simp [Memory.get, h1, h2] at this
          exact absurd this.symm hn.1.2
      subst hkk
      have hb : b = b' := by have := h k; simpa [Memory.get] using this
      subst hb
      have hr : r = r' := by
        refine ih hm.2 hn.2 (fun a => ?_)
        by_cases ha : k < a
        · have := h a; simpa [Memory.get, ha] using this
        · rw [Memory.get_below hm.2 (by omega), Memory.get_below hn.2 (by omega)]
      rw [hr]

theorem zeroBytes_wf (n : Nat) : ∀ {m : List Host.Cell} (p : Nat), Memory.wf m = true → Memory.wf (zeroBytes m p n) = true := by
  induction n with
  | zero => intro m p h; exact h
  | succ n ih => intro m p h; exact ih p (Memory.set_wf h _ _)

theorem get_zeroBytes (n : Nat) : ∀ {m : List Host.Cell} (p c : Nat), Memory.wf m = true →
    Memory.get (zeroBytes m p n) c = if p ≤ c ∧ c < p + n then 0 else Memory.get m c := by
  induction n with
  | zero =>
    intro m p c _
    have : ¬ (p ≤ c ∧ c < p + 0) := by omega
    simp only [zeroBytes, this, if_false]
  | succ n ih =>
    intro m p c h
    rw [zeroBytes, ih p c (Memory.set_wf h _ _), Memory.get_set (lo := 0) _ _ _ h]
    by_cases h1 : p ≤ c ∧ c < p + n
    · have h2 : p ≤ c ∧ c < p + (n + 1) := by omega
      simp only [h1, h2, and_self, if_true]
    · by_cases hc : c = p + n
      · subst hc
        have h2 : p ≤ p + n ∧ p + n < p + (n + 1) := by omega
        simp only [h2, and_self, if_true, ite_self]
      · have h2 : ¬ (p ≤ c ∧ c < p + (n + 1)) := by omega
        simp only [h1, hc, h2, if_false]

/-! ## Pending lines -/

theorem scrubbed_append (l : Nat) (xs ys : List (Nat × Nat)) : scrubbed l (xs ++ ys) = (scrubbed l xs || scrubbed l ys) := by
  induction xs with
  | nil => rfl
  | cons e r ih => obtain ⟨a, n⟩ := e; simp [scrubbed, ih, Bool.or_assoc]

/-- Taking a line out leaves every other line as it was. -/
theorem scrubbed_unscrub (line l : Nat) (xs : List (Nat × Nat)) :
    scrubbed l (unscrub line xs) = (scrubbed l xs && decide (l ≠ line)) := by
  induction xs with
  | nil => rfl
  | cons e r ih =>
    obtain ⟨a, n⟩ := e
    simp only [unscrub]
    split
    · rename_i h
      simp only [scrubbed_append, ih, scrubbed]
      by_cases hl : l = line
      · subst hl
        have e1 : scrubbed l (if a < l then [(a, l - a)] else []) = false := by
          split
          · simp only [scrubbed, Bool.or_false, Bool.and_eq_false_imp, decide_eq_true_eq, decide_eq_false_iff_not]; omega
          · rfl
        have e2 : scrubbed l (if l + 1 < a + n then [(l + 1, a + n - l - 1)] else []) = false := by
          split
          · simp only [scrubbed, Bool.or_false, Bool.and_eq_false_imp, decide_eq_true_eq, decide_eq_false_iff_not]; omega
          · rfl
        simp [e1, e2]
      · have e1 : scrubbed l (if a < line then [(a, line - a)] else []) = (decide (a ≤ l) && decide (l < line)) := by
          by_cases ha : a < line
          · have : a + (line - a) = line := by omega
            simp [ha, scrubbed, this]
          · have : (decide (a ≤ l) && decide (l < line)) = false := by simp; omega
            simp [ha, scrubbed, this]
        have e2 : scrubbed l (if line + 1 < a + n then [(line + 1, a + n - line - 1)] else []) =
            (decide (line < l) && decide (l < a + n)) := by
          by_cases ha : line + 1 < a + n
          · have : line + 1 + (a + n - line - 1) = a + n := by omega
            simp only [ha, if_true, scrubbed, this, Bool.or_false]
            rfl
          · have : (decide (line < l) && decide (l < a + n)) = false := by simp; omega
            simp [ha, scrubbed, this]
        have e3 : ((decide (a ≤ l) && decide (l < line)) || (decide (line < l) && decide (l < a + n))) =
            (decide (a ≤ l) && decide (l < a + n)) := by
          rw [Bool.eq_iff_iff]; simp only [Bool.or_eq_true, Bool.and_eq_true, decide_eq_true_eq]; omega
        have hd : decide (l ≠ line) = true := by simpa using hl
        simp only [e1, e2, hd, Bool.and_true, ← e3]
    · rename_i h
      simp only [scrubbed, ih]
      by_cases hl : l = line
      · subst hl
        have : (decide (a ≤ l) && decide (l < a + n)) = false := by
          rw [Bool.eq_false_iff]; simp; omega
        simp [this]
      · have hd : decide (l ≠ line) = true := by simpa using hl
        simp [hd]

/-- Cleaning a line changes no byte that is read. -/
theorem getByte_cleanLine {s : State} (h : s.memWf) (line p : Nat) : (s.cleanLine line).getByte p = s.getByte p := by
  unfold State.cleanLine
  split
  · rename_i hs
    simp only [State.getByte, scrubbed_unscrub, get_zeroBytes _ _ _ h]
    by_cases hl : p / 64 = line
    · subst hl
      have : p / 64 * 64 ≤ p ∧ p < p / 64 * 64 + 64 := by omega
      simp [hs, this]
    · have : ¬ (line * 64 ≤ p ∧ p < line * 64 + 64) := by omega
      have hd : decide (p / 64 ≠ line) = true := by simpa using hl
      simp only [hd, Bool.and_true, this, if_false]
  · rfl

theorem cleanLine_memWf {s : State} (h : s.memWf) (line : Nat) : (s.cleanLine line).memWf := by
  have hz := zeroBytes_wf 64 (line * 64) h
  unfold State.memWf State.cleanLine
  split
  · dsimp only; exact hz
  · exact h

theorem cleanLine_scrub (s : State) (line : Nat) : scrubbed line (s.cleanLine line).scrub = false := by
  unfold State.cleanLine
  split
  · simp [scrubbed_unscrub]
  · rename_i h; simpa using h

/-! ## Bytes of the state -/

theorem setByte_memWf {s : State} (h : s.memWf) (p : Nat) (b : Byte) : (s.setByte p b).memWf :=
  Memory.set_wf (cleanLine_memWf h _) _ _

/-- What is read after a byte is written: that byte at its place, every other byte as before. -/
theorem getByte_setByte {s : State} (h : s.memWf) (p : Nat) (b : Byte) (q : Nat) :
    (s.setByte p b).getByte q = if q = p then b else s.getByte q := by
  have hc := getByte_cleanLine h (p / 64) q
  have hw : Memory.wfFrom 0 (s.cleanLine (p / 64)).mem = true := cleanLine_memWf h _
  by_cases hq : q = p
  · subst hq
    have hs := cleanLine_scrub s (q / 64)
    simp only [State.setByte, State.getByte, hs, if_true, Bool.false_eq_true, if_false]
    rw [Memory.get_set _ _ _ hw]; simp
  · simp only [hq, if_false, ← hc]
    simp only [State.setByte, State.getByte]
    rw [Memory.get_set _ _ _ hw]; simp [hq]

theorem setBytes_memWf {bs : List Byte} : ∀ {s : State} (p : Nat), s.memWf → (s.setBytes p bs).memWf := by
  induction bs with
  | nil => intro s p h; exact h
  | cons b bs ih => intro s p h; exact ih (p + 1) (setByte_memWf h p b)

theorem setNat_memWf {s : State} (h : s.memWf) (p n v : Nat) : (s.setNat p n v).memWf := setBytes_memWf p h

/-- What is read after bytes are written: those bytes, and every byte outside them as before. -/
theorem getByte_setBytes {bs : List Byte} : ∀ {s : State} (p q : Nat), s.memWf →
    (s.setBytes p bs).getByte q = if p ≤ q then (bs[q - p]?).getD (s.getByte q) else s.getByte q := by
  induction bs with
  | nil => intro s p q _; simp [State.setBytes]
  | cons b bs ih =>
    intro s p q h
    rw [State.setBytes, ih (p + 1) q (setByte_memWf h p b), getByte_setByte h]
    by_cases hq : q = p
    · subst hq
      have : ¬ q + 1 ≤ q := by omega
      simp [this]
    · by_cases hl : p ≤ q
      · have h1 : p + 1 ≤ q := by omega
        have h2 : q - p = (q - (p + 1)) + 1 := by omega
        simp only [hl, h1, hq, if_true, if_false, h2, List.getElem?_cons_succ]
      · have h1 : ¬ p + 1 ≤ q := by omega
        simp only [hl, h1, hq, if_false]

theorem getByte_setBytes_outside {s : State} (h : s.memWf) (p q : Nat) (bs : List Byte) (ho : q < p ∨ p + bs.length ≤ q) :
    (s.setBytes p bs).getByte q = s.getByte q := by
  rw [getByte_setBytes p q h]
  split
  · rw [List.getElem?_eq_none (by omega)]; rfl
  · rfl

theorem getBytes_length (s : State) (p n : Nat) : (s.getBytes p n).length = n := by simp [State.getBytes]

theorem getBytes_setBytes {s : State} (h : s.memWf) (p : Nat) (bs : List Byte) : (s.setBytes p bs).getBytes p bs.length = bs := by
  apply List.ext_getElem
  · simp [State.getBytes]
  · intro i h1 h2
    simp only [State.getBytes, List.getElem_map, List.getElem_range, getByte_setBytes p (p + i) h]
    simp [h2]

theorem memWf_poison {s : State} {p : List Nat} (h : s.memWf) : State.memWf { s with poison := p } := h

theorem copyFrame_memWf {s : State} (h : s.memWf) (a b : Nat) : (s.copyFrame a b).memWf :=
  memWf_poison (setBytes_memWf (framePlace b 0) h)

theorem storeBy_memWf {s : State} (h : s.memWf) (b : Bool) (p : Nat) (bs : List Byte) : (s.storeBy b p bs).memWf := by
  have h1 : ((s.setBytes p bs).healed p bs.length).memWf := setBytes_memWf (bs := bs) p h
  unfold State.storeBy
  simp only []
  split
  · unfold State.modCore
    split
    · exact h1
    · exact h1
  · exact h1

theorem store_memWf {s : State} (h : s.memWf) (p : Nat) (bs : List Byte) : (s.store p bs).memWf := storeBy_memWf h false p bs

theorem poisonGranule_memWf {s : State} (h : s.memWf) (p : Nat) : (s.poisonGranule p).memWf := by
  unfold State.poisonGranule
  split <;> exact h

theorem foldPoison_memWf {g : Nat → Nat} (l : List Nat) : ∀ {s : State}, s.memWf →
    (l.foldl (fun u i => u.poisonGranule (g i)) s).memWf := by
  induction l with
  | nil => intro s h; exact h
  | cons i l ih => intro s h; exact ih (poisonGranule_memWf h (g i))

theorem record_memWf {s : State} (h : s.memWf) (t : Telemetry) : (s.record t).memWf := h

theorem withDevice_memWf {s : State} (h : s.memWf) (d : Device) : State.memWf { s with device := d } := h

theorem layInto_memWf {s : State} (h : s.memWf) (page dst : Nat) (r : Except Nat (List Byte)) : (s.layInto page dst r).memWf := by
  unfold State.layInto
  cases r with
  | ok bs => exact memWf_poison (setBytes_memWf (bs := bs) (framePlace dst 0) h)
  | error c =>
    exact record_memWf (foldPoison_memWf (g := fun i => framePlace dst (64 * i)) (List.range 1024) h) _

theorem promoteAs_memWf {s t : State} (h : s.memWf) {page : Nat} {r : Except Nat (List Byte)} (hp : s.promoteAs page r = some t) :
    t.memWf := by
  unfold State.promoteAs at hp
  split at hp
  · cases hp
  · cases hp
    exact layInto_memWf (withDevice_memWf h _) page _ r

theorem opened_memWf {s : State} (h : s.memWf) (page : Nat) : (s.opened page).memWf := by
  unfold State.opened
  split
  · simp only []
    generalize ht : (if s.device.freeHbm.isEmpty then
        { s with nextFrame := s.nextFrame + 1, device := { s.device with freeHbm := [s.nextFrame] } } else s) = t
    have hw : t.memWf := by rw [← ht]; split <;> exact h
    cases hp : t.promotePage page with
    | none => exact hw
    | some u => exact promoteAs_memWf hw hp
  · exact h

theorem writePhys_memWf {s : State} (h : s.memWf) (pa : Nat) (b : Byte) : (s.writePhys pa b).memWf := by
  unfold State.writePhys
  split
  · exact h
  · exact setByte_memWf (opened_memWf h _) _ b

theorem poke_memWf {q : RegionId} {bs : List Byte} : ∀ {s : State} (v : Nat), s.memWf → (s.poke q v bs).memWf := by
  induction bs with
  | nil => intro s v h; exact h
  | cons b bs ih =>
    intro s v h
    unfold State.poke
    simp only []
    split
    · exact ih _ (writePhys_memWf h _ b)
    · exact ih _ h

theorem reset_memWf : State.reset.memWf := rfl

theorem cleanLine_core (s : State) (line : Nat) : (s.cleanLine line).core = s.core := by
  unfold State.cleanLine; split <;> rfl

theorem setByte_core (s : State) (p : Nat) (b : Byte) : (s.setByte p b).core = s.core := cleanLine_core s _

theorem setBytes_core {bs : List Byte} : ∀ {s : State} (p : Nat), (s.setBytes p bs).core = s.core := by
  induction bs with
  | nil => intro s p; rfl
  | cons b bs ih => intro s p; rw [State.setBytes, ih, setByte_core]

end Sys2Proof.Machine
end

