-- ==== Sys2Proof/Laws/Keeps.lean ====
section
/-! SUPPORT. Which parts of a meaning keep the memory's canonical form, whatever they answer: the sequence of such parts is one,
and an instruction whose body is one goes on to a state in that form wherever it does not stop. -/

namespace Sys2Proof.Laws

open Sys2Proof Sys2Proof.Machine

/-- The state that a part of a meaning leaves. -/
def left {α : Type} : EStateM.Result Stop State α → State
  | .ok _ t => t
  | .error _ t => t

/-- It keeps the canonical form. -/
def Keeps {α : Type} (x : M α) : Prop := ∀ s : State, s.memWf → (left (x s)).memWf

theorem keeps_pure {α : Type} (a : α) : Keeps (pure a : M α) := fun _ h => h

theorem keeps_throw {α : Type} (e : Stop) : Keeps (throw e : M α) := fun _ h => h

theorem keeps_get : Keeps (get : M State) := fun _ h => h

theorem keeps_bind {α β : Type} {x : M α} {f : α → M β} (hx : Keeps x) (hf : ∀ a, Keeps (f a)) : Keeps (x >>= f) := by
  intro s h
  have h1 := hx s h
  show (left (EStateM.bind x f s)).memWf
  unfold EStateM.bind
  cases hr : x s with
  | ok a t => rw [hr] at h1; exact hf a t h1
  | error e t => rw [hr] at h1; exact h1

/-- After the state has been read, the rest may use that it is in canonical form. -/
theorem keeps_get_bind {β : Type} {f : State → M β} (hf : ∀ s : State, s.memWf → (left (f s s)).memWf) : Keeps ((get : M State) >>= f) :=
  fun s h => hf s h

theorem keeps_ite {α : Type} {p : Prop} [Decidable p] {x y : M α} (hx : Keeps x) (hy : Keeps y) : Keeps (if p then x else y) := by
  split
  · exact hx
  · exact hy

theorem keeps_modify {f : State → State} (hf : ∀ s : State, s.memWf → (f s).memWf) : Keeps (modify f : M Unit) := fun s h => hf s h

theorem keeps_modC (f : Core → Core) : Keeps (modC f) := fun _ h => h

theorem keeps_fresh : Keeps fresh := fun _ h => h

theorem keeps_raise {α : Type} (c : Nat) (x : Word) : Keeps (raise c x : M α) := fun _ h => h

theorem keeps_check (b : Bool) (c : Nat) (x : Word) : Keeps (check b c x) := by
  unfold check
  exact keeps_ite (keeps_pure ()) (keeps_raise c x)

theorem keeps_raiseFlags (f : BitVec 8) (l : Nat) : Keeps (raiseFlags f l) := by
  unfold raiseFlags
  exact keeps_bind keeps_get (fun _ => keeps_ite (keeps_pure ()) (keeps_modC _))

theorem keeps_popStream (r : Nat) (v : Bool) (t : Stream) : Keeps (popStream r v t) := by
  unfold popStream raiseStream
  refine keeps_ite (keeps_raise _ _) (keeps_ite (keeps_raise _ _) ?_)
  split
  · exact keeps_pure _
  · split
    · exact keeps_throw _
    · exact keeps_throw _

theorem keeps_appendStream (r : Nat) (v : Bool) (t : Stream) (x l : Nat) : Keeps (appendStream r v t x l) := by
  unfold appendStream raiseStream
  refine keeps_ite (keeps_raise _ _) (keeps_ite (keeps_raise _ _) ?_)
  split
  · exact keeps_throw _
  · exact keeps_ite (keeps_throw _) (keeps_pure _)

theorem keeps_readG (i : BitVec 5) : Keeps (readG i) := by
  unfold readG
  refine keeps_bind keeps_get (fun s => keeps_ite (keeps_pure _) ?_)
  split
  · exact keeps_ite (keeps_throw _) (keeps_bind (keeps_popStream _ _ _) (fun _ => keeps_bind (keeps_modC _) (fun _ => keeps_pure _)))
  · exact keeps_ite (keeps_bind keeps_fresh (fun _ => keeps_pure _)) (keeps_pure _)

theorem keeps_writeG (i : BitVec 5) (x : Word) (l : Nat) : Keeps (writeG i x l) := by
  unfold writeG
  refine keeps_bind keeps_get (fun s => keeps_ite (keeps_pure _) ?_)
  split
  · exact keeps_bind (keeps_appendStream _ _ _ _ _) (fun _ => keeps_modC _)
  · exact keeps_modC _

theorem keeps_readV (i : BitVec 4) : Keeps (readV i) := by
  unfold readV
  refine keeps_bind keeps_get (fun s => ?_)
  split
  · exact keeps_bind (keeps_popStream _ _ _) (fun _ => keeps_bind (keeps_modC _) (fun _ => keeps_pure _))
  · exact keeps_ite (keeps_bind keeps_fresh (fun _ => keeps_pure _)) (keeps_pure _)

theorem keeps_readM (i : BitVec 3) : Keeps (readM i) := by
  unfold readM
  exact keeps_bind keeps_get (fun _ => keeps_ite (keeps_bind keeps_fresh (fun _ => keeps_pure _)) (keeps_pure _))

theorem keeps_writeM (i : BitVec 3) (x : Word) (l : Nat) : Keeps (writeM i x l) := by
  unfold writeM
  exact keeps_bind keeps_get (fun _ => keeps_ite (keeps_pure _) (keeps_modC _))

theorem keeps_readT (i : BitVec 3) : Keeps (readT i) := by
  unfold readT
  exact keeps_bind keeps_get (fun _ => keeps_ite (keeps_throw _) (keeps_ite (keeps_bind keeps_fresh (fun _ => keeps_pure _)) (keeps_pure _)))

theorem keeps_readRow (i : BitVec 3) (r : Nat) : Keeps (readRow i r) := by
  unfold readRow
  exact keeps_bind keeps_get (fun _ => keeps_ite (keeps_throw _) (keeps_ite (keeps_bind keeps_fresh (fun _ => keeps_pure _)) (keeps_pure _)))

theorem keeps_writeT (i : BitVec 3) (x : TWord) (g : Tag) (l : Nat) : Keeps (writeT i x g l) := by
  unfold writeT
  exact keeps_bind keeps_get (fun _ => keeps_ite (keeps_throw _) (keeps_modC _))

/-- An instruction whose body keeps the form goes on to a state in it, wherever its body answers. -/
theorem issue_memWf {n : Nat} {body : M Unit} (hb : Keeps body) {s t : State} (h : s.memWf) (ho : body s = .ok () t) :
    (t.advance n).memWf := by
  have := hb s h
  rw [ho] at this
  exact this

theorem issueTo_memWf {body : M Word} (hb : Keeps body) {s t : State} {x : Word} (h : s.memWf) (ho : body s = .ok x t) :
    (t.jump x).memWf := by
  have := hb s h
  rw [ho] at this
  exact this

end Sys2Proof.Laws
end

