-- ==== Sys2Proof/Laws/Operands.lean ====
section
/-! SUPPORT. What the shared operations on operands do: from what a statement says of a source or a destination to what the
operation of a meaning answers. -/

namespace Sys2Proof.Laws

open Sys2Proof Sys2Proof.Machine Sys2Proof.Says

/-! ## Meanings as sequences -/

theorem bind_def (x : M α) (f : α → M β) (s : State) :
    (x >>= f) s = match x s with | .ok a t => f a t | .error e t => .error e t := by
  simp only [bind, EStateM.bind]
  cases x s <;> rfl

theorem bind_ok {x : M α} {s t : State} {a : α} (h : x s = .ok a t) (f : α → M β) : (x >>= f) s = f a t := by
  rw [bind_def, h]

theorem get_bind (f : State → M β) (s : State) : ((get : M State) >>= f) s = f s s := rfl

theorem readG_of {s t : State} {i : BitVec 5} {x : Word} (h : gIn s i = some (x, t)) : readG i s = .ok x t := by
  unfold gIn at h
  unfold readG
  rw [get_bind]
  split at h
  · rename_i h0
    simp only [h0, if_true]
    simp only [Option.some.injEq, Prod.mk.injEq] at h
    obtain ⟨rfl, rfl⟩ := h; rfl
  · rename_i h0
    simp only [h0, if_false]
    cases hs : s.core.gstream i with
    | some st =>
      simp only [hs] at h
      unfold gPop at h
      split at h
      · cases h
      · rename_i hc
        simp only [not_or, not_and] at hc
        obtain ⟨h1, h2, h3⟩ := hc
        have hm : (decide (i = 31) && s.metaBusy) = false := by
          by_cases hi : i = 31
          · rw [Bool.eq_false_iff]; intro hb; rw [Bool.and_eq_true] at hb; exact h3 hi hb.2
          · rw [decide_eq_false hi]; rfl
        cases hq : st.queue with
        | nil => simp [hq] at h
        | cons y r =>
          simp only [hq, Option.some.injEq, Prod.mk.injEq] at h
          obtain ⟨rfl, rfl⟩ := h
          have hw : st.isWrite = false := by simp [Stream.isWrite]; omega
          have hn : ¬ st.count ≤ st.next := h2
          simp only [hm, popStream, hw, hn, hq, Bool.false_eq_true, if_false]
          rfl
    | none =>
      simp only [hs] at h
      split at h
      · rename_i hw
        simp only [Option.some.injEq, Prod.mk.injEq] at h
        obtain ⟨rfl, rfl⟩ := h
        simp only [hw, if_true]; rfl
      · rename_i hw
        simp only [Option.some.injEq, Prod.mk.injEq] at h
        obtain ⟨rfl, rfl⟩ := h
        simp only [hw, Core.rawG, h0, if_false, Bool.false_eq_true]
        rfl

theorem writeG_of {s t : State} {i : BitVec 5} {x : Word} {l : Nat} (h : gOut s i x l = some t) : writeG i x l s = .ok () t := by
  unfold gOut at h
  unfold writeG
  rw [get_bind]
  split at h
  · rename_i h0
    simp only [h0, if_true]
    cases h; rfl
  · rename_i h0
    simp only [h0, if_false]
    cases hs : s.core.gstream i with
    | some st =>
      simp only [hs] at h
      split at h
      · cases h
      · rename_i hc
        simp only [not_or] at hc
        obtain ⟨h1, h2, h3, h4⟩ := hc
        cases h
        have hw : st.isWrite = true := by simp [Stream.isWrite]; omega
        have hn : ¬ st.count ≤ st.next := h2
        have hf : st.failed = none := by simpa using h3
        have hd : ¬ streamDepth false ≤ st.queue.length + st.landing.length := h4
        simp only [bind_def, appendStream, hw, hn, hf, hd]
        rfl
    | none =>
      simp only [hs] at h
      cases h
      have hp : s.core.putG i x = { s.core with g := s.core.g.set i.toNat x } := by simp only [Core.putG, h0, if_false]
      simp only [modC, modify, modifyGet, MonadStateOf.modifyGet, EStateM.modifyGet, hp]

theorem issue_ok {n : Nat} {body : M Unit} {s u : State} (h : body s = .ok () u) : issue n body s = .next (went u n) := by
  simp [issue, h, went, State.advance]

theorem gsIn1 {s t : State} {a : BitVec 5} {x : Word} (h : gsIn s [a] = some ([x], t)) : gIn s a = some (x, t) := by
  simp only [gsIn] at h
  cases h1 : gIn s a with
  | none => simp [h1] at h
  | some p => obtain ⟨y, u⟩ := p; simp [h1] at h; obtain ⟨rfl, rfl⟩ := h; rfl

theorem gsIn2 {s t : State} {a b : BitVec 5} {x y : Word} (h : gsIn s [a, b] = some ([x, y], t)) :
    ∃ u, gIn s a = some (x, u) ∧ gIn u b = some (y, t) := by
  simp only [gsIn] at h
  cases h1 : gIn s a with
  | none => simp [h1] at h
  | some p =>
    obtain ⟨x', u⟩ := p
    cases h2 : gIn u b with
    | none => simp [h1, h2] at h
    | some q => obtain ⟨y', w⟩ := q; simp [h1, h2] at h; obtain ⟨⟨rfl, rfl⟩, rfl⟩ := h; exact ⟨u, rfl, h2⟩

theorem scalar2_of {l : Nat} {f : Word → Word → Word} {d a b : BitVec 5} {n : Nat} {s t u : State} {x y z : Word}
    (h : gsIn s [a, b] = some ([x, y], t)) (hz : f x y = z) (ho : gOut t d z l = some u) :
    scalar2 n l f d a b s = .next (went u n) := by
  obtain ⟨w, h1, h2⟩ := gsIn2 h
  apply issue_ok
  rw [bind_ok (readG_of h1), bind_ok (readG_of h2), hz, writeG_of ho]

theorem readV_of {s t : State} {i : BitVec 4} {x : VWord} (h : vIn s i = some (x, t)) : readV i s = .ok x t := by
  unfold vIn at h
  unfold readV
  rw [get_bind]
  cases hs : s.core.vstream i with
  | some st =>
    simp only [hs] at h
    split at h
    · cases h
    · rename_i hc
      simp only [not_or] at hc
      obtain ⟨h1, h2⟩ := hc
      cases hq : st.queue with
      | nil => simp [hq] at h
      | cons y r =>
        simp only [hq, Option.some.injEq, Prod.mk.injEq] at h
        obtain ⟨rfl, rfl⟩ := h
        have hw : st.isWrite = false := by simp [Stream.isWrite]; omega
        have hn : ¬ st.count ≤ st.next := h2
        simp only [popStream, hw, hn, hq, Bool.false_eq_true, if_false]
        rfl
  | none =>
    simp only [hs] at h
    split at h
    · rename_i hw
      simp only [Option.some.injEq, Prod.mk.injEq] at h
      obtain ⟨rfl, rfl⟩ := h
      simp only [hw, if_true]; rfl
    · rename_i hw
      simp only [Option.some.injEq, Prod.mk.injEq] at h
      obtain ⟨rfl, rfl⟩ := h
      simp only [hw, if_false, Bool.false_eq_true]
      rfl

theorem writeV_of {s t : State} {i : BitVec 4} {x : VWord} {g : Tag} {l : Nat} (h : vOut s i x g l = some t) :
    writeV i x g l s = .ok () t := by
  unfold vOut at h
  unfold writeV
  rw [get_bind]
  cases hs : s.core.vstream i with
  | some st =>
    simp only [hs] at h
    split at h
    · cases h
    · rename_i hc
      simp only [not_or] at hc
      obtain ⟨h1, h2, h3, h4⟩ := hc
      cases h
      have hw : st.isWrite = true := by simp [Stream.isWrite]; omega
      have hn : ¬ st.count ≤ st.next := h2
      have hf : st.failed = none := by simpa using h3
      have hd : ¬ streamDepth true ≤ st.queue.length + st.landing.length := h4
      simp only [bind_def, appendStream, hw, hn, hf, hd]
      rfl
  | none =>
    simp only [hs] at h
    cases h
    rfl

theorem readM_of (s : State) (i : BitVec 3) : readM i s = .ok (mIn s i).1 (mIn s i).2 := by
  unfold readM mIn
  rw [get_bind]
  by_cases h0 : i = 0
  · subst h0; rfl
  · by_cases hw : s.core.windowOpen s.now (.m i) = true
    · simp only [h0, hw, ne_eq, not_false_eq_true, decide_true, Bool.and_self, if_true, if_false]; rfl
    · simp only [h0, hw, ne_eq, not_false_eq_true, decide_true, Bool.and_false, Bool.false_eq_true, if_false, Core.rawM]; rfl

theorem writeM_of (s : State) (i : BitVec 3) (x : Word) (l : Nat) : writeM i x l s = .ok () (mOut s i x l) := by
  unfold writeM mOut
  rw [get_bind]
  by_cases h0 : i = 0
  · simp only [h0, if_true]; rfl
  · simp only [h0, if_false]; rfl

theorem raiseFlags_of (s : State) (f : BitVec 8) (l : Nat) : raiseFlags f l s = .ok () (flagsOut s f l) := by
  unfold raiseFlags flagsOut
  rw [get_bind]
  by_cases h0 : f = 0
  · simp only [h0, if_true]; rfl
  · simp only [h0, if_false]; rfl

theorem fresh_of (s : State) : fresh s = .ok (Config.freeNat s.free) { s with free := s.free + 1 } := rfl

theorem check_true (c : Nat) (x : Word) (s : State) : check true c x s = .ok () s := rfl

theorem check_false (c : Nat) (x : Word) (s : State) : check false c x s = .error (.trap c x 0) s := rfl

/-- An instruction whose body raises a trap takes it, with nothing done. -/
theorem issue_trap {n : Nat} {body : M Unit} {s t : State} {c : Nat} {x : Word} {q : RegionId} (h : body s = .error (.trap c x q) t) :
    issue n body s = .next (s.takeTrap false c x q) := by
  simp [issue, h, stopped]

theorem issueOwn_trap {body : M Unit} {s t : State} {c : Nat} {x : Word} {q : RegionId} (h : body s = .error (.trap c x q) t) :
    issueOwn body s = .next (s.takeTrap false c x q) := by
  simp [issueOwn, h, stopped]

theorem issueTo_ok {body : M Word} {s u : State} {x : Word} (h : body s = .ok x u) : issueTo body s = .next (wentTo u x) := by
  simp [issueTo, h, wentTo, State.jump]

theorem issueOwn_ok {body : M Unit} {s u : State} (h : body s = .ok () u) : issueOwn body s = .next u := by
  simp [issueOwn, h]

theorem event_of {name : String} {e : State → Bool} {f : State → State} {s : State} (h : e s = true) : event name e f s = .next (f s) := by
  simp [event, h]

theorem event_refused {name : String} {e : State → Bool} {f : State → State} {s : State} (h : e s = false) :
    event name e f s = .refused (.notEnabled name) := by
  simp [event, h]

end Sys2Proof.Laws
end

