-- ==== Sys2Proof/Laws/State.lean ====
section
/-! SUPPORT. What each update of the state leaves and what it changes, field by field. -/

namespace Sys2Proof.Machine

set_option Elab.async false

/-! ## State.modGroup -/

@[simp] theorem State.modGroup_core (s : State) (i : Nat) (f : Group → Group) : (s.modGroup i f).core = s.core := rfl
@[simp] theorem State.modGroup_others (s : State) (i : Nat) (f : Group → Group) : (s.modGroup i f).others = s.others := rfl
@[simp] theorem State.modGroup_now (s : State) (i : Nat) (f : Group → Group) : (s.modGroup i f).now = s.now := rfl
@[simp] theorem State.modGroup_free (s : State) (i : Nat) (f : Group → Group) : (s.modGroup i f).free = s.free := rfl
@[simp] theorem State.modGroup_mem (s : State) (i : Nat) (f : Group → Group) : (s.modGroup i f).mem = s.mem := rfl
@[simp] theorem State.modGroup_scrub (s : State) (i : Nat) (f : Group → Group) : (s.modGroup i f).scrub = s.scrub := rfl
@[simp] theorem State.modGroup_poison (s : State) (i : Nat) (f : Group → Group) : (s.modGroup i f).poison = s.poison := rfl
@[simp] theorem State.modGroup_remap (s : State) (i : Nat) (f : Group → Group) : (s.modGroup i f).remap = s.remap := rfl
@[simp] theorem State.modGroup_versions (s : State) (i : Nat) (f : Group → Group) : (s.modGroup i f).versions = s.versions := rfl
@[simp] theorem State.modGroup_compressed (s : State) (i : Nat) (f : Group → Group) : (s.modGroup i f).compressed = s.compressed := rfl
@[simp] theorem State.modGroup_nextFrame (s : State) (i : Nat) (f : Group → Group) : (s.modGroup i f).nextFrame = s.nextFrame := rfl
@[simp] theorem State.modGroup_tcache (s : State) (i : Nat) (f : Group → Group) : (s.modGroup i f).tcache = s.tcache := rfl
@[simp] theorem State.modGroup_engines (s : State) (i : Nat) (f : Group → Group) : (s.modGroup i f).engines = s.engines := rfl
@[simp] theorem State.modGroup_marks (s : State) (i : Nat) (f : Group → Group) : (s.modGroup i f).marks = s.marks := rfl
@[simp] theorem State.modGroup_objects (s : State) (i : Nat) (f : Group → Group) : (s.modGroup i f).objects = s.objects := rfl
@[simp] theorem State.modGroup_later (s : State) (i : Nat) (f : Group → Group) : (s.modGroup i f).later = s.later := rfl
@[simp] theorem State.modGroup_gathers (s : State) (i : Nat) (f : Group → Group) : (s.modGroup i f).gathers = s.gathers := rfl
@[simp] theorem State.modGroup_deliveries (s : State) (i : Nat) (f : Group → Group) : (s.modGroup i f).deliveries = s.deliveries := rfl
@[simp] theorem State.modGroup_groups (s : State) (i : Nat) (f : Group → Group) : (s.modGroup i f).groups = putBy Group.id (f (s.groupAt i)) s.groups := rfl
@[simp] theorem State.modGroup_cmds (s : State) (i : Nat) (f : Group → Group) : (s.modGroup i f).cmds = s.cmds := rfl
@[simp] theorem State.modGroup_nextId (s : State) (i : Nat) (f : Group → Group) : (s.modGroup i f).nextId = s.nextId := rfl
@[simp] theorem State.modGroup_pubs (s : State) (i : Nat) (f : Group → Group) : (s.modGroup i f).pubs = s.pubs := rfl
@[simp] theorem State.modGroup_judge (s : State) (i : Nat) (f : Group → Group) : (s.modGroup i f).judge = s.judge := rfl
@[simp] theorem State.modGroup_arrivals (s : State) (i : Nat) (f : Group → Group) : (s.modGroup i f).arrivals = s.arrivals := rfl
@[simp] theorem State.modGroup_instances (s : State) (i : Nat) (f : Group → Group) : (s.modGroup i f).instances = s.instances := rfl
@[simp] theorem State.modGroup_msgs (s : State) (i : Nat) (f : Group → Group) : (s.modGroup i f).msgs = s.msgs := rfl
@[simp] theorem State.modGroup_remotes (s : State) (i : Nat) (f : Group → Group) : (s.modGroup i f).remotes = s.remotes := rfl
@[simp] theorem State.modGroup_snaps (s : State) (i : Nat) (f : Group → Group) : (s.modGroup i f).snaps = s.snaps := rfl
@[simp] theorem State.modGroup_runs (s : State) (i : Nat) (f : Group → Group) : (s.modGroup i f).runs = s.runs := rfl
@[simp] theorem State.modGroup_housework (s : State) (i : Nat) (f : Group → Group) : (s.modGroup i f).housework = s.housework := rfl
@[simp] theorem State.modGroup_regions (s : State) (i : Nat) (f : Group → Group) : (s.modGroup i f).regions = s.regions := rfl
@[simp] theorem State.modGroup_requests (s : State) (i : Nat) (f : Group → Group) : (s.modGroup i f).requests = s.requests := rfl
@[simp] theorem State.modGroup_lostPages (s : State) (i : Nat) (f : Group → Group) : (s.modGroup i f).lostPages = s.lostPages := rfl
@[simp] theorem State.modGroup_verified (s : State) (i : Nat) (f : Group → Group) : (s.modGroup i f).verified = s.verified := rfl
@[simp] theorem State.modGroup_served (s : State) (i : Nat) (f : Group → Group) : (s.modGroup i f).served = s.served := rfl
@[simp] theorem State.modGroup_dealt (s : State) (i : Nat) (f : Group → Group) : (s.modGroup i f).dealt = s.dealt := rfl
@[simp] theorem State.modGroup_readied (s : State) (i : Nat) (f : Group → Group) : (s.modGroup i f).readied = s.readied := rfl
@[simp] theorem State.modGroup_rootLogs (s : State) (i : Nat) (f : Group → Group) : (s.modGroup i f).rootLogs = s.rootLogs := rfl
@[simp] theorem State.modGroup_device (s : State) (i : Nat) (f : Group → Group) : (s.modGroup i f).device = s.device := rfl
@[simp] theorem State.modGroup_inputs (s : State) (i : Nat) (f : Group → Group) : (s.modGroup i f).inputs = s.inputs := rfl
@[simp] theorem State.modGroup_stores (s : State) (i : Nat) (f : Group → Group) : (s.modGroup i f).stores = s.stores := rfl
@[simp] theorem State.modGroup_sensors (s : State) (i : Nat) (f : Group → Group) : (s.modGroup i f).sensors = s.sensors := rfl
@[simp] theorem State.modGroup_corrupt (s : State) (i : Nat) (f : Group → Group) : (s.modGroup i f).corrupt = s.corrupt := rfl
@[simp] theorem State.modGroup_outbox (s : State) (i : Nat) (f : Group → Group) : (s.modGroup i f).outbox = s.outbox := rfl

/-! ## State.modRegion -/

@[simp] theorem State.modRegion_core (s : State) (q : RegionId) (f : Region → Region) : (s.modRegion q f).core = s.core := rfl
@[simp] theorem State.modRegion_others (s : State) (q : RegionId) (f : Region → Region) : (s.modRegion q f).others = s.others := rfl
@[simp] theorem State.modRegion_now (s : State) (q : RegionId) (f : Region → Region) : (s.modRegion q f).now = s.now := rfl
@[simp] theorem State.modRegion_free (s : State) (q : RegionId) (f : Region → Region) : (s.modRegion q f).free = s.free := rfl
@[simp] theorem State.modRegion_mem (s : State) (q : RegionId) (f : Region → Region) : (s.modRegion q f).mem = s.mem := rfl
@[simp] theorem State.modRegion_scrub (s : State) (q : RegionId) (f : Region → Region) : (s.modRegion q f).scrub = s.scrub := rfl
@[simp] theorem State.modRegion_poison (s : State) (q : RegionId) (f : Region → Region) : (s.modRegion q f).poison = s.poison := rfl
@[simp] theorem State.modRegion_remap (s : State) (q : RegionId) (f : Region → Region) : (s.modRegion q f).remap = s.remap := rfl
@[simp] theorem State.modRegion_versions (s : State) (q : RegionId) (f : Region → Region) : (s.modRegion q f).versions = s.versions := rfl
@[simp] theorem State.modRegion_compressed (s : State) (q : RegionId) (f : Region → Region) : (s.modRegion q f).compressed = s.compressed := rfl
@[simp] theorem State.modRegion_nextFrame (s : State) (q : RegionId) (f : Region → Region) : (s.modRegion q f).nextFrame = s.nextFrame := rfl
@[simp] theorem State.modRegion_tcache (s : State) (q : RegionId) (f : Region → Region) : (s.modRegion q f).tcache = s.tcache := rfl
@[simp] theorem State.modRegion_engines (s : State) (q : RegionId) (f : Region → Region) : (s.modRegion q f).engines = s.engines := rfl
@[simp] theorem State.modRegion_marks (s : State) (q : RegionId) (f : Region → Region) : (s.modRegion q f).marks = s.marks := rfl
@[simp] theorem State.modRegion_objects (s : State) (q : RegionId) (f : Region → Region) : (s.modRegion q f).objects = s.objects := rfl
@[simp] theorem State.modRegion_later (s : State) (q : RegionId) (f : Region → Region) : (s.modRegion q f).later = s.later := rfl
@[simp] theorem State.modRegion_gathers (s : State) (q : RegionId) (f : Region → Region) : (s.modRegion q f).gathers = s.gathers := rfl
@[simp] theorem State.modRegion_deliveries (s : State) (q : RegionId) (f : Region → Region) : (s.modRegion q f).deliveries = s.deliveries := rfl
@[simp] theorem State.modRegion_groups (s : State) (q : RegionId) (f : Region → Region) : (s.modRegion q f).groups = s.groups := rfl
@[simp] theorem State.modRegion_cmds (s : State) (q : RegionId) (f : Region → Region) : (s.modRegion q f).cmds = s.cmds := rfl
@[simp] theorem State.modRegion_nextId (s : State) (q : RegionId) (f : Region → Region) : (s.modRegion q f).nextId = s.nextId := rfl
@[simp] theorem State.modRegion_pubs (s : State) (q : RegionId) (f : Region → Region) : (s.modRegion q f).pubs = s.pubs := rfl
@[simp] theorem State.modRegion_judge (s : State) (q : RegionId) (f : Region → Region) : (s.modRegion q f).judge = s.judge := rfl
@[simp] theorem State.modRegion_arrivals (s : State) (q : RegionId) (f : Region → Region) : (s.modRegion q f).arrivals = s.arrivals := rfl
@[simp] theorem State.modRegion_instances (s : State) (q : RegionId) (f : Region → Region) : (s.modRegion q f).instances = s.instances := rfl
@[simp] theorem State.modRegion_msgs (s : State) (q : RegionId) (f : Region → Region) : (s.modRegion q f).msgs = s.msgs := rfl
@[simp] theorem State.modRegion_remotes (s : State) (q : RegionId) (f : Region → Region) : (s.modRegion q f).remotes = s.remotes := rfl
@[simp] theorem State.modRegion_snaps (s : State) (q : RegionId) (f : Region → Region) : (s.modRegion q f).snaps = s.snaps := rfl
@[simp] theorem State.modRegion_runs (s : State) (q : RegionId) (f : Region → Region) : (s.modRegion q f).runs = s.runs := rfl
@[simp] theorem State.modRegion_housework (s : State) (q : RegionId) (f : Region → Region) : (s.modRegion q f).housework = s.housework := rfl
@[simp] theorem State.modRegion_regions (s : State) (q : RegionId) (f : Region → Region) : (s.modRegion q f).regions = s.regions.map (fun r => if r.id == q then f r else r) := rfl
@[simp] theorem State.modRegion_requests (s : State) (q : RegionId) (f : Region → Region) : (s.modRegion q f).requests = s.requests := rfl
@[simp] theorem State.modRegion_lostPages (s : State) (q : RegionId) (f : Region → Region) : (s.modRegion q f).lostPages = s.lostPages := rfl
@[simp] theorem State.modRegion_verified (s : State) (q : RegionId) (f : Region → Region) : (s.modRegion q f).verified = s.verified := rfl
@[simp] theorem State.modRegion_served (s : State) (q : RegionId) (f : Region → Region) : (s.modRegion q f).served = s.served := rfl
@[simp] theorem State.modRegion_dealt (s : State) (q : RegionId) (f : Region → Region) : (s.modRegion q f).dealt = s.dealt := rfl
@[simp] theorem State.modRegion_readied (s : State) (q : RegionId) (f : Region → Region) : (s.modRegion q f).readied = s.readied := rfl
@[simp] theorem State.modRegion_rootLogs (s : State) (q : RegionId) (f : Region → Region) : (s.modRegion q f).rootLogs = s.rootLogs := rfl
@[simp] theorem State.modRegion_device (s : State) (q : RegionId) (f : Region → Region) : (s.modRegion q f).device = s.device := rfl
@[simp] theorem State.modRegion_inputs (s : State) (q : RegionId) (f : Region → Region) : (s.modRegion q f).inputs = s.inputs := rfl
@[simp] theorem State.modRegion_stores (s : State) (q : RegionId) (f : Region → Region) : (s.modRegion q f).stores = s.stores := rfl
@[simp] theorem State.modRegion_sensors (s : State) (q : RegionId) (f : Region → Region) : (s.modRegion q f).sensors = s.sensors := rfl
@[simp] theorem State.modRegion_corrupt (s : State) (q : RegionId) (f : Region → Region) : (s.modRegion q f).corrupt = s.corrupt := rfl
@[simp] theorem State.modRegion_outbox (s : State) (q : RegionId) (f : Region → Region) : (s.modRegion q f).outbox = s.outbox := rfl

/-! ## State.modLaunch -/

@[simp] theorem State.modLaunch_core (s : State) (q : RegionId) (n : Nat) (f : Launch → Launch) : (s.modLaunch q n f).core = s.core := rfl
@[simp] theorem State.modLaunch_others (s : State) (q : RegionId) (n : Nat) (f : Launch → Launch) : (s.modLaunch q n f).others = s.others := rfl
@[simp] theorem State.modLaunch_now (s : State) (q : RegionId) (n : Nat) (f : Launch → Launch) : (s.modLaunch q n f).now = s.now := rfl
@[simp] theorem State.modLaunch_free (s : State) (q : RegionId) (n : Nat) (f : Launch → Launch) : (s.modLaunch q n f).free = s.free := rfl
@[simp] theorem State.modLaunch_mem (s : State) (q : RegionId) (n : Nat) (f : Launch → Launch) : (s.modLaunch q n f).mem = s.mem := rfl
@[simp] theorem State.modLaunch_scrub (s : State) (q : RegionId) (n : Nat) (f : Launch → Launch) : (s.modLaunch q n f).scrub = s.scrub := rfl
@[simp] theorem State.modLaunch_poison (s : State) (q : RegionId) (n : Nat) (f : Launch → Launch) : (s.modLaunch q n f).poison = s.poison := rfl
@[simp] theorem State.modLaunch_remap (s : State) (q : RegionId) (n : Nat) (f : Launch → Launch) : (s.modLaunch q n f).remap = s.remap := rfl
@[simp] theorem State.modLaunch_versions (s : State) (q : RegionId) (n : Nat) (f : Launch → Launch) : (s.modLaunch q n f).versions = s.versions := rfl
@[simp] theorem State.modLaunch_compressed (s : State) (q : RegionId) (n : Nat) (f : Launch → Launch) : (s.modLaunch q n f).compressed = s.compressed := rfl
@[simp] theorem State.modLaunch_nextFrame (s : State) (q : RegionId) (n : Nat) (f : Launch → Launch) : (s.modLaunch q n f).nextFrame = s.nextFrame := rfl
@[simp] theorem State.modLaunch_tcache (s : State) (q : RegionId) (n : Nat) (f : Launch → Launch) : (s.modLaunch q n f).tcache = s.tcache := rfl
@[simp] theorem State.modLaunch_engines (s : State) (q : RegionId) (n : Nat) (f : Launch → Launch) : (s.modLaunch q n f).engines = s.engines := rfl
@[simp] theorem State.modLaunch_marks (s : State) (q : RegionId) (n : Nat) (f : Launch → Launch) : (s.modLaunch q n f).marks = s.marks := rfl
@[simp] theorem State.modLaunch_objects (s : State) (q : RegionId) (n : Nat) (f : Launch → Launch) : (s.modLaunch q n f).objects = s.objects := rfl
@[simp] theorem State.modLaunch_later (s : State) (q : RegionId) (n : Nat) (f : Launch → Launch) : (s.modLaunch q n f).later = s.later := rfl
@[simp] theorem State.modLaunch_gathers (s : State) (q : RegionId) (n : Nat) (f : Launch → Launch) : (s.modLaunch q n f).gathers = s.gathers := rfl
@[simp] theorem State.modLaunch_deliveries (s : State) (q : RegionId) (n : Nat) (f : Launch → Launch) : (s.modLaunch q n f).deliveries = s.deliveries := rfl
@[simp] theorem State.modLaunch_groups (s : State) (q : RegionId) (n : Nat) (f : Launch → Launch) : (s.modLaunch q n f).groups = s.groups := rfl
@[simp] theorem State.modLaunch_cmds (s : State) (q : RegionId) (n : Nat) (f : Launch → Launch) : (s.modLaunch q n f).cmds = s.cmds := rfl
@[simp] theorem State.modLaunch_nextId (s : State) (q : RegionId) (n : Nat) (f : Launch → Launch) : (s.modLaunch q n f).nextId = s.nextId := rfl
@[simp] theorem State.modLaunch_pubs (s : State) (q : RegionId) (n : Nat) (f : Launch → Launch) : (s.modLaunch q n f).pubs = s.pubs := rfl
@[simp] theorem State.modLaunch_judge (s : State) (q : RegionId) (n : Nat) (f : Launch → Launch) : (s.modLaunch q n f).judge = s.judge := rfl
@[simp] theorem State.modLaunch_arrivals (s : State) (q : RegionId) (n : Nat) (f : Launch → Launch) : (s.modLaunch q n f).arrivals = s.arrivals := rfl
@[simp] theorem State.modLaunch_instances (s : State) (q : RegionId) (n : Nat) (f : Launch → Launch) : (s.modLaunch q n f).instances = s.instances := rfl
@[simp] theorem State.modLaunch_msgs (s : State) (q : RegionId) (n : Nat) (f : Launch → Launch) : (s.modLaunch q n f).msgs = s.msgs := rfl
@[simp] theorem State.modLaunch_remotes (s : State) (q : RegionId) (n : Nat) (f : Launch → Launch) : (s.modLaunch q n f).remotes = s.remotes := rfl
@[simp] theorem State.modLaunch_snaps (s : State) (q : RegionId) (n : Nat) (f : Launch → Launch) : (s.modLaunch q n f).snaps = s.snaps := rfl
@[simp] theorem State.modLaunch_runs (s : State) (q : RegionId) (n : Nat) (f : Launch → Launch) : (s.modLaunch q n f).runs = s.runs := rfl
@[simp] theorem State.modLaunch_housework (s : State) (q : RegionId) (n : Nat) (f : Launch → Launch) : (s.modLaunch q n f).housework = s.housework := rfl
@[simp] theorem State.modLaunch_requests (s : State) (q : RegionId) (n : Nat) (f : Launch → Launch) : (s.modLaunch q n f).requests = s.requests := rfl
@[simp] theorem State.modLaunch_lostPages (s : State) (q : RegionId) (n : Nat) (f : Launch → Launch) : (s.modLaunch q n f).lostPages = s.lostPages := rfl
@[simp] theorem State.modLaunch_verified (s : State) (q : RegionId) (n : Nat) (f : Launch → Launch) : (s.modLaunch q n f).verified = s.verified := rfl
@[simp] theorem State.modLaunch_served (s : State) (q : RegionId) (n : Nat) (f : Launch → Launch) : (s.modLaunch q n f).served = s.served := rfl
@[simp] theorem State.modLaunch_dealt (s : State) (q : RegionId) (n : Nat) (f : Launch → Launch) : (s.modLaunch q n f).dealt = s.dealt := rfl
@[simp] theorem State.modLaunch_readied (s : State) (q : RegionId) (n : Nat) (f : Launch → Launch) : (s.modLaunch q n f).readied = s.readied := rfl
@[simp] theorem State.modLaunch_rootLogs (s : State) (q : RegionId) (n : Nat) (f : Launch → Launch) : (s.modLaunch q n f).rootLogs = s.rootLogs := rfl
@[simp] theorem State.modLaunch_device (s : State) (q : RegionId) (n : Nat) (f : Launch → Launch) : (s.modLaunch q n f).device = s.device := rfl
@[simp] theorem State.modLaunch_inputs (s : State) (q : RegionId) (n : Nat) (f : Launch → Launch) : (s.modLaunch q n f).inputs = s.inputs := rfl
@[simp] theorem State.modLaunch_stores (s : State) (q : RegionId) (n : Nat) (f : Launch → Launch) : (s.modLaunch q n f).stores = s.stores := rfl
@[simp] theorem State.modLaunch_sensors (s : State) (q : RegionId) (n : Nat) (f : Launch → Launch) : (s.modLaunch q n f).sensors = s.sensors := rfl
@[simp] theorem State.modLaunch_corrupt (s : State) (q : RegionId) (n : Nat) (f : Launch → Launch) : (s.modLaunch q n f).corrupt = s.corrupt := rfl
@[simp] theorem State.modLaunch_outbox (s : State) (q : RegionId) (n : Nat) (f : Launch → Launch) : (s.modLaunch q n f).outbox = s.outbox := rfl

/-! ## State.modCmd -/

@[simp] theorem State.modCmd_core (s : State) (i : Nat) (f : EngCmd → EngCmd) : (s.modCmd i f).core = s.core := rfl
@[simp] theorem State.modCmd_others (s : State) (i : Nat) (f : EngCmd → EngCmd) : (s.modCmd i f).others = s.others := rfl
@[simp] theorem State.modCmd_now (s : State) (i : Nat) (f : EngCmd → EngCmd) : (s.modCmd i f).now = s.now := rfl
@[simp] theorem State.modCmd_free (s : State) (i : Nat) (f : EngCmd → EngCmd) : (s.modCmd i f).free = s.free := rfl
@[simp] theorem State.modCmd_mem (s : State) (i : Nat) (f : EngCmd → EngCmd) : (s.modCmd i f).mem = s.mem := rfl
@[simp] theorem State.modCmd_scrub (s : State) (i : Nat) (f : EngCmd → EngCmd) : (s.modCmd i f).scrub = s.scrub := rfl
@[simp] theorem State.modCmd_poison (s : State) (i : Nat) (f : EngCmd → EngCmd) : (s.modCmd i f).poison = s.poison := rfl
@[simp] theorem State.modCmd_remap (s : State) (i : Nat) (f : EngCmd → EngCmd) : (s.modCmd i f).remap = s.remap := rfl
@[simp] theorem State.modCmd_versions (s : State) (i : Nat) (f : EngCmd → EngCmd) : (s.modCmd i f).versions = s.versions := rfl
@[simp] theorem State.modCmd_compressed (s : State) (i : Nat) (f : EngCmd → EngCmd) : (s.modCmd i f).compressed = s.compressed := rfl
@[simp] theorem State.modCmd_nextFrame (s : State) (i : Nat) (f : EngCmd → EngCmd) : (s.modCmd i f).nextFrame = s.nextFrame := rfl
@[simp] theorem State.modCmd_tcache (s : State) (i : Nat) (f : EngCmd → EngCmd) : (s.modCmd i f).tcache = s.tcache := rfl
@[simp] theorem State.modCmd_engines (s : State) (i : Nat) (f : EngCmd → EngCmd) : (s.modCmd i f).engines = s.engines := rfl
@[simp] theorem State.modCmd_marks (s : State) (i : Nat) (f : EngCmd → EngCmd) : (s.modCmd i f).marks = s.marks := rfl
@[simp] theorem State.modCmd_objects (s : State) (i : Nat) (f : EngCmd → EngCmd) : (s.modCmd i f).objects = s.objects := rfl
@[simp] theorem State.modCmd_later (s : State) (i : Nat) (f : EngCmd → EngCmd) : (s.modCmd i f).later = s.later := rfl
@[simp] theorem State.modCmd_gathers (s : State) (i : Nat) (f : EngCmd → EngCmd) : (s.modCmd i f).gathers = s.gathers := rfl
@[simp] theorem State.modCmd_deliveries (s : State) (i : Nat) (f : EngCmd → EngCmd) : (s.modCmd i f).deliveries = s.deliveries := rfl
@[simp] theorem State.modCmd_groups (s : State) (i : Nat) (f : EngCmd → EngCmd) : (s.modCmd i f).groups = s.groups := rfl
@[simp] theorem State.modCmd_cmds (s : State) (i : Nat) (f : EngCmd → EngCmd) : (s.modCmd i f).cmds = s.cmds.map (fun c => if c.id = i then f c else c) := rfl
@[simp] theorem State.modCmd_nextId (s : State) (i : Nat) (f : EngCmd → EngCmd) : (s.modCmd i f).nextId = s.nextId := rfl
@[simp] theorem State.modCmd_pubs (s : State) (i : Nat) (f : EngCmd → EngCmd) : (s.modCmd i f).pubs = s.pubs := rfl
@[simp] theorem State.modCmd_judge (s : State) (i : Nat) (f : EngCmd → EngCmd) : (s.modCmd i f).judge = s.judge := rfl
@[simp] theorem State.modCmd_arrivals (s : State) (i : Nat) (f : EngCmd → EngCmd) : (s.modCmd i f).arrivals = s.arrivals := rfl
@[simp] theorem State.modCmd_instances (s : State) (i : Nat) (f : EngCmd → EngCmd) : (s.modCmd i f).instances = s.instances := rfl
@[simp] theorem State.modCmd_msgs (s : State) (i : Nat) (f : EngCmd → EngCmd) : (s.modCmd i f).msgs = s.msgs := rfl
@[simp] theorem State.modCmd_remotes (s : State) (i : Nat) (f : EngCmd → EngCmd) : (s.modCmd i f).remotes = s.remotes := rfl
@[simp] theorem State.modCmd_snaps (s : State) (i : Nat) (f : EngCmd → EngCmd) : (s.modCmd i f).snaps = s.snaps := rfl
@[simp] theorem State.modCmd_runs (s : State) (i : Nat) (f : EngCmd → EngCmd) : (s.modCmd i f).runs = s.runs := rfl
@[simp] theorem State.modCmd_housework (s : State) (i : Nat) (f : EngCmd → EngCmd) : (s.modCmd i f).housework = s.housework := rfl
@[simp] theorem State.modCmd_regions (s : State) (i : Nat) (f : EngCmd → EngCmd) : (s.modCmd i f).regions = s.regions := rfl
@[simp] theorem State.modCmd_requests (s : State) (i : Nat) (f : EngCmd → EngCmd) : (s.modCmd i f).requests = s.requests := rfl
@[simp] theorem State.modCmd_lostPages (s : State) (i : Nat) (f : EngCmd → EngCmd) : (s.modCmd i f).lostPages = s.lostPages := rfl
@[simp] theorem State.modCmd_verified (s : State) (i : Nat) (f : EngCmd → EngCmd) : (s.modCmd i f).verified = s.verified := rfl
@[simp] theorem State.modCmd_served (s : State) (i : Nat) (f : EngCmd → EngCmd) : (s.modCmd i f).served = s.served := rfl
@[simp] theorem State.modCmd_dealt (s : State) (i : Nat) (f : EngCmd → EngCmd) : (s.modCmd i f).dealt = s.dealt := rfl
@[simp] theorem State.modCmd_readied (s : State) (i : Nat) (f : EngCmd → EngCmd) : (s.modCmd i f).readied = s.readied := rfl
@[simp] theorem State.modCmd_rootLogs (s : State) (i : Nat) (f : EngCmd → EngCmd) : (s.modCmd i f).rootLogs = s.rootLogs := rfl
@[simp] theorem State.modCmd_device (s : State) (i : Nat) (f : EngCmd → EngCmd) : (s.modCmd i f).device = s.device := rfl
@[simp] theorem State.modCmd_inputs (s : State) (i : Nat) (f : EngCmd → EngCmd) : (s.modCmd i f).inputs = s.inputs := rfl
@[simp] theorem State.modCmd_stores (s : State) (i : Nat) (f : EngCmd → EngCmd) : (s.modCmd i f).stores = s.stores := rfl
@[simp] theorem State.modCmd_sensors (s : State) (i : Nat) (f : EngCmd → EngCmd) : (s.modCmd i f).sensors = s.sensors := rfl
@[simp] theorem State.modCmd_corrupt (s : State) (i : Nat) (f : EngCmd → EngCmd) : (s.modCmd i f).corrupt = s.corrupt := rfl
@[simp] theorem State.modCmd_outbox (s : State) (i : Nat) (f : EngCmd → EngCmd) : (s.modCmd i f).outbox = s.outbox := rfl

/-! ## State.remapPage -/

@[simp] theorem State.remapPage_core (s : State) (p f : Nat) : (s.remapPage p f).core = s.core := rfl
@[simp] theorem State.remapPage_others (s : State) (p f : Nat) : (s.remapPage p f).others = s.others := rfl
@[simp] theorem State.remapPage_now (s : State) (p f : Nat) : (s.remapPage p f).now = s.now := rfl
@[simp] theorem State.remapPage_free (s : State) (p f : Nat) : (s.remapPage p f).free = s.free := rfl
@[simp] theorem State.remapPage_mem (s : State) (p f : Nat) : (s.remapPage p f).mem = s.mem := rfl
@[simp] theorem State.remapPage_scrub (s : State) (p f : Nat) : (s.remapPage p f).scrub = s.scrub := rfl
@[simp] theorem State.remapPage_poison (s : State) (p f : Nat) : (s.remapPage p f).poison = s.poison := rfl
@[simp] theorem State.remapPage_remap (s : State) (p f : Nat) : (s.remapPage p f).remap = ainsert s.remap p f := rfl
@[simp] theorem State.remapPage_versions (s : State) (p f : Nat) : (s.remapPage p f).versions = ainsert s.versions p ((s.version p + 1) % 2 ^ 16) := rfl
@[simp] theorem State.remapPage_compressed (s : State) (p f : Nat) : (s.remapPage p f).compressed = s.compressed := rfl
@[simp] theorem State.remapPage_nextFrame (s : State) (p f : Nat) : (s.remapPage p f).nextFrame = s.nextFrame := rfl
@[simp] theorem State.remapPage_tcache (s : State) (p f : Nat) : (s.remapPage p f).tcache = s.tcache := rfl
@[simp] theorem State.remapPage_engines (s : State) (p f : Nat) : (s.remapPage p f).engines = s.engines := rfl
@[simp] theorem State.remapPage_marks (s : State) (p f : Nat) : (s.remapPage p f).marks = s.marks := rfl
@[simp] theorem State.remapPage_objects (s : State) (p f : Nat) : (s.remapPage p f).objects = s.objects := rfl
@[simp] theorem State.remapPage_later (s : State) (p f : Nat) : (s.remapPage p f).later = s.later := rfl
@[simp] theorem State.remapPage_gathers (s : State) (p f : Nat) : (s.remapPage p f).gathers = s.gathers := rfl
@[simp] theorem State.remapPage_deliveries (s : State) (p f : Nat) : (s.remapPage p f).deliveries = s.deliveries := rfl
@[simp] theorem State.remapPage_groups (s : State) (p f : Nat) : (s.remapPage p f).groups = s.groups := rfl
@[simp] theorem State.remapPage_cmds (s : State) (p f : Nat) : (s.remapPage p f).cmds = s.cmds := rfl
@[simp] theorem State.remapPage_nextId (s : State) (p f : Nat) : (s.remapPage p f).nextId = s.nextId := rfl
@[simp] theorem State.remapPage_pubs (s : State) (p f : Nat) : (s.remapPage p f).pubs = s.pubs := rfl
@[simp] theorem State.remapPage_judge (s : State) (p f : Nat) : (s.remapPage p f).judge = s.judge := rfl
@[simp] theorem State.remapPage_arrivals (s : State) (p f : Nat) : (s.remapPage p f).arrivals = s.arrivals := rfl
@[simp] theorem State.remapPage_instances (s : State) (p f : Nat) : (s.remapPage p f).instances = s.instances := rfl
@[simp] theorem State.remapPage_msgs (s : State) (p f : Nat) : (s.remapPage p f).msgs = s.msgs := rfl
@[simp] theorem State.remapPage_remotes (s : State) (p f : Nat) : (s.remapPage p f).remotes = s.remotes := rfl
@[simp] theorem State.remapPage_snaps (s : State) (p f : Nat) : (s.remapPage p f).snaps = s.snaps := rfl
@[simp] theorem State.remapPage_runs (s : State) (p f : Nat) : (s.remapPage p f).runs = s.runs := rfl
@[simp] theorem State.remapPage_housework (s : State) (p f : Nat) : (s.remapPage p f).housework = s.housework := rfl
@[simp] theorem State.remapPage_regions (s : State) (p f : Nat) : (s.remapPage p f).regions = s.regions := rfl
@[simp] theorem State.remapPage_requests (s : State) (p f : Nat) : (s.remapPage p f).requests = s.requests := rfl
@[simp] theorem State.remapPage_lostPages (s : State) (p f : Nat) : (s.remapPage p f).lostPages = s.lostPages := rfl
@[simp] theorem State.remapPage_verified (s : State) (p f : Nat) : (s.remapPage p f).verified = s.verified := rfl
@[simp] theorem State.remapPage_served (s : State) (p f : Nat) : (s.remapPage p f).served = s.served := rfl
@[simp] theorem State.remapPage_dealt (s : State) (p f : Nat) : (s.remapPage p f).dealt = s.dealt := rfl
@[simp] theorem State.remapPage_readied (s : State) (p f : Nat) : (s.remapPage p f).readied = s.readied := rfl
@[simp] theorem State.remapPage_rootLogs (s : State) (p f : Nat) : (s.remapPage p f).rootLogs = s.rootLogs := rfl
@[simp] theorem State.remapPage_device (s : State) (p f : Nat) : (s.remapPage p f).device = s.device := rfl
@[simp] theorem State.remapPage_inputs (s : State) (p f : Nat) : (s.remapPage p f).inputs = s.inputs := rfl
@[simp] theorem State.remapPage_stores (s : State) (p f : Nat) : (s.remapPage p f).stores = s.stores := rfl
@[simp] theorem State.remapPage_sensors (s : State) (p f : Nat) : (s.remapPage p f).sensors = s.sensors := rfl
@[simp] theorem State.remapPage_corrupt (s : State) (p f : Nat) : (s.remapPage p f).corrupt = s.corrupt := rfl
@[simp] theorem State.remapPage_outbox (s : State) (p f : Nat) : (s.remapPage p f).outbox = s.outbox := rfl

/-! ## State.healed -/

@[simp] theorem State.healed_core (s : State) (p n : Nat) : (s.healed p n).core = s.core := rfl
@[simp] theorem State.healed_others (s : State) (p n : Nat) : (s.healed p n).others = s.others := rfl
@[simp] theorem State.healed_now (s : State) (p n : Nat) : (s.healed p n).now = s.now := rfl
@[simp] theorem State.healed_free (s : State) (p n : Nat) : (s.healed p n).free = s.free := rfl
@[simp] theorem State.healed_mem (s : State) (p n : Nat) : (s.healed p n).mem = s.mem := rfl
@[simp] theorem State.healed_scrub (s : State) (p n : Nat) : (s.healed p n).scrub = s.scrub := rfl
@[simp] theorem State.healed_remap (s : State) (p n : Nat) : (s.healed p n).remap = s.remap := rfl
@[simp] theorem State.healed_versions (s : State) (p n : Nat) : (s.healed p n).versions = s.versions := rfl
@[simp] theorem State.healed_compressed (s : State) (p n : Nat) : (s.healed p n).compressed = s.compressed := rfl
@[simp] theorem State.healed_nextFrame (s : State) (p n : Nat) : (s.healed p n).nextFrame = s.nextFrame := rfl
@[simp] theorem State.healed_tcache (s : State) (p n : Nat) : (s.healed p n).tcache = s.tcache := rfl
@[simp] theorem State.healed_engines (s : State) (p n : Nat) : (s.healed p n).engines = s.engines := rfl
@[simp] theorem State.healed_marks (s : State) (p n : Nat) : (s.healed p n).marks = s.marks := rfl
@[simp] theorem State.healed_objects (s : State) (p n : Nat) : (s.healed p n).objects = s.objects := rfl
@[simp] theorem State.healed_later (s : State) (p n : Nat) : (s.healed p n).later = s.later := rfl
@[simp] theorem State.healed_gathers (s : State) (p n : Nat) : (s.healed p n).gathers = s.gathers := rfl
@[simp] theorem State.healed_deliveries (s : State) (p n : Nat) : (s.healed p n).deliveries = s.deliveries := rfl
@[simp] theorem State.healed_groups (s : State) (p n : Nat) : (s.healed p n).groups = s.groups := rfl
@[simp] theorem State.healed_cmds (s : State) (p n : Nat) : (s.healed p n).cmds = s.cmds := rfl
@[simp] theorem State.healed_nextId (s : State) (p n : Nat) : (s.healed p n).nextId = s.nextId := rfl
@[simp] theorem State.healed_pubs (s : State) (p n : Nat) : (s.healed p n).pubs = s.pubs := rfl
@[simp] theorem State.healed_judge (s : State) (p n : Nat) : (s.healed p n).judge = s.judge := rfl
@[simp] theorem State.healed_arrivals (s : State) (p n : Nat) : (s.healed p n).arrivals = s.arrivals := rfl
@[simp] theorem State.healed_instances (s : State) (p n : Nat) : (s.healed p n).instances = s.instances := rfl
@[simp] theorem State.healed_msgs (s : State) (p n : Nat) : (s.healed p n).msgs = s.msgs := rfl
@[simp] theorem State.healed_remotes (s : State) (p n : Nat) : (s.healed p n).remotes = s.remotes := rfl
@[simp] theorem State.healed_snaps (s : State) (p n : Nat) : (s.healed p n).snaps = s.snaps := rfl
@[simp] theorem State.healed_runs (s : State) (p n : Nat) : (s.healed p n).runs = s.runs := rfl
@[simp] theorem State.healed_housework (s : State) (p n : Nat) : (s.healed p n).housework = s.housework := rfl
@[simp] theorem State.healed_regions (s : State) (p n : Nat) : (s.healed p n).regions = s.regions := rfl
@[simp] theorem State.healed_requests (s : State) (p n : Nat) : (s.healed p n).requests = s.requests := rfl
@[simp] theorem State.healed_lostPages (s : State) (p n : Nat) : (s.healed p n).lostPages = s.lostPages := rfl
@[simp] theorem State.healed_verified (s : State) (p n : Nat) : (s.healed p n).verified = s.verified := rfl
@[simp] theorem State.healed_served (s : State) (p n : Nat) : (s.healed p n).served = s.served := rfl
@[simp] theorem State.healed_dealt (s : State) (p n : Nat) : (s.healed p n).dealt = s.dealt := rfl
@[simp] theorem State.healed_readied (s : State) (p n : Nat) : (s.healed p n).readied = s.readied := rfl
@[simp] theorem State.healed_rootLogs (s : State) (p n : Nat) : (s.healed p n).rootLogs = s.rootLogs := rfl
@[simp] theorem State.healed_device (s : State) (p n : Nat) : (s.healed p n).device = s.device := rfl
@[simp] theorem State.healed_inputs (s : State) (p n : Nat) : (s.healed p n).inputs = s.inputs := rfl
@[simp] theorem State.healed_stores (s : State) (p n : Nat) : (s.healed p n).stores = s.stores := rfl
@[simp] theorem State.healed_sensors (s : State) (p n : Nat) : (s.healed p n).sensors = s.sensors := rfl
@[simp] theorem State.healed_corrupt (s : State) (p n : Nat) : (s.healed p n).corrupt = s.corrupt := rfl
@[simp] theorem State.healed_outbox (s : State) (p n : Nat) : (s.healed p n).outbox = s.outbox := rfl

/-! ## State.release -/

@[simp] theorem State.release_core (s : State) (p n : Nat) : (s.release p n).core = s.core := rfl
@[simp] theorem State.release_others (s : State) (p n : Nat) : (s.release p n).others = s.others := rfl
@[simp] theorem State.release_now (s : State) (p n : Nat) : (s.release p n).now = s.now := rfl
@[simp] theorem State.release_free (s : State) (p n : Nat) : (s.release p n).free = s.free := rfl
@[simp] theorem State.release_mem (s : State) (p n : Nat) : (s.release p n).mem = s.mem := rfl
@[simp] theorem State.release_scrub (s : State) (p n : Nat) : (s.release p n).scrub = (p / 64, n / 64) :: s.scrub := rfl
@[simp] theorem State.release_remap (s : State) (p n : Nat) : (s.release p n).remap = s.remap := rfl
@[simp] theorem State.release_versions (s : State) (p n : Nat) : (s.release p n).versions = s.versions := rfl
@[simp] theorem State.release_compressed (s : State) (p n : Nat) : (s.release p n).compressed = s.compressed := rfl
@[simp] theorem State.release_nextFrame (s : State) (p n : Nat) : (s.release p n).nextFrame = s.nextFrame := rfl
@[simp] theorem State.release_tcache (s : State) (p n : Nat) : (s.release p n).tcache = s.tcache := rfl
@[simp] theorem State.release_engines (s : State) (p n : Nat) : (s.release p n).engines = s.engines := rfl
@[simp] theorem State.release_marks (s : State) (p n : Nat) : (s.release p n).marks = s.marks := rfl
@[simp] theorem State.release_objects (s : State) (p n : Nat) : (s.release p n).objects = s.objects := rfl
@[simp] theorem State.release_later (s : State) (p n : Nat) : (s.release p n).later = s.later := rfl
@[simp] theorem State.release_gathers (s : State) (p n : Nat) : (s.release p n).gathers = s.gathers := rfl
@[simp] theorem State.release_deliveries (s : State) (p n : Nat) : (s.release p n).deliveries = s.deliveries := rfl
@[simp] theorem State.release_groups (s : State) (p n : Nat) : (s.release p n).groups = s.groups := rfl
@[simp] theorem State.release_cmds (s : State) (p n : Nat) : (s.release p n).cmds = s.cmds := rfl
@[simp] theorem State.release_nextId (s : State) (p n : Nat) : (s.release p n).nextId = s.nextId := rfl
@[simp] theorem State.release_pubs (s : State) (p n : Nat) : (s.release p n).pubs = s.pubs := rfl
@[simp] theorem State.release_judge (s : State) (p n : Nat) : (s.release p n).judge = s.judge := rfl
@[simp] theorem State.release_arrivals (s : State) (p n : Nat) : (s.release p n).arrivals = s.arrivals := rfl
@[simp] theorem State.release_instances (s : State) (p n : Nat) : (s.release p n).instances = s.instances := rfl
@[simp] theorem State.release_msgs (s : State) (p n : Nat) : (s.release p n).msgs = s.msgs := rfl
@[simp] theorem State.release_remotes (s : State) (p n : Nat) : (s.release p n).remotes = s.remotes := rfl
@[simp] theorem State.release_snaps (s : State) (p n : Nat) : (s.release p n).snaps = s.snaps := rfl
@[simp] theorem State.release_runs (s : State) (p n : Nat) : (s.release p n).runs = s.runs := rfl
@[simp] theorem State.release_housework (s : State) (p n : Nat) : (s.release p n).housework = s.housework := rfl
@[simp] theorem State.release_regions (s : State) (p n : Nat) : (s.release p n).regions = s.regions := rfl
@[simp] theorem State.release_requests (s : State) (p n : Nat) : (s.release p n).requests = s.requests := rfl
@[simp] theorem State.release_lostPages (s : State) (p n : Nat) : (s.release p n).lostPages = s.lostPages := rfl
@[simp] theorem State.release_verified (s : State) (p n : Nat) : (s.release p n).verified = s.verified := rfl
@[simp] theorem State.release_served (s : State) (p n : Nat) : (s.release p n).served = s.served := rfl
@[simp] theorem State.release_dealt (s : State) (p n : Nat) : (s.release p n).dealt = s.dealt := rfl
@[simp] theorem State.release_readied (s : State) (p n : Nat) : (s.release p n).readied = s.readied := rfl
@[simp] theorem State.release_rootLogs (s : State) (p n : Nat) : (s.release p n).rootLogs = s.rootLogs := rfl
@[simp] theorem State.release_device (s : State) (p n : Nat) : (s.release p n).device = s.device := rfl
@[simp] theorem State.release_inputs (s : State) (p n : Nat) : (s.release p n).inputs = s.inputs := rfl
@[simp] theorem State.release_stores (s : State) (p n : Nat) : (s.release p n).stores = s.stores := rfl
@[simp] theorem State.release_sensors (s : State) (p n : Nat) : (s.release p n).sensors = s.sensors := rfl
@[simp] theorem State.release_corrupt (s : State) (p n : Nat) : (s.release p n).corrupt = s.corrupt := rfl
@[simp] theorem State.release_outbox (s : State) (p n : Nat) : (s.release p n).outbox = s.outbox := rfl

/-! ## State.modDevice -/

@[simp] theorem State.modDevice_core (s : State) (f : Device → Device) : (s.modDevice f).core = s.core := rfl
@[simp] theorem State.modDevice_others (s : State) (f : Device → Device) : (s.modDevice f).others = s.others := rfl
@[simp] theorem State.modDevice_now (s : State) (f : Device → Device) : (s.modDevice f).now = s.now := rfl
@[simp] theorem State.modDevice_free (s : State) (f : Device → Device) : (s.modDevice f).free = s.free := rfl
@[simp] theorem State.modDevice_mem (s : State) (f : Device → Device) : (s.modDevice f).mem = s.mem := rfl
@[simp] theorem State.modDevice_scrub (s : State) (f : Device → Device) : (s.modDevice f).scrub = s.scrub := rfl
@[simp] theorem State.modDevice_poison (s : State) (f : Device → Device) : (s.modDevice f).poison = s.poison := rfl
@[simp] theorem State.modDevice_remap (s : State) (f : Device → Device) : (s.modDevice f).remap = s.remap := rfl
@[simp] theorem State.modDevice_versions (s : State) (f : Device → Device) : (s.modDevice f).versions = s.versions := rfl
@[simp] theorem State.modDevice_compressed (s : State) (f : Device → Device) : (s.modDevice f).compressed = s.compressed := rfl
@[simp] theorem State.modDevice_nextFrame (s : State) (f : Device → Device) : (s.modDevice f).nextFrame = s.nextFrame := rfl
@[simp] theorem State.modDevice_tcache (s : State) (f : Device → Device) : (s.modDevice f).tcache = s.tcache := rfl
@[simp] theorem State.modDevice_engines (s : State) (f : Device → Device) : (s.modDevice f).engines = s.engines := rfl
@[simp] theorem State.modDevice_marks (s : State) (f : Device → Device) : (s.modDevice f).marks = s.marks := rfl
@[simp] theorem State.modDevice_objects (s : State) (f : Device → Device) : (s.modDevice f).objects = s.objects := rfl
@[simp] theorem State.modDevice_later (s : State) (f : Device → Device) : (s.modDevice f).later = s.later := rfl
@[simp] theorem State.modDevice_gathers (s : State) (f : Device → Device) : (s.modDevice f).gathers = s.gathers := rfl
@[simp] theorem State.modDevice_deliveries (s : State) (f : Device → Device) : (s.modDevice f).deliveries = s.deliveries := rfl
@[simp] theorem State.modDevice_groups (s : State) (f : Device → Device) : (s.modDevice f).groups = s.groups := rfl
@[simp] theorem State.modDevice_cmds (s : State) (f : Device → Device) : (s.modDevice f).cmds = s.cmds := rfl
@[simp] theorem State.modDevice_nextId (s : State) (f : Device → Device) : (s.modDevice f).nextId = s.nextId := rfl
@[simp] theorem State.modDevice_pubs (s : State) (f : Device → Device) : (s.modDevice f).pubs = s.pubs := rfl
@[simp] theorem State.modDevice_judge (s : State) (f : Device → Device) : (s.modDevice f).judge = s.judge := rfl
@[simp] theorem State.modDevice_arrivals (s : State) (f : Device → Device) : (s.modDevice f).arrivals = s.arrivals := rfl
@[simp] theorem State.modDevice_instances (s : State) (f : Device → Device) : (s.modDevice f).instances = s.instances := rfl
@[simp] theorem State.modDevice_msgs (s : State) (f : Device → Device) : (s.modDevice f).msgs = s.msgs := rfl
@[simp] theorem State.modDevice_remotes (s : State) (f : Device → Device) : (s.modDevice f).remotes = s.remotes := rfl
@[simp] theorem State.modDevice_snaps (s : State) (f : Device → Device) : (s.modDevice f).snaps = s.snaps := rfl
@[simp] theorem State.modDevice_runs (s : State) (f : Device → Device) : (s.modDevice f).runs = s.runs := rfl
@[simp] theorem State.modDevice_housework (s : State) (f : Device → Device) : (s.modDevice f).housework = s.housework := rfl
@[simp] theorem State.modDevice_regions (s : State) (f : Device → Device) : (s.modDevice f).regions = s.regions := rfl
@[simp] theorem State.modDevice_requests (s : State) (f : Device → Device) : (s.modDevice f).requests = s.requests := rfl
@[simp] theorem State.modDevice_lostPages (s : State) (f : Device → Device) : (s.modDevice f).lostPages = s.lostPages := rfl
@[simp] theorem State.modDevice_verified (s : State) (f : Device → Device) : (s.modDevice f).verified = s.verified := rfl
@[simp] theorem State.modDevice_served (s : State) (f : Device → Device) : (s.modDevice f).served = s.served := rfl
@[simp] theorem State.modDevice_dealt (s : State) (f : Device → Device) : (s.modDevice f).dealt = s.dealt := rfl
@[simp] theorem State.modDevice_readied (s : State) (f : Device → Device) : (s.modDevice f).readied = s.readied := rfl
@[simp] theorem State.modDevice_rootLogs (s : State) (f : Device → Device) : (s.modDevice f).rootLogs = s.rootLogs := rfl
@[simp] theorem State.modDevice_device (s : State) (f : Device → Device) : (s.modDevice f).device = f s.device := rfl
@[simp] theorem State.modDevice_inputs (s : State) (f : Device → Device) : (s.modDevice f).inputs = s.inputs := rfl
@[simp] theorem State.modDevice_stores (s : State) (f : Device → Device) : (s.modDevice f).stores = s.stores := rfl
@[simp] theorem State.modDevice_sensors (s : State) (f : Device → Device) : (s.modDevice f).sensors = s.sensors := rfl
@[simp] theorem State.modDevice_corrupt (s : State) (f : Device → Device) : (s.modDevice f).corrupt = s.corrupt := rfl
@[simp] theorem State.modDevice_outbox (s : State) (f : Device → Device) : (s.modDevice f).outbox = s.outbox := rfl

/-! ## State.reply -/

@[simp] theorem State.reply_core (s : State) (r : Reply) : (s.reply r).core = s.core := rfl
@[simp] theorem State.reply_others (s : State) (r : Reply) : (s.reply r).others = s.others := rfl
@[simp] theorem State.reply_now (s : State) (r : Reply) : (s.reply r).now = s.now := rfl
@[simp] theorem State.reply_free (s : State) (r : Reply) : (s.reply r).free = s.free := rfl
@[simp] theorem State.reply_mem (s : State) (r : Reply) : (s.reply r).mem = s.mem := rfl
@[simp] theorem State.reply_scrub (s : State) (r : Reply) : (s.reply r).scrub = s.scrub := rfl
@[simp] theorem State.reply_poison (s : State) (r : Reply) : (s.reply r).poison = s.poison := rfl
@[simp] theorem State.reply_remap (s : State) (r : Reply) : (s.reply r).remap = s.remap := rfl
@[simp] theorem State.reply_versions (s : State) (r : Reply) : (s.reply r).versions = s.versions := rfl
@[simp] theorem State.reply_compressed (s : State) (r : Reply) : (s.reply r).compressed = s.compressed := rfl
@[simp] theorem State.reply_nextFrame (s : State) (r : Reply) : (s.reply r).nextFrame = s.nextFrame := rfl
@[simp] theorem State.reply_tcache (s : State) (r : Reply) : (s.reply r).tcache = s.tcache := rfl
@[simp] theorem State.reply_engines (s : State) (r : Reply) : (s.reply r).engines = s.engines := rfl
@[simp] theorem State.reply_marks (s : State) (r : Reply) : (s.reply r).marks = s.marks := rfl
@[simp] theorem State.reply_objects (s : State) (r : Reply) : (s.reply r).objects = s.objects := rfl
@[simp] theorem State.reply_later (s : State) (r : Reply) : (s.reply r).later = s.later := rfl
@[simp] theorem State.reply_gathers (s : State) (r : Reply) : (s.reply r).gathers = s.gathers := rfl
@[simp] theorem State.reply_deliveries (s : State) (r : Reply) : (s.reply r).deliveries = s.deliveries := rfl
@[simp] theorem State.reply_groups (s : State) (r : Reply) : (s.reply r).groups = s.groups := rfl
@[simp] theorem State.reply_cmds (s : State) (r : Reply) : (s.reply r).cmds = s.cmds := rfl
@[simp] theorem State.reply_nextId (s : State) (r : Reply) : (s.reply r).nextId = s.nextId := rfl
@[simp] theorem State.reply_pubs (s : State) (r : Reply) : (s.reply r).pubs = s.pubs := rfl
@[simp] theorem State.reply_judge (s : State) (r : Reply) : (s.reply r).judge = s.judge := rfl
@[simp] theorem State.reply_arrivals (s : State) (r : Reply) : (s.reply r).arrivals = s.arrivals := rfl
@[simp] theorem State.reply_instances (s : State) (r : Reply) : (s.reply r).instances = s.instances := rfl
@[simp] theorem State.reply_msgs (s : State) (r : Reply) : (s.reply r).msgs = s.msgs := rfl
@[simp] theorem State.reply_remotes (s : State) (r : Reply) : (s.reply r).remotes = s.remotes := rfl
@[simp] theorem State.reply_snaps (s : State) (r : Reply) : (s.reply r).snaps = s.snaps := rfl
@[simp] theorem State.reply_runs (s : State) (r : Reply) : (s.reply r).runs = s.runs := rfl
@[simp] theorem State.reply_housework (s : State) (r : Reply) : (s.reply r).housework = s.housework := rfl
@[simp] theorem State.reply_regions (s : State) (r : Reply) : (s.reply r).regions = s.regions := rfl
@[simp] theorem State.reply_requests (s : State) (r : Reply) : (s.reply r).requests = s.requests := rfl
@[simp] theorem State.reply_lostPages (s : State) (r : Reply) : (s.reply r).lostPages = s.lostPages := rfl
@[simp] theorem State.reply_verified (s : State) (r : Reply) : (s.reply r).verified = s.verified := rfl
@[simp] theorem State.reply_served (s : State) (r : Reply) : (s.reply r).served = s.served := rfl
@[simp] theorem State.reply_dealt (s : State) (r : Reply) : (s.reply r).dealt = s.dealt := rfl
@[simp] theorem State.reply_readied (s : State) (r : Reply) : (s.reply r).readied = s.readied := rfl
@[simp] theorem State.reply_rootLogs (s : State) (r : Reply) : (s.reply r).rootLogs = s.rootLogs := rfl
@[simp] theorem State.reply_device (s : State) (r : Reply) : (s.reply r).device = s.device := rfl
@[simp] theorem State.reply_inputs (s : State) (r : Reply) : (s.reply r).inputs = s.inputs := rfl
@[simp] theorem State.reply_stores (s : State) (r : Reply) : (s.reply r).stores = s.stores := rfl
@[simp] theorem State.reply_sensors (s : State) (r : Reply) : (s.reply r).sensors = s.sensors := rfl
@[simp] theorem State.reply_corrupt (s : State) (r : Reply) : (s.reply r).corrupt = s.corrupt := rfl
@[simp] theorem State.reply_outbox (s : State) (r : Reply) : (s.reply r).outbox = r :: s.outbox := rfl

/-! ## State.record -/

@[simp] theorem State.record_core (s : State) (t : Telemetry) : (s.record t).core = s.core := rfl
@[simp] theorem State.record_others (s : State) (t : Telemetry) : (s.record t).others = s.others := rfl
@[simp] theorem State.record_now (s : State) (t : Telemetry) : (s.record t).now = s.now := rfl
@[simp] theorem State.record_free (s : State) (t : Telemetry) : (s.record t).free = s.free := rfl
@[simp] theorem State.record_mem (s : State) (t : Telemetry) : (s.record t).mem = s.mem := rfl
@[simp] theorem State.record_scrub (s : State) (t : Telemetry) : (s.record t).scrub = s.scrub := rfl
@[simp] theorem State.record_poison (s : State) (t : Telemetry) : (s.record t).poison = s.poison := rfl
@[simp] theorem State.record_remap (s : State) (t : Telemetry) : (s.record t).remap = s.remap := rfl
@[simp] theorem State.record_versions (s : State) (t : Telemetry) : (s.record t).versions = s.versions := rfl
@[simp] theorem State.record_compressed (s : State) (t : Telemetry) : (s.record t).compressed = s.compressed := rfl
@[simp] theorem State.record_nextFrame (s : State) (t : Telemetry) : (s.record t).nextFrame = s.nextFrame := rfl
@[simp] theorem State.record_tcache (s : State) (t : Telemetry) : (s.record t).tcache = s.tcache := rfl
@[simp] theorem State.record_engines (s : State) (t : Telemetry) : (s.record t).engines = s.engines := rfl
@[simp] theorem State.record_marks (s : State) (t : Telemetry) : (s.record t).marks = s.marks := rfl
@[simp] theorem State.record_objects (s : State) (t : Telemetry) : (s.record t).objects = s.objects := rfl
@[simp] theorem State.record_later (s : State) (t : Telemetry) : (s.record t).later = s.later := rfl
@[simp] theorem State.record_gathers (s : State) (t : Telemetry) : (s.record t).gathers = s.gathers := rfl
@[simp] theorem State.record_deliveries (s : State) (t : Telemetry) : (s.record t).deliveries = s.deliveries := rfl
@[simp] theorem State.record_groups (s : State) (t : Telemetry) : (s.record t).groups = s.groups := rfl
@[simp] theorem State.record_cmds (s : State) (t : Telemetry) : (s.record t).cmds = s.cmds := rfl
@[simp] theorem State.record_nextId (s : State) (t : Telemetry) : (s.record t).nextId = s.nextId := rfl
@[simp] theorem State.record_pubs (s : State) (t : Telemetry) : (s.record t).pubs = s.pubs := rfl
@[simp] theorem State.record_judge (s : State) (t : Telemetry) : (s.record t).judge = s.judge := rfl
@[simp] theorem State.record_arrivals (s : State) (t : Telemetry) : (s.record t).arrivals = s.arrivals := rfl
@[simp] theorem State.record_instances (s : State) (t : Telemetry) : (s.record t).instances = s.instances := rfl
@[simp] theorem State.record_msgs (s : State) (t : Telemetry) : (s.record t).msgs = s.msgs := rfl
@[simp] theorem State.record_remotes (s : State) (t : Telemetry) : (s.record t).remotes = s.remotes := rfl
@[simp] theorem State.record_snaps (s : State) (t : Telemetry) : (s.record t).snaps = s.snaps := rfl
@[simp] theorem State.record_runs (s : State) (t : Telemetry) : (s.record t).runs = s.runs := rfl
@[simp] theorem State.record_housework (s : State) (t : Telemetry) : (s.record t).housework = s.housework := rfl
@[simp] theorem State.record_regions (s : State) (t : Telemetry) : (s.record t).regions = s.regions := rfl
@[simp] theorem State.record_requests (s : State) (t : Telemetry) : (s.record t).requests = s.requests := rfl
@[simp] theorem State.record_lostPages (s : State) (t : Telemetry) : (s.record t).lostPages = s.lostPages := rfl
@[simp] theorem State.record_verified (s : State) (t : Telemetry) : (s.record t).verified = s.verified := rfl
@[simp] theorem State.record_served (s : State) (t : Telemetry) : (s.record t).served = s.served := rfl
@[simp] theorem State.record_dealt (s : State) (t : Telemetry) : (s.record t).dealt = s.dealt := rfl
@[simp] theorem State.record_readied (s : State) (t : Telemetry) : (s.record t).readied = s.readied := rfl
@[simp] theorem State.record_rootLogs (s : State) (t : Telemetry) : (s.record t).rootLogs = s.rootLogs := rfl
@[simp] theorem State.record_device (s : State) (t : Telemetry) : (s.record t).device = { s.device with telemetry := t :: s.device.telemetry } := rfl
@[simp] theorem State.record_inputs (s : State) (t : Telemetry) : (s.record t).inputs = s.inputs := rfl
@[simp] theorem State.record_stores (s : State) (t : Telemetry) : (s.record t).stores = s.stores := rfl
@[simp] theorem State.record_sensors (s : State) (t : Telemetry) : (s.record t).sensors = s.sensors := rfl
@[simp] theorem State.record_corrupt (s : State) (t : Telemetry) : (s.record t).corrupt = s.corrupt := rfl
@[simp] theorem State.record_outbox (s : State) (t : Telemetry) : (s.record t).outbox = s.outbox := rfl

/-! ## State.dropCached -/

@[simp] theorem State.dropCached_core (s : State) (rs : List RegionId) : (s.dropCached rs).core = s.core := rfl
@[simp] theorem State.dropCached_others (s : State) (rs : List RegionId) : (s.dropCached rs).others = s.others := rfl
@[simp] theorem State.dropCached_now (s : State) (rs : List RegionId) : (s.dropCached rs).now = s.now := rfl
@[simp] theorem State.dropCached_free (s : State) (rs : List RegionId) : (s.dropCached rs).free = s.free := rfl
@[simp] theorem State.dropCached_mem (s : State) (rs : List RegionId) : (s.dropCached rs).mem = s.mem := rfl
@[simp] theorem State.dropCached_scrub (s : State) (rs : List RegionId) : (s.dropCached rs).scrub = s.scrub := rfl
@[simp] theorem State.dropCached_poison (s : State) (rs : List RegionId) : (s.dropCached rs).poison = s.poison := rfl
@[simp] theorem State.dropCached_remap (s : State) (rs : List RegionId) : (s.dropCached rs).remap = s.remap := rfl
@[simp] theorem State.dropCached_versions (s : State) (rs : List RegionId) : (s.dropCached rs).versions = s.versions := rfl
@[simp] theorem State.dropCached_compressed (s : State) (rs : List RegionId) : (s.dropCached rs).compressed = s.compressed := rfl
@[simp] theorem State.dropCached_nextFrame (s : State) (rs : List RegionId) : (s.dropCached rs).nextFrame = s.nextFrame := rfl
@[simp] theorem State.dropCached_tcache (s : State) (rs : List RegionId) : (s.dropCached rs).tcache = s.tcache.filter (fun c => !rs.contains c.region) := rfl
@[simp] theorem State.dropCached_engines (s : State) (rs : List RegionId) : (s.dropCached rs).engines = s.engines := rfl
@[simp] theorem State.dropCached_marks (s : State) (rs : List RegionId) : (s.dropCached rs).marks = s.marks := rfl
@[simp] theorem State.dropCached_objects (s : State) (rs : List RegionId) : (s.dropCached rs).objects = s.objects := rfl
@[simp] theorem State.dropCached_later (s : State) (rs : List RegionId) : (s.dropCached rs).later = s.later := rfl
@[simp] theorem State.dropCached_gathers (s : State) (rs : List RegionId) : (s.dropCached rs).gathers = s.gathers := rfl
@[simp] theorem State.dropCached_deliveries (s : State) (rs : List RegionId) : (s.dropCached rs).deliveries = s.deliveries := rfl
@[simp] theorem State.dropCached_groups (s : State) (rs : List RegionId) : (s.dropCached rs).groups = s.groups := rfl
@[simp] theorem State.dropCached_cmds (s : State) (rs : List RegionId) : (s.dropCached rs).cmds = s.cmds := rfl
@[simp] theorem State.dropCached_nextId (s : State) (rs : List RegionId) : (s.dropCached rs).nextId = s.nextId := rfl
@[simp] theorem State.dropCached_pubs (s : State) (rs : List RegionId) : (s.dropCached rs).pubs = s.pubs := rfl
@[simp] theorem State.dropCached_judge (s : State) (rs : List RegionId) : (s.dropCached rs).judge = s.judge := rfl
@[simp] theorem State.dropCached_arrivals (s : State) (rs : List RegionId) : (s.dropCached rs).arrivals = s.arrivals := rfl
@[simp] theorem State.dropCached_instances (s : State) (rs : List RegionId) : (s.dropCached rs).instances = s.instances := rfl
@[simp] theorem State.dropCached_msgs (s : State) (rs : List RegionId) : (s.dropCached rs).msgs = s.msgs := rfl
@[simp] theorem State.dropCached_remotes (s : State) (rs : List RegionId) : (s.dropCached rs).remotes = s.remotes := rfl
@[simp] theorem State.dropCached_snaps (s : State) (rs : List RegionId) : (s.dropCached rs).snaps = s.snaps := rfl
@[simp] theorem State.dropCached_runs (s : State) (rs : List RegionId) : (s.dropCached rs).runs = s.runs := rfl
@[simp] theorem State.dropCached_housework (s : State) (rs : List RegionId) : (s.dropCached rs).housework = s.housework := rfl
@[simp] theorem State.dropCached_regions (s : State) (rs : List RegionId) : (s.dropCached rs).regions = s.regions := rfl
@[simp] theorem State.dropCached_requests (s : State) (rs : List RegionId) : (s.dropCached rs).requests = s.requests := rfl
@[simp] theorem State.dropCached_lostPages (s : State) (rs : List RegionId) : (s.dropCached rs).lostPages = s.lostPages := rfl
@[simp] theorem State.dropCached_verified (s : State) (rs : List RegionId) : (s.dropCached rs).verified = s.verified := rfl
@[simp] theorem State.dropCached_served (s : State) (rs : List RegionId) : (s.dropCached rs).served = s.served := rfl
@[simp] theorem State.dropCached_dealt (s : State) (rs : List RegionId) : (s.dropCached rs).dealt = s.dealt := rfl
@[simp] theorem State.dropCached_readied (s : State) (rs : List RegionId) : (s.dropCached rs).readied = s.readied := rfl
@[simp] theorem State.dropCached_rootLogs (s : State) (rs : List RegionId) : (s.dropCached rs).rootLogs = s.rootLogs := rfl
@[simp] theorem State.dropCached_device (s : State) (rs : List RegionId) : (s.dropCached rs).device = s.device := rfl
@[simp] theorem State.dropCached_inputs (s : State) (rs : List RegionId) : (s.dropCached rs).inputs = s.inputs := rfl
@[simp] theorem State.dropCached_stores (s : State) (rs : List RegionId) : (s.dropCached rs).stores = s.stores := rfl
@[simp] theorem State.dropCached_sensors (s : State) (rs : List RegionId) : (s.dropCached rs).sensors = s.sensors := rfl
@[simp] theorem State.dropCached_corrupt (s : State) (rs : List RegionId) : (s.dropCached rs).corrupt = s.corrupt := rfl
@[simp] theorem State.dropCached_outbox (s : State) (rs : List RegionId) : (s.dropCached rs).outbox = s.outbox := rfl

/-! ## State.spill -/

@[simp] theorem State.spill_core (s : State) (cs : List Nat) : (s.spill cs).core = s.core := rfl
@[simp] theorem State.spill_others (s : State) (cs : List Nat) : (s.spill cs).others = s.others := rfl
@[simp] theorem State.spill_now (s : State) (cs : List Nat) : (s.spill cs).now = s.now := rfl
@[simp] theorem State.spill_free (s : State) (cs : List Nat) : (s.spill cs).free = s.free + s.msgs.length := rfl
@[simp] theorem State.spill_mem (s : State) (cs : List Nat) : (s.spill cs).mem = s.mem := rfl
@[simp] theorem State.spill_scrub (s : State) (cs : List Nat) : (s.spill cs).scrub = s.scrub := rfl
@[simp] theorem State.spill_poison (s : State) (cs : List Nat) : (s.spill cs).poison = s.poison := rfl
@[simp] theorem State.spill_remap (s : State) (cs : List Nat) : (s.spill cs).remap = s.remap := rfl
@[simp] theorem State.spill_versions (s : State) (cs : List Nat) : (s.spill cs).versions = s.versions := rfl
@[simp] theorem State.spill_compressed (s : State) (cs : List Nat) : (s.spill cs).compressed = s.compressed := rfl
@[simp] theorem State.spill_nextFrame (s : State) (cs : List Nat) : (s.spill cs).nextFrame = s.nextFrame := rfl
@[simp] theorem State.spill_tcache (s : State) (cs : List Nat) : (s.spill cs).tcache = s.tcache := rfl
@[simp] theorem State.spill_engines (s : State) (cs : List Nat) : (s.spill cs).engines = s.engines := rfl
@[simp] theorem State.spill_marks (s : State) (cs : List Nat) : (s.spill cs).marks = s.marks := rfl
@[simp] theorem State.spill_objects (s : State) (cs : List Nat) : (s.spill cs).objects = s.objects := rfl
@[simp] theorem State.spill_later (s : State) (cs : List Nat) : (s.spill cs).later = s.later := rfl
@[simp] theorem State.spill_gathers (s : State) (cs : List Nat) : (s.spill cs).gathers = s.gathers := rfl
@[simp] theorem State.spill_deliveries (s : State) (cs : List Nat) : (s.spill cs).deliveries = s.deliveries := rfl
@[simp] theorem State.spill_groups (s : State) (cs : List Nat) : (s.spill cs).groups = s.groups := rfl
@[simp] theorem State.spill_cmds (s : State) (cs : List Nat) : (s.spill cs).cmds = s.cmds := rfl
@[simp] theorem State.spill_nextId (s : State) (cs : List Nat) : (s.spill cs).nextId = s.nextId := rfl
@[simp] theorem State.spill_pubs (s : State) (cs : List Nat) : (s.spill cs).pubs = s.pubs := rfl
@[simp] theorem State.spill_judge (s : State) (cs : List Nat) : (s.spill cs).judge = s.judge := rfl
@[simp] theorem State.spill_arrivals (s : State) (cs : List Nat) : (s.spill cs).arrivals = s.arrivals := rfl
@[simp] theorem State.spill_instances (s : State) (cs : List Nat) : (s.spill cs).instances = s.instances := rfl
@[simp] theorem State.spill_remotes (s : State) (cs : List Nat) : (s.spill cs).remotes = s.remotes := rfl
@[simp] theorem State.spill_snaps (s : State) (cs : List Nat) : (s.spill cs).snaps = s.snaps := rfl
@[simp] theorem State.spill_runs (s : State) (cs : List Nat) : (s.spill cs).runs = s.runs := rfl
@[simp] theorem State.spill_housework (s : State) (cs : List Nat) : (s.spill cs).housework = s.housework := rfl
@[simp] theorem State.spill_regions (s : State) (cs : List Nat) : (s.spill cs).regions = s.regions := rfl
@[simp] theorem State.spill_requests (s : State) (cs : List Nat) : (s.spill cs).requests = s.requests := rfl
@[simp] theorem State.spill_lostPages (s : State) (cs : List Nat) : (s.spill cs).lostPages = s.lostPages := rfl
@[simp] theorem State.spill_verified (s : State) (cs : List Nat) : (s.spill cs).verified = s.verified := rfl
@[simp] theorem State.spill_served (s : State) (cs : List Nat) : (s.spill cs).served = s.served := rfl
@[simp] theorem State.spill_dealt (s : State) (cs : List Nat) : (s.spill cs).dealt = s.dealt := rfl
@[simp] theorem State.spill_readied (s : State) (cs : List Nat) : (s.spill cs).readied = s.readied := rfl
@[simp] theorem State.spill_rootLogs (s : State) (cs : List Nat) : (s.spill cs).rootLogs = s.rootLogs := rfl
@[simp] theorem State.spill_device (s : State) (cs : List Nat) : (s.spill cs).device = s.device := rfl
@[simp] theorem State.spill_inputs (s : State) (cs : List Nat) : (s.spill cs).inputs = s.inputs := rfl
@[simp] theorem State.spill_stores (s : State) (cs : List Nat) : (s.spill cs).stores = s.stores := rfl
@[simp] theorem State.spill_sensors (s : State) (cs : List Nat) : (s.spill cs).sensors = s.sensors := rfl
@[simp] theorem State.spill_corrupt (s : State) (cs : List Nat) : (s.spill cs).corrupt = s.corrupt := rfl
@[simp] theorem State.spill_outbox (s : State) (cs : List Nat) : (s.spill cs).outbox = s.outbox := rfl

/-! ## State.unspill -/

@[simp] theorem State.unspill_core (s : State) (cs : List Nat) : (s.unspill cs).core = s.core := rfl
@[simp] theorem State.unspill_others (s : State) (cs : List Nat) : (s.unspill cs).others = s.others := rfl
@[simp] theorem State.unspill_now (s : State) (cs : List Nat) : (s.unspill cs).now = s.now := rfl
@[simp] theorem State.unspill_free (s : State) (cs : List Nat) : (s.unspill cs).free = s.free := rfl
@[simp] theorem State.unspill_mem (s : State) (cs : List Nat) : (s.unspill cs).mem = s.mem := rfl
@[simp] theorem State.unspill_scrub (s : State) (cs : List Nat) : (s.unspill cs).scrub = s.scrub := rfl
@[simp] theorem State.unspill_poison (s : State) (cs : List Nat) : (s.unspill cs).poison = s.poison := rfl
@[simp] theorem State.unspill_remap (s : State) (cs : List Nat) : (s.unspill cs).remap = s.remap := rfl
@[simp] theorem State.unspill_versions (s : State) (cs : List Nat) : (s.unspill cs).versions = s.versions := rfl
@[simp] theorem State.unspill_compressed (s : State) (cs : List Nat) : (s.unspill cs).compressed = s.compressed := rfl
@[simp] theorem State.unspill_nextFrame (s : State) (cs : List Nat) : (s.unspill cs).nextFrame = s.nextFrame := rfl
@[simp] theorem State.unspill_tcache (s : State) (cs : List Nat) : (s.unspill cs).tcache = s.tcache := rfl
@[simp] theorem State.unspill_engines (s : State) (cs : List Nat) : (s.unspill cs).engines = s.engines := rfl
@[simp] theorem State.unspill_marks (s : State) (cs : List Nat) : (s.unspill cs).marks = s.marks := rfl
@[simp] theorem State.unspill_objects (s : State) (cs : List Nat) : (s.unspill cs).objects = s.objects := rfl
@[simp] theorem State.unspill_later (s : State) (cs : List Nat) : (s.unspill cs).later = s.later := rfl
@[simp] theorem State.unspill_gathers (s : State) (cs : List Nat) : (s.unspill cs).gathers = s.gathers := rfl
@[simp] theorem State.unspill_deliveries (s : State) (cs : List Nat) : (s.unspill cs).deliveries = s.deliveries := rfl
@[simp] theorem State.unspill_groups (s : State) (cs : List Nat) : (s.unspill cs).groups = s.groups := rfl
@[simp] theorem State.unspill_cmds (s : State) (cs : List Nat) : (s.unspill cs).cmds = s.cmds := rfl
@[simp] theorem State.unspill_nextId (s : State) (cs : List Nat) : (s.unspill cs).nextId = s.nextId := rfl
@[simp] theorem State.unspill_pubs (s : State) (cs : List Nat) : (s.unspill cs).pubs = s.pubs := rfl
@[simp] theorem State.unspill_judge (s : State) (cs : List Nat) : (s.unspill cs).judge = s.judge := rfl
@[simp] theorem State.unspill_arrivals (s : State) (cs : List Nat) : (s.unspill cs).arrivals = s.arrivals := rfl
@[simp] theorem State.unspill_instances (s : State) (cs : List Nat) : (s.unspill cs).instances = s.instances := rfl
@[simp] theorem State.unspill_remotes (s : State) (cs : List Nat) : (s.unspill cs).remotes = s.remotes := rfl
@[simp] theorem State.unspill_snaps (s : State) (cs : List Nat) : (s.unspill cs).snaps = s.snaps := rfl
@[simp] theorem State.unspill_runs (s : State) (cs : List Nat) : (s.unspill cs).runs = s.runs := rfl
@[simp] theorem State.unspill_housework (s : State) (cs : List Nat) : (s.unspill cs).housework = s.housework := rfl
@[simp] theorem State.unspill_regions (s : State) (cs : List Nat) : (s.unspill cs).regions = s.regions := rfl
@[simp] theorem State.unspill_requests (s : State) (cs : List Nat) : (s.unspill cs).requests = s.requests := rfl
@[simp] theorem State.unspill_lostPages (s : State) (cs : List Nat) : (s.unspill cs).lostPages = s.lostPages := rfl
@[simp] theorem State.unspill_verified (s : State) (cs : List Nat) : (s.unspill cs).verified = s.verified := rfl
@[simp] theorem State.unspill_served (s : State) (cs : List Nat) : (s.unspill cs).served = s.served := rfl
@[simp] theorem State.unspill_dealt (s : State) (cs : List Nat) : (s.unspill cs).dealt = s.dealt := rfl
@[simp] theorem State.unspill_readied (s : State) (cs : List Nat) : (s.unspill cs).readied = s.readied := rfl
@[simp] theorem State.unspill_rootLogs (s : State) (cs : List Nat) : (s.unspill cs).rootLogs = s.rootLogs := rfl
@[simp] theorem State.unspill_device (s : State) (cs : List Nat) : (s.unspill cs).device = s.device := rfl
@[simp] theorem State.unspill_inputs (s : State) (cs : List Nat) : (s.unspill cs).inputs = s.inputs := rfl
@[simp] theorem State.unspill_stores (s : State) (cs : List Nat) : (s.unspill cs).stores = s.stores := rfl
@[simp] theorem State.unspill_sensors (s : State) (cs : List Nat) : (s.unspill cs).sensors = s.sensors := rfl
@[simp] theorem State.unspill_corrupt (s : State) (cs : List Nat) : (s.unspill cs).corrupt = s.corrupt := rfl
@[simp] theorem State.unspill_outbox (s : State) (cs : List Nat) : (s.unspill cs).outbox = s.outbox := rfl

/-! ## State.fastDies -/

@[simp] theorem State.fastDies_core (s : State) (w : Nat → Bool) : (s.fastDies w).core = s.core := rfl
@[simp] theorem State.fastDies_others (s : State) (w : Nat → Bool) : (s.fastDies w).others = s.others := rfl
@[simp] theorem State.fastDies_now (s : State) (w : Nat → Bool) : (s.fastDies w).now = s.now := rfl
@[simp] theorem State.fastDies_free (s : State) (w : Nat → Bool) : (s.fastDies w).free = s.free := rfl
@[simp] theorem State.fastDies_mem (s : State) (w : Nat → Bool) : (s.fastDies w).mem = s.mem := rfl
@[simp] theorem State.fastDies_scrub (s : State) (w : Nat → Bool) : (s.fastDies w).scrub = s.scrub := rfl
@[simp] theorem State.fastDies_poison (s : State) (w : Nat → Bool) : (s.fastDies w).poison = s.poison := rfl
@[simp] theorem State.fastDies_remap (s : State) (w : Nat → Bool) : (s.fastDies w).remap = s.remap := rfl
@[simp] theorem State.fastDies_versions (s : State) (w : Nat → Bool) : (s.fastDies w).versions = s.versions := rfl
@[simp] theorem State.fastDies_compressed (s : State) (w : Nat → Bool) : (s.fastDies w).compressed = s.compressed := rfl
@[simp] theorem State.fastDies_nextFrame (s : State) (w : Nat → Bool) : (s.fastDies w).nextFrame = s.nextFrame := rfl
@[simp] theorem State.fastDies_tcache (s : State) (w : Nat → Bool) : (s.fastDies w).tcache = s.tcache := rfl
@[simp] theorem State.fastDies_engines (s : State) (w : Nat → Bool) : (s.fastDies w).engines = s.engines := rfl
@[simp] theorem State.fastDies_marks (s : State) (w : Nat → Bool) : (s.fastDies w).marks = s.marks := rfl
@[simp] theorem State.fastDies_objects (s : State) (w : Nat → Bool) : (s.fastDies w).objects = s.objects := rfl
@[simp] theorem State.fastDies_later (s : State) (w : Nat → Bool) : (s.fastDies w).later = s.later := rfl
@[simp] theorem State.fastDies_gathers (s : State) (w : Nat → Bool) : (s.fastDies w).gathers = s.gathers := rfl
@[simp] theorem State.fastDies_deliveries (s : State) (w : Nat → Bool) : (s.fastDies w).deliveries = s.deliveries := rfl
@[simp] theorem State.fastDies_groups (s : State) (w : Nat → Bool) : (s.fastDies w).groups = s.groups := rfl
@[simp] theorem State.fastDies_cmds (s : State) (w : Nat → Bool) : (s.fastDies w).cmds = s.cmds := rfl
@[simp] theorem State.fastDies_nextId (s : State) (w : Nat → Bool) : (s.fastDies w).nextId = s.nextId := rfl
@[simp] theorem State.fastDies_pubs (s : State) (w : Nat → Bool) : (s.fastDies w).pubs = s.pubs := rfl
@[simp] theorem State.fastDies_judge (s : State) (w : Nat → Bool) : (s.fastDies w).judge = s.judge := rfl
@[simp] theorem State.fastDies_arrivals (s : State) (w : Nat → Bool) : (s.fastDies w).arrivals = s.arrivals := rfl
@[simp] theorem State.fastDies_instances (s : State) (w : Nat → Bool) : (s.fastDies w).instances = s.instances := rfl
@[simp] theorem State.fastDies_msgs (s : State) (w : Nat → Bool) : (s.fastDies w).msgs = s.msgs := rfl
@[simp] theorem State.fastDies_remotes (s : State) (w : Nat → Bool) : (s.fastDies w).remotes = s.remotes := rfl
@[simp] theorem State.fastDies_snaps (s : State) (w : Nat → Bool) : (s.fastDies w).snaps = s.snaps := rfl
@[simp] theorem State.fastDies_runs (s : State) (w : Nat → Bool) : (s.fastDies w).runs = s.runs := rfl
@[simp] theorem State.fastDies_housework (s : State) (w : Nat → Bool) : (s.fastDies w).housework = s.housework := rfl
@[simp] theorem State.fastDies_regions (s : State) (w : Nat → Bool) : (s.fastDies w).regions = s.regions := rfl
@[simp] theorem State.fastDies_requests (s : State) (w : Nat → Bool) : (s.fastDies w).requests = s.requests := rfl
@[simp] theorem State.fastDies_lostPages (s : State) (w : Nat → Bool) : (s.fastDies w).lostPages = s.lostPages := rfl
@[simp] theorem State.fastDies_verified (s : State) (w : Nat → Bool) : (s.fastDies w).verified = s.verified := rfl
@[simp] theorem State.fastDies_served (s : State) (w : Nat → Bool) : (s.fastDies w).served = s.served := rfl
@[simp] theorem State.fastDies_dealt (s : State) (w : Nat → Bool) : (s.fastDies w).dealt = s.dealt := rfl
@[simp] theorem State.fastDies_readied (s : State) (w : Nat → Bool) : (s.fastDies w).readied = s.readied := rfl
@[simp] theorem State.fastDies_rootLogs (s : State) (w : Nat → Bool) : (s.fastDies w).rootLogs = s.rootLogs := rfl
@[simp] theorem State.fastDies_inputs (s : State) (w : Nat → Bool) : (s.fastDies w).inputs = s.inputs := rfl
@[simp] theorem State.fastDies_stores (s : State) (w : Nat → Bool) : (s.fastDies w).stores = s.stores := rfl
@[simp] theorem State.fastDies_sensors (s : State) (w : Nat → Bool) : (s.fastDies w).sensors = s.sensors := rfl
@[simp] theorem State.fastDies_corrupt (s : State) (w : Nat → Bool) : (s.fastDies w).corrupt = s.corrupt := rfl
@[simp] theorem State.fastDies_outbox (s : State) (w : Nat → Bool) : (s.fastDies w).outbox = s.outbox := rfl

/-! ## State.lose -/

@[simp] theorem State.lose_core (s : State) (ps : List Nat) : (s.lose ps).core = s.core := rfl
@[simp] theorem State.lose_others (s : State) (ps : List Nat) : (s.lose ps).others = s.others := rfl
@[simp] theorem State.lose_now (s : State) (ps : List Nat) : (s.lose ps).now = s.now := rfl
@[simp] theorem State.lose_free (s : State) (ps : List Nat) : (s.lose ps).free = s.free := rfl
@[simp] theorem State.lose_mem (s : State) (ps : List Nat) : (s.lose ps).mem = s.mem := rfl
@[simp] theorem State.lose_scrub (s : State) (ps : List Nat) : (s.lose ps).scrub = s.scrub := rfl
@[simp] theorem State.lose_poison (s : State) (ps : List Nat) : (s.lose ps).poison = s.poison := rfl
@[simp] theorem State.lose_remap (s : State) (ps : List Nat) : (s.lose ps).remap = s.remap := rfl
@[simp] theorem State.lose_versions (s : State) (ps : List Nat) : (s.lose ps).versions = s.versions := rfl
@[simp] theorem State.lose_compressed (s : State) (ps : List Nat) : (s.lose ps).compressed = s.compressed := rfl
@[simp] theorem State.lose_nextFrame (s : State) (ps : List Nat) : (s.lose ps).nextFrame = s.nextFrame := rfl
@[simp] theorem State.lose_tcache (s : State) (ps : List Nat) : (s.lose ps).tcache = s.tcache := rfl
@[simp] theorem State.lose_engines (s : State) (ps : List Nat) : (s.lose ps).engines = s.engines := rfl
@[simp] theorem State.lose_marks (s : State) (ps : List Nat) : (s.lose ps).marks = s.marks := rfl
@[simp] theorem State.lose_objects (s : State) (ps : List Nat) : (s.lose ps).objects = s.objects := rfl
@[simp] theorem State.lose_later (s : State) (ps : List Nat) : (s.lose ps).later = s.later := rfl
@[simp] theorem State.lose_gathers (s : State) (ps : List Nat) : (s.lose ps).gathers = s.gathers := rfl
@[simp] theorem State.lose_deliveries (s : State) (ps : List Nat) : (s.lose ps).deliveries = s.deliveries := rfl
@[simp] theorem State.lose_groups (s : State) (ps : List Nat) : (s.lose ps).groups = s.groups := rfl
@[simp] theorem State.lose_cmds (s : State) (ps : List Nat) : (s.lose ps).cmds = s.cmds := rfl
@[simp] theorem State.lose_nextId (s : State) (ps : List Nat) : (s.lose ps).nextId = s.nextId := rfl
@[simp] theorem State.lose_pubs (s : State) (ps : List Nat) : (s.lose ps).pubs = s.pubs := rfl
@[simp] theorem State.lose_judge (s : State) (ps : List Nat) : (s.lose ps).judge = s.judge := rfl
@[simp] theorem State.lose_arrivals (s : State) (ps : List Nat) : (s.lose ps).arrivals = s.arrivals := rfl
@[simp] theorem State.lose_instances (s : State) (ps : List Nat) : (s.lose ps).instances = s.instances := rfl
@[simp] theorem State.lose_msgs (s : State) (ps : List Nat) : (s.lose ps).msgs = s.msgs := rfl
@[simp] theorem State.lose_remotes (s : State) (ps : List Nat) : (s.lose ps).remotes = s.remotes := rfl
@[simp] theorem State.lose_snaps (s : State) (ps : List Nat) : (s.lose ps).snaps = s.snaps := rfl
@[simp] theorem State.lose_runs (s : State) (ps : List Nat) : (s.lose ps).runs = s.runs := rfl
@[simp] theorem State.lose_housework (s : State) (ps : List Nat) : (s.lose ps).housework = s.housework := rfl
@[simp] theorem State.lose_requests (s : State) (ps : List Nat) : (s.lose ps).requests = s.requests := rfl
@[simp] theorem State.lose_verified (s : State) (ps : List Nat) : (s.lose ps).verified = s.verified := rfl
@[simp] theorem State.lose_served (s : State) (ps : List Nat) : (s.lose ps).served = s.served := rfl
@[simp] theorem State.lose_dealt (s : State) (ps : List Nat) : (s.lose ps).dealt = s.dealt := rfl
@[simp] theorem State.lose_readied (s : State) (ps : List Nat) : (s.lose ps).readied = s.readied := rfl
@[simp] theorem State.lose_rootLogs (s : State) (ps : List Nat) : (s.lose ps).rootLogs = s.rootLogs := rfl
@[simp] theorem State.lose_device (s : State) (ps : List Nat) : (s.lose ps).device = s.device := rfl
@[simp] theorem State.lose_inputs (s : State) (ps : List Nat) : (s.lose ps).inputs = s.inputs := rfl
@[simp] theorem State.lose_stores (s : State) (ps : List Nat) : (s.lose ps).stores = s.stores := rfl
@[simp] theorem State.lose_sensors (s : State) (ps : List Nat) : (s.lose ps).sensors = s.sensors := rfl
@[simp] theorem State.lose_corrupt (s : State) (ps : List Nat) : (s.lose ps).corrupt = s.corrupt := rfl
@[simp] theorem State.lose_outbox (s : State) (ps : List Nat) : (s.lose ps).outbox = s.outbox := rfl

/-! ## State.dropPacket -/

@[simp] theorem State.dropPacket_core (s : State) (p : Packet) : (s.dropPacket p).core = s.core := rfl
@[simp] theorem State.dropPacket_others (s : State) (p : Packet) : (s.dropPacket p).others = s.others := rfl
@[simp] theorem State.dropPacket_now (s : State) (p : Packet) : (s.dropPacket p).now = s.now := rfl
@[simp] theorem State.dropPacket_free (s : State) (p : Packet) : (s.dropPacket p).free = s.free := rfl
@[simp] theorem State.dropPacket_mem (s : State) (p : Packet) : (s.dropPacket p).mem = s.mem := rfl
@[simp] theorem State.dropPacket_scrub (s : State) (p : Packet) : (s.dropPacket p).scrub = s.scrub := rfl
@[simp] theorem State.dropPacket_poison (s : State) (p : Packet) : (s.dropPacket p).poison = s.poison := rfl
@[simp] theorem State.dropPacket_remap (s : State) (p : Packet) : (s.dropPacket p).remap = s.remap := rfl
@[simp] theorem State.dropPacket_versions (s : State) (p : Packet) : (s.dropPacket p).versions = s.versions := rfl
@[simp] theorem State.dropPacket_compressed (s : State) (p : Packet) : (s.dropPacket p).compressed = s.compressed := rfl
@[simp] theorem State.dropPacket_nextFrame (s : State) (p : Packet) : (s.dropPacket p).nextFrame = s.nextFrame := rfl
@[simp] theorem State.dropPacket_tcache (s : State) (p : Packet) : (s.dropPacket p).tcache = s.tcache := rfl
@[simp] theorem State.dropPacket_engines (s : State) (p : Packet) : (s.dropPacket p).engines = s.engines := rfl
@[simp] theorem State.dropPacket_marks (s : State) (p : Packet) : (s.dropPacket p).marks = s.marks := rfl
@[simp] theorem State.dropPacket_objects (s : State) (p : Packet) : (s.dropPacket p).objects = s.objects := rfl
@[simp] theorem State.dropPacket_later (s : State) (p : Packet) : (s.dropPacket p).later = s.later := rfl
@[simp] theorem State.dropPacket_gathers (s : State) (p : Packet) : (s.dropPacket p).gathers = s.gathers := rfl
@[simp] theorem State.dropPacket_deliveries (s : State) (p : Packet) : (s.dropPacket p).deliveries = s.deliveries := rfl
@[simp] theorem State.dropPacket_groups (s : State) (p : Packet) : (s.dropPacket p).groups = s.groups := rfl
@[simp] theorem State.dropPacket_cmds (s : State) (p : Packet) : (s.dropPacket p).cmds = s.cmds := rfl
@[simp] theorem State.dropPacket_nextId (s : State) (p : Packet) : (s.dropPacket p).nextId = s.nextId := rfl
@[simp] theorem State.dropPacket_pubs (s : State) (p : Packet) : (s.dropPacket p).pubs = s.pubs := rfl
@[simp] theorem State.dropPacket_judge (s : State) (p : Packet) : (s.dropPacket p).judge = s.judge := rfl
@[simp] theorem State.dropPacket_arrivals (s : State) (p : Packet) : (s.dropPacket p).arrivals = s.arrivals := rfl
@[simp] theorem State.dropPacket_instances (s : State) (p : Packet) : (s.dropPacket p).instances = s.instances := rfl
@[simp] theorem State.dropPacket_msgs (s : State) (p : Packet) : (s.dropPacket p).msgs = s.msgs := rfl
@[simp] theorem State.dropPacket_remotes (s : State) (p : Packet) : (s.dropPacket p).remotes = s.remotes := rfl
@[simp] theorem State.dropPacket_snaps (s : State) (p : Packet) : (s.dropPacket p).snaps = s.snaps := rfl
@[simp] theorem State.dropPacket_runs (s : State) (p : Packet) : (s.dropPacket p).runs = s.runs := rfl
@[simp] theorem State.dropPacket_housework (s : State) (p : Packet) : (s.dropPacket p).housework = s.housework := rfl
@[simp] theorem State.dropPacket_regions (s : State) (p : Packet) : (s.dropPacket p).regions = s.regions := rfl
@[simp] theorem State.dropPacket_requests (s : State) (p : Packet) : (s.dropPacket p).requests = s.requests := rfl
@[simp] theorem State.dropPacket_lostPages (s : State) (p : Packet) : (s.dropPacket p).lostPages = s.lostPages := rfl
@[simp] theorem State.dropPacket_verified (s : State) (p : Packet) : (s.dropPacket p).verified = s.verified := rfl
@[simp] theorem State.dropPacket_served (s : State) (p : Packet) : (s.dropPacket p).served = s.served := rfl
@[simp] theorem State.dropPacket_dealt (s : State) (p : Packet) : (s.dropPacket p).dealt = s.dealt := rfl
@[simp] theorem State.dropPacket_readied (s : State) (p : Packet) : (s.dropPacket p).readied = s.readied := rfl
@[simp] theorem State.dropPacket_rootLogs (s : State) (p : Packet) : (s.dropPacket p).rootLogs = s.rootLogs := rfl
@[simp] theorem State.dropPacket_inputs (s : State) (p : Packet) : (s.dropPacket p).inputs = s.inputs := rfl
@[simp] theorem State.dropPacket_stores (s : State) (p : Packet) : (s.dropPacket p).stores = s.stores := rfl
@[simp] theorem State.dropPacket_sensors (s : State) (p : Packet) : (s.dropPacket p).sensors = s.sensors := rfl
@[simp] theorem State.dropPacket_corrupt (s : State) (p : Packet) : (s.dropPacket p).corrupt = s.corrupt := rfl
@[simp] theorem State.dropPacket_outbox (s : State) (p : Packet) : (s.dropPacket p).outbox = s.outbox := rfl

/-! ## State.advance -/

@[simp] theorem State.advance_others (s : State) (n : Nat) : (s.advance n).others = s.others := rfl
@[simp] theorem State.advance_now (s : State) (n : Nat) : (s.advance n).now = s.now := rfl
@[simp] theorem State.advance_free (s : State) (n : Nat) : (s.advance n).free = s.free := rfl
@[simp] theorem State.advance_mem (s : State) (n : Nat) : (s.advance n).mem = s.mem := rfl
@[simp] theorem State.advance_scrub (s : State) (n : Nat) : (s.advance n).scrub = s.scrub := rfl
@[simp] theorem State.advance_poison (s : State) (n : Nat) : (s.advance n).poison = s.poison := rfl
@[simp] theorem State.advance_remap (s : State) (n : Nat) : (s.advance n).remap = s.remap := rfl
@[simp] theorem State.advance_versions (s : State) (n : Nat) : (s.advance n).versions = s.versions := rfl
@[simp] theorem State.advance_compressed (s : State) (n : Nat) : (s.advance n).compressed = s.compressed := rfl
@[simp] theorem State.advance_nextFrame (s : State) (n : Nat) : (s.advance n).nextFrame = s.nextFrame := rfl
@[simp] theorem State.advance_tcache (s : State) (n : Nat) : (s.advance n).tcache = s.tcache := rfl
@[simp] theorem State.advance_engines (s : State) (n : Nat) : (s.advance n).engines = s.engines := rfl
@[simp] theorem State.advance_marks (s : State) (n : Nat) : (s.advance n).marks = s.marks := rfl
@[simp] theorem State.advance_objects (s : State) (n : Nat) : (s.advance n).objects = s.objects := rfl
@[simp] theorem State.advance_later (s : State) (n : Nat) : (s.advance n).later = s.later := rfl
@[simp] theorem State.advance_gathers (s : State) (n : Nat) : (s.advance n).gathers = s.gathers := rfl
@[simp] theorem State.advance_deliveries (s : State) (n : Nat) : (s.advance n).deliveries = s.deliveries := rfl
@[simp] theorem State.advance_groups (s : State) (n : Nat) : (s.advance n).groups = s.groups := rfl
@[simp] theorem State.advance_cmds (s : State) (n : Nat) : (s.advance n).cmds = s.cmds := rfl
@[simp] theorem State.advance_nextId (s : State) (n : Nat) : (s.advance n).nextId = s.nextId := rfl
@[simp] theorem State.advance_pubs (s : State) (n : Nat) : (s.advance n).pubs = s.pubs := rfl
@[simp] theorem State.advance_judge (s : State) (n : Nat) : (s.advance n).judge = s.judge := rfl
@[simp] theorem State.advance_arrivals (s : State) (n : Nat) : (s.advance n).arrivals = s.arrivals := rfl
@[simp] theorem State.advance_instances (s : State) (n : Nat) : (s.advance n).instances = s.instances := rfl
@[simp] theorem State.advance_msgs (s : State) (n : Nat) : (s.advance n).msgs = s.msgs := rfl
@[simp] theorem State.advance_remotes (s : State) (n : Nat) : (s.advance n).remotes = s.remotes := rfl
@[simp] theorem State.advance_snaps (s : State) (n : Nat) : (s.advance n).snaps = s.snaps := rfl
@[simp] theorem State.advance_runs (s : State) (n : Nat) : (s.advance n).runs = s.runs := rfl
@[simp] theorem State.advance_housework (s : State) (n : Nat) : (s.advance n).housework = s.housework := rfl
@[simp] theorem State.advance_regions (s : State) (n : Nat) : (s.advance n).regions = s.regions := rfl
@[simp] theorem State.advance_requests (s : State) (n : Nat) : (s.advance n).requests = s.requests := rfl
@[simp] theorem State.advance_lostPages (s : State) (n : Nat) : (s.advance n).lostPages = s.lostPages := rfl
@[simp] theorem State.advance_verified (s : State) (n : Nat) : (s.advance n).verified = s.verified := rfl
@[simp] theorem State.advance_served (s : State) (n : Nat) : (s.advance n).served = s.served := rfl
@[simp] theorem State.advance_dealt (s : State) (n : Nat) : (s.advance n).dealt = s.dealt := rfl
@[simp] theorem State.advance_readied (s : State) (n : Nat) : (s.advance n).readied = s.readied := rfl
@[simp] theorem State.advance_rootLogs (s : State) (n : Nat) : (s.advance n).rootLogs = s.rootLogs := rfl
@[simp] theorem State.advance_device (s : State) (n : Nat) : (s.advance n).device = s.device := rfl
@[simp] theorem State.advance_inputs (s : State) (n : Nat) : (s.advance n).inputs = s.inputs := rfl
@[simp] theorem State.advance_stores (s : State) (n : Nat) : (s.advance n).stores = s.stores := rfl
@[simp] theorem State.advance_sensors (s : State) (n : Nat) : (s.advance n).sensors = s.sensors := rfl
@[simp] theorem State.advance_corrupt (s : State) (n : Nat) : (s.advance n).corrupt = s.corrupt := rfl
@[simp] theorem State.advance_outbox (s : State) (n : Nat) : (s.advance n).outbox = s.outbox := rfl
@[simp] theorem State.advance_core_pos (s : State) (n : Nat) : (s.advance n).core.pos = s.core.pos := rfl
@[simp] theorem State.advance_core_g (s : State) (n : Nat) : (s.advance n).core.g = s.core.g := rfl
@[simp] theorem State.advance_core_v (s : State) (n : Nat) : (s.advance n).core.v = s.core.v := rfl
@[simp] theorem State.advance_core_m (s : State) (n : Nat) : (s.advance n).core.m = s.core.m := rfl
@[simp] theorem State.advance_core_t (s : State) (n : Nat) : (s.advance n).core.t = s.core.t := rfl
@[simp] theorem State.advance_core_vtag (s : State) (n : Nat) : (s.advance n).core.vtag = s.core.vtag := rfl
@[simp] theorem State.advance_core_ttag (s : State) (n : Nat) : (s.advance n).core.ttag = s.core.ttag := rfl
@[simp] theorem State.advance_core_pc (s : State) (n : Nat) : (s.advance n).core.pc = s.core.pc + BitVec.ofNat 64 n := rfl
@[simp] theorem State.advance_core_cwp (s : State) (n : Nat) : (s.advance n).core.cwp = s.core.cwp := rfl
@[simp] theorem State.advance_core_xpc (s : State) (n : Nat) : (s.advance n).core.xpc = s.core.xpc := rfl
@[simp] theorem State.advance_core_xcause (s : State) (n : Nat) : (s.advance n).core.xcause = s.core.xcause := rfl
@[simp] theorem State.advance_core_xval (s : State) (n : Nat) : (s.advance n).core.xval = s.core.xval := rfl
@[simp] theorem State.advance_core_xscratch (s : State) (n : Nat) : (s.advance n).core.xscratch = s.core.xscratch := rfl
@[simp] theorem State.advance_core_timed (s : State) (n : Nat) : (s.advance n).core.timed = s.core.timed := rfl
@[simp] theorem State.advance_core_inh (s : State) (n : Nat) : (s.advance n).core.inh = s.core.inh := rfl
@[simp] theorem State.advance_core_dbg (s : State) (n : Nat) : (s.advance n).core.dbg = false := rfl
@[simp] theorem State.advance_core_cseg (s : State) (n : Nat) : (s.advance n).core.cseg = s.core.cseg := rfl
@[simp] theorem State.advance_core_segFrom (s : State) (n : Nat) : (s.advance n).core.segFrom = s.core.segFrom := rfl
@[simp] theorem State.advance_core_crb (s : State) (n : Nat) : (s.advance n).core.crb = s.core.crb := rfl
@[simp] theorem State.advance_core_csat (s : State) (n : Nat) : (s.advance n).core.csat = s.core.csat := rfl
@[simp] theorem State.advance_core_crnd (s : State) (n : Nat) : (s.advance n).core.crnd = s.core.crnd := rfl
@[simp] theorem State.advance_core_suit (s : State) (n : Nat) : (s.advance n).core.suit = s.core.suit := rfl
@[simp] theorem State.advance_core_cbatch (s : State) (n : Nat) : (s.advance n).core.cbatch = s.core.cbatch := rfl
@[simp] theorem State.advance_core_lx (s : State) (n : Nat) : (s.advance n).core.lx = s.core.lx := rfl
@[simp] theorem State.advance_core_ly (s : State) (n : Nat) : (s.advance n).core.ly = s.core.ly := rfl
@[simp] theorem State.advance_core_lw (s : State) (n : Nat) : (s.advance n).core.lw = s.core.lw := rfl
@[simp] theorem State.advance_core_lh (s : State) (n : Nat) : (s.advance n).core.lh = s.core.lh := rfl
@[simp] theorem State.advance_core_counters (s : State) (n : Nat) : (s.advance n).core.counters = s.core.counters := rfl
@[simp] theorem State.advance_core_gs (s : State) (n : Nat) : (s.advance n).core.gs = s.core.gs := rfl
@[simp] theorem State.advance_core_vs (s : State) (n : Nat) : (s.advance n).core.vs = s.core.vs := rfl
@[simp] theorem State.advance_core_windows (s : State) (n : Nat) : (s.advance n).core.windows = s.core.windows := rfl
@[simp] theorem State.advance_core_flagsDue (s : State) (n : Nat) : (s.advance n).core.flagsDue = s.core.flagsDue := rfl
@[simp] theorem State.advance_core_refetch (s : State) (n : Nat) : (s.advance n).core.refetch = s.core.refetch := rfl
@[simp] theorem State.advance_core_half (s : State) (n : Nat) : (s.advance n).core.half = s.core.half := rfl
@[simp] theorem State.advance_core_draining (s : State) (n : Nat) : (s.advance n).core.draining = s.core.draining := rfl
@[simp] theorem State.advance_core_stopped (s : State) (n : Nat) : (s.advance n).core.stopped = s.core.stopped := rfl
@[simp] theorem State.advance_core_late (s : State) (n : Nat) : (s.advance n).core.late = s.core.late := rfl
@[simp] theorem State.advance_core_popped (s : State) (n : Nat) : (s.advance n).core.popped = s.core.popped := rfl
@[simp] theorem State.advance_core_status (s : State) (n : Nat) : (s.advance n).core.status = s.core.status := rfl
@[simp] theorem State.advance_core_readyAt (s : State) (n : Nat) : (s.advance n).core.readyAt = max s.core.readyAt (s.now + s.period s.core.pos) := rfl
@[simp] theorem State.advance_core_ract (s : State) (n : Nat) : (s.advance n).core.ract = s.core.ract := rfl
@[simp] theorem State.advance_core_rtile (s : State) (n : Nat) : (s.advance n).core.rtile = s.core.rtile := rfl
@[simp] theorem State.advance_core_rfull (s : State) (n : Nat) : (s.advance n).core.rfull = s.core.rfull := rfl
@[simp] theorem State.advance_core_follow (s : State) (n : Nat) : (s.advance n).core.follow = s.core.follow := rfl
@[simp] theorem State.advance_core_lead (s : State) (n : Nat) : (s.advance n).core.lead = s.core.lead := rfl
@[simp] theorem State.advance_core_access (s : State) (n : Nat) : (s.advance n).core.access = s.core.access := rfl
@[simp] theorem State.advance_core_batches (s : State) (n : Nat) : (s.advance n).core.batches = s.core.batches := rfl
@[simp] theorem State.advance_core_pending (s : State) (n : Nat) : (s.advance n).core.pending = s.core.pending := rfl
@[simp] theorem State.advance_core_broken (s : State) (n : Nat) : (s.advance n).core.broken = s.core.broken := rfl
@[simp] theorem State.advance_core_held (s : State) (n : Nat) : (s.advance n).core.held = s.core.held := rfl
@[simp] theorem State.advance_core_park (s : State) (n : Nat) : (s.advance n).core.park = s.core.park := rfl
@[simp] theorem State.advance_core_launch (s : State) (n : Nat) : (s.advance n).core.launch = s.core.launch := rfl
@[simp] theorem State.advance_core_posted (s : State) (n : Nat) : (s.advance n).core.posted = s.core.posted := rfl
@[simp] theorem State.advance_core_reflecting (s : State) (n : Nat) : (s.advance n).core.reflecting = s.core.reflecting := rfl

/-! ## State.jump -/

@[simp] theorem State.jump_others (s : State) (x : Word) : (s.jump x).others = s.others := rfl
@[simp] theorem State.jump_now (s : State) (x : Word) : (s.jump x).now = s.now := rfl
@[simp] theorem State.jump_free (s : State) (x : Word) : (s.jump x).free = s.free := rfl
@[simp] theorem State.jump_mem (s : State) (x : Word) : (s.jump x).mem = s.mem := rfl
@[simp] theorem State.jump_scrub (s : State) (x : Word) : (s.jump x).scrub = s.scrub := rfl
@[simp] theorem State.jump_poison (s : State) (x : Word) : (s.jump x).poison = s.poison := rfl
@[simp] theorem State.jump_remap (s : State) (x : Word) : (s.jump x).remap = s.remap := rfl
@[simp] theorem State.jump_versions (s : State) (x : Word) : (s.jump x).versions = s.versions := rfl
@[simp] theorem State.jump_compressed (s : State) (x : Word) : (s.jump x).compressed = s.compressed := rfl
@[simp] theorem State.jump_nextFrame (s : State) (x : Word) : (s.jump x).nextFrame = s.nextFrame := rfl
@[simp] theorem State.jump_tcache (s : State) (x : Word) : (s.jump x).tcache = s.tcache := rfl
@[simp] theorem State.jump_engines (s : State) (x : Word) : (s.jump x).engines = s.engines := rfl
@[simp] theorem State.jump_marks (s : State) (x : Word) : (s.jump x).marks = s.marks := rfl
@[simp] theorem State.jump_objects (s : State) (x : Word) : (s.jump x).objects = s.objects := rfl
@[simp] theorem State.jump_later (s : State) (x : Word) : (s.jump x).later = s.later := rfl
@[simp] theorem State.jump_gathers (s : State) (x : Word) : (s.jump x).gathers = s.gathers := rfl
@[simp] theorem State.jump_deliveries (s : State) (x : Word) : (s.jump x).deliveries = s.deliveries := rfl
@[simp] theorem State.jump_groups (s : State) (x : Word) : (s.jump x).groups = s.groups := rfl
@[simp] theorem State.jump_cmds (s : State) (x : Word) : (s.jump x).cmds = s.cmds := rfl
@[simp] theorem State.jump_nextId (s : State) (x : Word) : (s.jump x).nextId = s.nextId := rfl
@[simp] theorem State.jump_pubs (s : State) (x : Word) : (s.jump x).pubs = s.pubs := rfl
@[simp] theorem State.jump_judge (s : State) (x : Word) : (s.jump x).judge = s.judge := rfl
@[simp] theorem State.jump_arrivals (s : State) (x : Word) : (s.jump x).arrivals = s.arrivals := rfl
@[simp] theorem State.jump_instances (s : State) (x : Word) : (s.jump x).instances = s.instances := rfl
@[simp] theorem State.jump_msgs (s : State) (x : Word) : (s.jump x).msgs = s.msgs := rfl
@[simp] theorem State.jump_remotes (s : State) (x : Word) : (s.jump x).remotes = s.remotes := rfl
@[simp] theorem State.jump_snaps (s : State) (x : Word) : (s.jump x).snaps = s.snaps := rfl
@[simp] theorem State.jump_runs (s : State) (x : Word) : (s.jump x).runs = s.runs := rfl
@[simp] theorem State.jump_housework (s : State) (x : Word) : (s.jump x).housework = s.housework := rfl
@[simp] theorem State.jump_regions (s : State) (x : Word) : (s.jump x).regions = s.regions := rfl
@[simp] theorem State.jump_requests (s : State) (x : Word) : (s.jump x).requests = s.requests := rfl
@[simp] theorem State.jump_lostPages (s : State) (x : Word) : (s.jump x).lostPages = s.lostPages := rfl
@[simp] theorem State.jump_verified (s : State) (x : Word) : (s.jump x).verified = s.verified := rfl
@[simp] theorem State.jump_served (s : State) (x : Word) : (s.jump x).served = s.served := rfl
@[simp] theorem State.jump_dealt (s : State) (x : Word) : (s.jump x).dealt = s.dealt := rfl
@[simp] theorem State.jump_readied (s : State) (x : Word) : (s.jump x).readied = s.readied := rfl
@[simp] theorem State.jump_rootLogs (s : State) (x : Word) : (s.jump x).rootLogs = s.rootLogs := rfl
@[simp] theorem State.jump_device (s : State) (x : Word) : (s.jump x).device = s.device := rfl
@[simp] theorem State.jump_inputs (s : State) (x : Word) : (s.jump x).inputs = s.inputs := rfl
@[simp] theorem State.jump_stores (s : State) (x : Word) : (s.jump x).stores = s.stores := rfl
@[simp] theorem State.jump_sensors (s : State) (x : Word) : (s.jump x).sensors = s.sensors := rfl
@[simp] theorem State.jump_corrupt (s : State) (x : Word) : (s.jump x).corrupt = s.corrupt := rfl
@[simp] theorem State.jump_outbox (s : State) (x : Word) : (s.jump x).outbox = s.outbox := rfl
@[simp] theorem State.jump_core_pos (s : State) (x : Word) : (s.jump x).core.pos = s.core.pos := rfl
@[simp] theorem State.jump_core_g (s : State) (x : Word) : (s.jump x).core.g = s.core.g := rfl
@[simp] theorem State.jump_core_v (s : State) (x : Word) : (s.jump x).core.v = s.core.v := rfl
@[simp] theorem State.jump_core_m (s : State) (x : Word) : (s.jump x).core.m = s.core.m := rfl
@[simp] theorem State.jump_core_t (s : State) (x : Word) : (s.jump x).core.t = s.core.t := rfl
@[simp] theorem State.jump_core_vtag (s : State) (x : Word) : (s.jump x).core.vtag = s.core.vtag := rfl
@[simp] theorem State.jump_core_ttag (s : State) (x : Word) : (s.jump x).core.ttag = s.core.ttag := rfl
@[simp] theorem State.jump_core_pc (s : State) (x : Word) : (s.jump x).core.pc = x := rfl
@[simp] theorem State.jump_core_cwp (s : State) (x : Word) : (s.jump x).core.cwp = s.core.cwp := rfl
@[simp] theorem State.jump_core_xpc (s : State) (x : Word) : (s.jump x).core.xpc = s.core.xpc := rfl
@[simp] theorem State.jump_core_xcause (s : State) (x : Word) : (s.jump x).core.xcause = s.core.xcause := rfl
@[simp] theorem State.jump_core_xval (s : State) (x : Word) : (s.jump x).core.xval = s.core.xval := rfl
@[simp] theorem State.jump_core_xscratch (s : State) (x : Word) : (s.jump x).core.xscratch = s.core.xscratch := rfl
@[simp] theorem State.jump_core_timed (s : State) (x : Word) : (s.jump x).core.timed = s.core.timed := rfl
@[simp] theorem State.jump_core_inh (s : State) (x : Word) : (s.jump x).core.inh = s.core.inh := rfl
@[simp] theorem State.jump_core_dbg (s : State) (x : Word) : (s.jump x).core.dbg = false := rfl
@[simp] theorem State.jump_core_cseg (s : State) (x : Word) : (s.jump x).core.cseg = s.core.cseg := rfl
@[simp] theorem State.jump_core_segFrom (s : State) (x : Word) : (s.jump x).core.segFrom = s.core.segFrom := rfl
@[simp] theorem State.jump_core_crb (s : State) (x : Word) : (s.jump x).core.crb = s.core.crb := rfl
@[simp] theorem State.jump_core_csat (s : State) (x : Word) : (s.jump x).core.csat = s.core.csat := rfl
@[simp] theorem State.jump_core_crnd (s : State) (x : Word) : (s.jump x).core.crnd = s.core.crnd := rfl
@[simp] theorem State.jump_core_suit (s : State) (x : Word) : (s.jump x).core.suit = s.core.suit := rfl
@[simp] theorem State.jump_core_cbatch (s : State) (x : Word) : (s.jump x).core.cbatch = s.core.cbatch := rfl
@[simp] theorem State.jump_core_lx (s : State) (x : Word) : (s.jump x).core.lx = s.core.lx := rfl
@[simp] theorem State.jump_core_ly (s : State) (x : Word) : (s.jump x).core.ly = s.core.ly := rfl
@[simp] theorem State.jump_core_lw (s : State) (x : Word) : (s.jump x).core.lw = s.core.lw := rfl
@[simp] theorem State.jump_core_lh (s : State) (x : Word) : (s.jump x).core.lh = s.core.lh := rfl
@[simp] theorem State.jump_core_counters (s : State) (x : Word) : (s.jump x).core.counters = s.core.counters := rfl
@[simp] theorem State.jump_core_gs (s : State) (x : Word) : (s.jump x).core.gs = s.core.gs := rfl
@[simp] theorem State.jump_core_vs (s : State) (x : Word) : (s.jump x).core.vs = s.core.vs := rfl
@[simp] theorem State.jump_core_windows (s : State) (x : Word) : (s.jump x).core.windows = s.core.windows := rfl
@[simp] theorem State.jump_core_flagsDue (s : State) (x : Word) : (s.jump x).core.flagsDue = s.core.flagsDue := rfl
@[simp] theorem State.jump_core_refetch (s : State) (x : Word) : (s.jump x).core.refetch = if x - s.core.pc = 2 ∨ x - s.core.pc = 4 then s.core.refetch else none := rfl
@[simp] theorem State.jump_core_half (s : State) (x : Word) : (s.jump x).core.half = s.core.half := rfl
@[simp] theorem State.jump_core_draining (s : State) (x : Word) : (s.jump x).core.draining = s.core.draining := rfl
@[simp] theorem State.jump_core_stopped (s : State) (x : Word) : (s.jump x).core.stopped = s.core.stopped := rfl
@[simp] theorem State.jump_core_late (s : State) (x : Word) : (s.jump x).core.late = s.core.late := rfl
@[simp] theorem State.jump_core_popped (s : State) (x : Word) : (s.jump x).core.popped = s.core.popped := rfl
@[simp] theorem State.jump_core_status (s : State) (x : Word) : (s.jump x).core.status = s.core.status := rfl
@[simp] theorem State.jump_core_readyAt (s : State) (x : Word) : (s.jump x).core.readyAt = max s.core.readyAt (s.now + s.period s.core.pos) := rfl
@[simp] theorem State.jump_core_ract (s : State) (x : Word) : (s.jump x).core.ract = s.core.ract := rfl
@[simp] theorem State.jump_core_rtile (s : State) (x : Word) : (s.jump x).core.rtile = s.core.rtile := rfl
@[simp] theorem State.jump_core_rfull (s : State) (x : Word) : (s.jump x).core.rfull = s.core.rfull := rfl
@[simp] theorem State.jump_core_follow (s : State) (x : Word) : (s.jump x).core.follow = s.core.follow := rfl
@[simp] theorem State.jump_core_lead (s : State) (x : Word) : (s.jump x).core.lead = s.core.lead := rfl
@[simp] theorem State.jump_core_access (s : State) (x : Word) : (s.jump x).core.access = s.core.access := rfl
@[simp] theorem State.jump_core_batches (s : State) (x : Word) : (s.jump x).core.batches = s.core.batches := rfl
@[simp] theorem State.jump_core_pending (s : State) (x : Word) : (s.jump x).core.pending = s.core.pending := rfl
@[simp] theorem State.jump_core_broken (s : State) (x : Word) : (s.jump x).core.broken = s.core.broken := rfl
@[simp] theorem State.jump_core_held (s : State) (x : Word) : (s.jump x).core.held = s.core.held := rfl
@[simp] theorem State.jump_core_park (s : State) (x : Word) : (s.jump x).core.park = s.core.park := rfl
@[simp] theorem State.jump_core_launch (s : State) (x : Word) : (s.jump x).core.launch = s.core.launch := rfl
@[simp] theorem State.jump_core_posted (s : State) (x : Word) : (s.jump x).core.posted = s.core.posted := rfl
@[simp] theorem State.jump_core_reflecting (s : State) (x : Word) : (s.jump x).core.reflecting = s.core.reflecting := rfl

/-! ## Core.landStreams -/

@[simp] theorem Core.landStreams_pos (c : Core) (n : Nat) : (c.landStreams n).pos = c.pos := by unfold Core.landStreams; split <;> rfl
@[simp] theorem Core.landStreams_m (c : Core) (n : Nat) : (c.landStreams n).m = c.m := by unfold Core.landStreams; split <;> rfl
@[simp] theorem Core.landStreams_t (c : Core) (n : Nat) : (c.landStreams n).t = c.t := by unfold Core.landStreams; split <;> rfl
@[simp] theorem Core.landStreams_vtag (c : Core) (n : Nat) : (c.landStreams n).vtag = c.vtag := by unfold Core.landStreams; split <;> rfl
@[simp] theorem Core.landStreams_ttag (c : Core) (n : Nat) : (c.landStreams n).ttag = c.ttag := by unfold Core.landStreams; split <;> rfl
@[simp] theorem Core.landStreams_pc (c : Core) (n : Nat) : (c.landStreams n).pc = c.pc := by unfold Core.landStreams; split <;> rfl
@[simp] theorem Core.landStreams_cwp (c : Core) (n : Nat) : (c.landStreams n).cwp = c.cwp := by unfold Core.landStreams; split <;> rfl
@[simp] theorem Core.landStreams_xpc (c : Core) (n : Nat) : (c.landStreams n).xpc = c.xpc := by unfold Core.landStreams; split <;> rfl
@[simp] theorem Core.landStreams_xcause (c : Core) (n : Nat) : (c.landStreams n).xcause = c.xcause := by unfold Core.landStreams; split <;> rfl
@[simp] theorem Core.landStreams_xval (c : Core) (n : Nat) : (c.landStreams n).xval = c.xval := by unfold Core.landStreams; split <;> rfl
@[simp] theorem Core.landStreams_xscratch (c : Core) (n : Nat) : (c.landStreams n).xscratch = c.xscratch := by unfold Core.landStreams; split <;> rfl
@[simp] theorem Core.landStreams_timed (c : Core) (n : Nat) : (c.landStreams n).timed = c.timed := by unfold Core.landStreams; split <;> rfl
@[simp] theorem Core.landStreams_inh (c : Core) (n : Nat) : (c.landStreams n).inh = c.inh := by unfold Core.landStreams; split <;> rfl
@[simp] theorem Core.landStreams_dbg (c : Core) (n : Nat) : (c.landStreams n).dbg = c.dbg := by unfold Core.landStreams; split <;> rfl
@[simp] theorem Core.landStreams_cseg (c : Core) (n : Nat) : (c.landStreams n).cseg = c.cseg := by unfold Core.landStreams; split <;> rfl
@[simp] theorem Core.landStreams_segFrom (c : Core) (n : Nat) : (c.landStreams n).segFrom = c.segFrom := by unfold Core.landStreams; split <;> rfl
@[simp] theorem Core.landStreams_crb (c : Core) (n : Nat) : (c.landStreams n).crb = c.crb := by unfold Core.landStreams; split <;> rfl
@[simp] theorem Core.landStreams_csat (c : Core) (n : Nat) : (c.landStreams n).csat = c.csat := by unfold Core.landStreams; split <;> rfl
@[simp] theorem Core.landStreams_crnd (c : Core) (n : Nat) : (c.landStreams n).crnd = c.crnd := by unfold Core.landStreams; split <;> rfl
@[simp] theorem Core.landStreams_suit (c : Core) (n : Nat) : (c.landStreams n).suit = c.suit := by unfold Core.landStreams; split <;> rfl
@[simp] theorem Core.landStreams_cbatch (c : Core) (n : Nat) : (c.landStreams n).cbatch = c.cbatch := by unfold Core.landStreams; split <;> rfl
@[simp] theorem Core.landStreams_lx (c : Core) (n : Nat) : (c.landStreams n).lx = c.lx := by unfold Core.landStreams; split <;> rfl
@[simp] theorem Core.landStreams_ly (c : Core) (n : Nat) : (c.landStreams n).ly = c.ly := by unfold Core.landStreams; split <;> rfl
@[simp] theorem Core.landStreams_lw (c : Core) (n : Nat) : (c.landStreams n).lw = c.lw := by unfold Core.landStreams; split <;> rfl
@[simp] theorem Core.landStreams_lh (c : Core) (n : Nat) : (c.landStreams n).lh = c.lh := by unfold Core.landStreams; split <;> rfl
@[simp] theorem Core.landStreams_counters (c : Core) (n : Nat) : (c.landStreams n).counters = c.counters := by unfold Core.landStreams; split <;> rfl
@[simp] theorem Core.landStreams_windows (c : Core) (n : Nat) : (c.landStreams n).windows = c.windows := by unfold Core.landStreams; split <;> rfl
@[simp] theorem Core.landStreams_flagsDue (c : Core) (n : Nat) : (c.landStreams n).flagsDue = c.flagsDue := by unfold Core.landStreams; split <;> rfl
@[simp] theorem Core.landStreams_refetch (c : Core) (n : Nat) : (c.landStreams n).refetch = c.refetch := by unfold Core.landStreams; split <;> rfl
@[simp] theorem Core.landStreams_half (c : Core) (n : Nat) : (c.landStreams n).half = c.half := by unfold Core.landStreams; split <;> rfl
@[simp] theorem Core.landStreams_draining (c : Core) (n : Nat) : (c.landStreams n).draining = c.draining := by unfold Core.landStreams; split <;> rfl
@[simp] theorem Core.landStreams_stopped (c : Core) (n : Nat) : (c.landStreams n).stopped = c.stopped := by unfold Core.landStreams; split <;> rfl
@[simp] theorem Core.landStreams_late (c : Core) (n : Nat) : (c.landStreams n).late = c.late := by unfold Core.landStreams; split <;> rfl
@[simp] theorem Core.landStreams_popped (c : Core) (n : Nat) : (c.landStreams n).popped = c.popped := by unfold Core.landStreams; split <;> rfl
@[simp] theorem Core.landStreams_status (c : Core) (n : Nat) : (c.landStreams n).status = c.status := by unfold Core.landStreams; split <;> rfl
@[simp] theorem Core.landStreams_readyAt (c : Core) (n : Nat) : (c.landStreams n).readyAt = c.readyAt := by unfold Core.landStreams; split <;> rfl
@[simp] theorem Core.landStreams_ract (c : Core) (n : Nat) : (c.landStreams n).ract = c.ract := by unfold Core.landStreams; split <;> rfl
@[simp] theorem Core.landStreams_rtile (c : Core) (n : Nat) : (c.landStreams n).rtile = c.rtile := by unfold Core.landStreams; split <;> rfl
@[simp] theorem Core.landStreams_rfull (c : Core) (n : Nat) : (c.landStreams n).rfull = c.rfull := by unfold Core.landStreams; split <;> rfl
@[simp] theorem Core.landStreams_follow (c : Core) (n : Nat) : (c.landStreams n).follow = c.follow := by unfold Core.landStreams; split <;> rfl
@[simp] theorem Core.landStreams_lead (c : Core) (n : Nat) : (c.landStreams n).lead = c.lead := by unfold Core.landStreams; split <;> rfl
@[simp] theorem Core.landStreams_access (c : Core) (n : Nat) : (c.landStreams n).access = c.access := by unfold Core.landStreams; split <;> rfl
@[simp] theorem Core.landStreams_batches (c : Core) (n : Nat) : (c.landStreams n).batches = c.batches := by unfold Core.landStreams; split <;> rfl
@[simp] theorem Core.landStreams_pending (c : Core) (n : Nat) : (c.landStreams n).pending = c.pending := by unfold Core.landStreams; split <;> rfl
@[simp] theorem Core.landStreams_broken (c : Core) (n : Nat) : (c.landStreams n).broken = c.broken := by unfold Core.landStreams; split <;> rfl
@[simp] theorem Core.landStreams_held (c : Core) (n : Nat) : (c.landStreams n).held = c.held := by unfold Core.landStreams; split <;> rfl
@[simp] theorem Core.landStreams_park (c : Core) (n : Nat) : (c.landStreams n).park = c.park := by unfold Core.landStreams; split <;> rfl
@[simp] theorem Core.landStreams_launch (c : Core) (n : Nat) : (c.landStreams n).launch = c.launch := by unfold Core.landStreams; split <;> rfl
@[simp] theorem Core.landStreams_posted (c : Core) (n : Nat) : (c.landStreams n).posted = c.posted := by unfold Core.landStreams; split <;> rfl
@[simp] theorem Core.landStreams_reflecting (c : Core) (n : Nat) : (c.landStreams n).reflecting = c.reflecting := by unfold Core.landStreams; split <;> rfl

/-! ## Core.land -/

@[simp] theorem Core.land_pos (c : Core) (n : Nat) : (c.land n).pos = c.pos := by simp [Core.land]
@[simp] theorem Core.land_m (c : Core) (n : Nat) : (c.land n).m = c.m := by simp [Core.land]
@[simp] theorem Core.land_t (c : Core) (n : Nat) : (c.land n).t = c.t := by simp [Core.land]
@[simp] theorem Core.land_vtag (c : Core) (n : Nat) : (c.land n).vtag = c.vtag := by simp [Core.land]
@[simp] theorem Core.land_ttag (c : Core) (n : Nat) : (c.land n).ttag = c.ttag := by simp [Core.land]
@[simp] theorem Core.land_pc (c : Core) (n : Nat) : (c.land n).pc = c.pc := by simp [Core.land]
@[simp] theorem Core.land_cwp (c : Core) (n : Nat) : (c.land n).cwp = c.cwp := by simp [Core.land]
@[simp] theorem Core.land_xpc (c : Core) (n : Nat) : (c.land n).xpc = c.xpc := by simp [Core.land]
@[simp] theorem Core.land_xcause (c : Core) (n : Nat) : (c.land n).xcause = c.xcause := by simp [Core.land]
@[simp] theorem Core.land_xval (c : Core) (n : Nat) : (c.land n).xval = c.xval := by simp [Core.land]
@[simp] theorem Core.land_xscratch (c : Core) (n : Nat) : (c.land n).xscratch = c.xscratch := by simp [Core.land]
@[simp] theorem Core.land_timed (c : Core) (n : Nat) : (c.land n).timed = c.timed := by simp [Core.land]
@[simp] theorem Core.land_inh (c : Core) (n : Nat) : (c.land n).inh = c.inh := by simp [Core.land]
@[simp] theorem Core.land_dbg (c : Core) (n : Nat) : (c.land n).dbg = c.dbg := by simp [Core.land]
@[simp] theorem Core.land_cseg (c : Core) (n : Nat) : (c.land n).cseg = c.cseg := by simp [Core.land]
@[simp] theorem Core.land_segFrom (c : Core) (n : Nat) : (c.land n).segFrom = c.segFrom := by simp [Core.land]
@[simp] theorem Core.land_crb (c : Core) (n : Nat) : (c.land n).crb = c.crb := by simp [Core.land]
@[simp] theorem Core.land_csat (c : Core) (n : Nat) : (c.land n).csat = (c.flagsDue.filter (fun e => decide (e.1 ≤ n))).foldl (fun a e => a ||| e.2) c.csat := by simp [Core.land]
@[simp] theorem Core.land_crnd (c : Core) (n : Nat) : (c.land n).crnd = c.crnd := by simp [Core.land]
@[simp] theorem Core.land_suit (c : Core) (n : Nat) : (c.land n).suit = c.suit := by simp [Core.land]
@[simp] theorem Core.land_cbatch (c : Core) (n : Nat) : (c.land n).cbatch = c.cbatch := by simp [Core.land]
@[simp] theorem Core.land_lx (c : Core) (n : Nat) : (c.land n).lx = c.lx := by simp [Core.land]
@[simp] theorem Core.land_ly (c : Core) (n : Nat) : (c.land n).ly = c.ly := by simp [Core.land]
@[simp] theorem Core.land_lw (c : Core) (n : Nat) : (c.land n).lw = c.lw := by simp [Core.land]
@[simp] theorem Core.land_lh (c : Core) (n : Nat) : (c.land n).lh = c.lh := by simp [Core.land]
@[simp] theorem Core.land_counters (c : Core) (n : Nat) : (c.land n).counters = c.counters := by simp [Core.land]
@[simp] theorem Core.land_windows (c : Core) (n : Nat) : (c.land n).windows = c.windows.filter (fun w => decide (n < w.closes)) := by simp [Core.land]
@[simp] theorem Core.land_flagsDue (c : Core) (n : Nat) : (c.land n).flagsDue = c.flagsDue.filter (fun e => decide (n ≤ e.1)) := by simp [Core.land]
@[simp] theorem Core.land_refetch (c : Core) (n : Nat) : (c.land n).refetch = c.refetch := by simp [Core.land]
@[simp] theorem Core.land_half (c : Core) (n : Nat) : (c.land n).half = c.half := by simp [Core.land]
@[simp] theorem Core.land_draining (c : Core) (n : Nat) : (c.land n).draining = c.draining := by simp [Core.land]
@[simp] theorem Core.land_stopped (c : Core) (n : Nat) : (c.land n).stopped = c.stopped := by simp [Core.land]
@[simp] theorem Core.land_late (c : Core) (n : Nat) : (c.land n).late = c.late := by simp [Core.land]
@[simp] theorem Core.land_popped (c : Core) (n : Nat) : (c.land n).popped = c.popped := by simp [Core.land]
@[simp] theorem Core.land_status (c : Core) (n : Nat) : (c.land n).status = c.status := by simp [Core.land]
@[simp] theorem Core.land_readyAt (c : Core) (n : Nat) : (c.land n).readyAt = c.readyAt := by simp [Core.land]
@[simp] theorem Core.land_ract (c : Core) (n : Nat) : (c.land n).ract = c.ract := by simp [Core.land]
@[simp] theorem Core.land_rtile (c : Core) (n : Nat) : (c.land n).rtile = c.rtile := by simp [Core.land]
@[simp] theorem Core.land_rfull (c : Core) (n : Nat) : (c.land n).rfull = c.rfull := by simp [Core.land]
@[simp] theorem Core.land_follow (c : Core) (n : Nat) : (c.land n).follow = c.follow := by simp [Core.land]
@[simp] theorem Core.land_lead (c : Core) (n : Nat) : (c.land n).lead = c.lead := by simp [Core.land]
@[simp] theorem Core.land_access (c : Core) (n : Nat) : (c.land n).access = c.access := by simp [Core.land]
@[simp] theorem Core.land_batches (c : Core) (n : Nat) : (c.land n).batches = c.batches := by simp [Core.land]
@[simp] theorem Core.land_pending (c : Core) (n : Nat) : (c.land n).pending = c.pending := by simp [Core.land]
@[simp] theorem Core.land_broken (c : Core) (n : Nat) : (c.land n).broken = c.broken := by simp [Core.land]
@[simp] theorem Core.land_held (c : Core) (n : Nat) : (c.land n).held = c.held := by simp [Core.land]
@[simp] theorem Core.land_park (c : Core) (n : Nat) : (c.land n).park = c.park := by simp [Core.land]
@[simp] theorem Core.land_launch (c : Core) (n : Nat) : (c.land n).launch = c.launch := by simp [Core.land]
@[simp] theorem Core.land_posted (c : Core) (n : Nat) : (c.land n).posted = c.posted := by simp [Core.land]
@[simp] theorem Core.land_reflecting (c : Core) (n : Nat) : (c.land n).reflecting = c.reflecting := by simp [Core.land]

/-! ## Core.drain -/

@[simp] theorem Core.drain_pos (c : Core) : c.drain.pos = c.pos := by simp [Core.drain]
@[simp] theorem Core.drain_m (c : Core) : c.drain.m = c.m := by simp [Core.drain]
@[simp] theorem Core.drain_t (c : Core) : c.drain.t = c.t := by simp [Core.drain]
@[simp] theorem Core.drain_vtag (c : Core) : c.drain.vtag = c.vtag := by simp [Core.drain]
@[simp] theorem Core.drain_ttag (c : Core) : c.drain.ttag = c.ttag := by simp [Core.drain]
@[simp] theorem Core.drain_pc (c : Core) : c.drain.pc = c.pc := by simp [Core.drain]
@[simp] theorem Core.drain_cwp (c : Core) : c.drain.cwp = c.cwp := by simp [Core.drain]
@[simp] theorem Core.drain_xpc (c : Core) : c.drain.xpc = c.xpc := by simp [Core.drain]
@[simp] theorem Core.drain_xcause (c : Core) : c.drain.xcause = c.xcause := by simp [Core.drain]
@[simp] theorem Core.drain_xval (c : Core) : c.drain.xval = c.xval := by simp [Core.drain]
@[simp] theorem Core.drain_xscratch (c : Core) : c.drain.xscratch = c.xscratch := by simp [Core.drain]
@[simp] theorem Core.drain_timed (c : Core) : c.drain.timed = c.timed := by simp [Core.drain]
@[simp] theorem Core.drain_inh (c : Core) : c.drain.inh = c.inh := by simp [Core.drain]
@[simp] theorem Core.drain_dbg (c : Core) : c.drain.dbg = c.dbg := by simp [Core.drain]
@[simp] theorem Core.drain_cseg (c : Core) : c.drain.cseg = c.cseg := by simp [Core.drain]
@[simp] theorem Core.drain_segFrom (c : Core) : c.drain.segFrom = c.segFrom := by simp [Core.drain]
@[simp] theorem Core.drain_crb (c : Core) : c.drain.crb = c.crb := by simp [Core.drain]
@[simp] theorem Core.drain_csat (c : Core) : c.drain.csat = c.flagsDue.foldl (fun a e => a ||| e.2) c.csat := by simp [Core.drain]
@[simp] theorem Core.drain_crnd (c : Core) : c.drain.crnd = c.crnd := by simp [Core.drain]
@[simp] theorem Core.drain_suit (c : Core) : c.drain.suit = c.suit := by simp [Core.drain]
@[simp] theorem Core.drain_cbatch (c : Core) : c.drain.cbatch = c.cbatch := by simp [Core.drain]
@[simp] theorem Core.drain_lx (c : Core) : c.drain.lx = c.lx := by simp [Core.drain]
@[simp] theorem Core.drain_ly (c : Core) : c.drain.ly = c.ly := by simp [Core.drain]
@[simp] theorem Core.drain_lw (c : Core) : c.drain.lw = c.lw := by simp [Core.drain]
@[simp] theorem Core.drain_lh (c : Core) : c.drain.lh = c.lh := by simp [Core.drain]
@[simp] theorem Core.drain_counters (c : Core) : c.drain.counters = c.counters := by simp [Core.drain]
@[simp] theorem Core.drain_windows (c : Core) : c.drain.windows = [] := by simp [Core.drain]
@[simp] theorem Core.drain_flagsDue (c : Core) : c.drain.flagsDue = [] := by simp [Core.drain]
@[simp] theorem Core.drain_refetch (c : Core) : c.drain.refetch = c.refetch := by simp [Core.drain]
@[simp] theorem Core.drain_half (c : Core) : c.drain.half = c.half := by simp [Core.drain]
@[simp] theorem Core.drain_draining (c : Core) : c.drain.draining = c.draining := by simp [Core.drain]
@[simp] theorem Core.drain_stopped (c : Core) : c.drain.stopped = c.stopped := by simp [Core.drain]
@[simp] theorem Core.drain_late (c : Core) : c.drain.late = c.late := by simp [Core.drain]
@[simp] theorem Core.drain_popped (c : Core) : c.drain.popped = c.popped := by simp [Core.drain]
@[simp] theorem Core.drain_status (c : Core) : c.drain.status = c.status := by simp [Core.drain]
@[simp] theorem Core.drain_readyAt (c : Core) : c.drain.readyAt = c.readyAt := by simp [Core.drain]
@[simp] theorem Core.drain_ract (c : Core) : c.drain.ract = c.ract := by simp [Core.drain]
@[simp] theorem Core.drain_rtile (c : Core) : c.drain.rtile = c.rtile := by simp [Core.drain]
@[simp] theorem Core.drain_rfull (c : Core) : c.drain.rfull = c.rfull := by simp [Core.drain]
@[simp] theorem Core.drain_follow (c : Core) : c.drain.follow = c.follow := by simp [Core.drain]
@[simp] theorem Core.drain_lead (c : Core) : c.drain.lead = c.lead := by simp [Core.drain]
@[simp] theorem Core.drain_access (c : Core) : c.drain.access = c.access := by simp [Core.drain]
@[simp] theorem Core.drain_batches (c : Core) : c.drain.batches = c.batches := by simp [Core.drain]
@[simp] theorem Core.drain_pending (c : Core) : c.drain.pending = c.pending := by simp [Core.drain]
@[simp] theorem Core.drain_broken (c : Core) : c.drain.broken = c.broken := by simp [Core.drain]
@[simp] theorem Core.drain_held (c : Core) : c.drain.held = c.held := by simp [Core.drain]
@[simp] theorem Core.drain_park (c : Core) : c.drain.park = c.park := by simp [Core.drain]
@[simp] theorem Core.drain_launch (c : Core) : c.drain.launch = c.launch := by simp [Core.drain]
@[simp] theorem Core.drain_posted (c : Core) : c.drain.posted = c.posted := by simp [Core.drain]
@[simp] theorem Core.drain_reflecting (c : Core) : c.drain.reflecting = c.reflecting := by simp [Core.drain]

/-! ## Core.vacate -/

@[simp] theorem Core.vacate_pos (c : Core) : c.vacate.pos = c.pos := rfl
@[simp] theorem Core.vacate_g (c : Core) : c.vacate.g = c.g := rfl
@[simp] theorem Core.vacate_v (c : Core) : c.vacate.v = c.v := rfl
@[simp] theorem Core.vacate_m (c : Core) : c.vacate.m = c.m := rfl
@[simp] theorem Core.vacate_t (c : Core) : c.vacate.t = c.t := rfl
@[simp] theorem Core.vacate_vtag (c : Core) : c.vacate.vtag = c.vtag := rfl
@[simp] theorem Core.vacate_ttag (c : Core) : c.vacate.ttag = c.ttag := rfl
@[simp] theorem Core.vacate_pc (c : Core) : c.vacate.pc = c.pc := rfl
@[simp] theorem Core.vacate_cwp (c : Core) : c.vacate.cwp = c.cwp := rfl
@[simp] theorem Core.vacate_xpc (c : Core) : c.vacate.xpc = c.xpc := rfl
@[simp] theorem Core.vacate_xcause (c : Core) : c.vacate.xcause = c.xcause := rfl
@[simp] theorem Core.vacate_xval (c : Core) : c.vacate.xval = c.xval := rfl
@[simp] theorem Core.vacate_xscratch (c : Core) : c.vacate.xscratch = c.xscratch := rfl
@[simp] theorem Core.vacate_timed (c : Core) : c.vacate.timed = false := rfl
@[simp] theorem Core.vacate_inh (c : Core) : c.vacate.inh = c.inh := rfl
@[simp] theorem Core.vacate_dbg (c : Core) : c.vacate.dbg = c.dbg := rfl
@[simp] theorem Core.vacate_cseg (c : Core) : c.vacate.cseg = c.cseg := rfl
@[simp] theorem Core.vacate_segFrom (c : Core) : c.vacate.segFrom = c.segFrom := rfl
@[simp] theorem Core.vacate_crb (c : Core) : c.vacate.crb = c.crb := rfl
@[simp] theorem Core.vacate_csat (c : Core) : c.vacate.csat = c.csat := rfl
@[simp] theorem Core.vacate_crnd (c : Core) : c.vacate.crnd = c.crnd := rfl
@[simp] theorem Core.vacate_suit (c : Core) : c.vacate.suit = Suit.idle := rfl
@[simp] theorem Core.vacate_cbatch (c : Core) : c.vacate.cbatch = c.cbatch := rfl
@[simp] theorem Core.vacate_lx (c : Core) : c.vacate.lx = c.lx := rfl
@[simp] theorem Core.vacate_ly (c : Core) : c.vacate.ly = c.ly := rfl
@[simp] theorem Core.vacate_lw (c : Core) : c.vacate.lw = c.lw := rfl
@[simp] theorem Core.vacate_lh (c : Core) : c.vacate.lh = c.lh := rfl
@[simp] theorem Core.vacate_counters (c : Core) : c.vacate.counters = c.counters := rfl
@[simp] theorem Core.vacate_windows (c : Core) : c.vacate.windows = [] := rfl
@[simp] theorem Core.vacate_flagsDue (c : Core) : c.vacate.flagsDue = [] := rfl
@[simp] theorem Core.vacate_refetch (c : Core) : c.vacate.refetch = none := rfl
@[simp] theorem Core.vacate_half (c : Core) : c.vacate.half = none := rfl
@[simp] theorem Core.vacate_draining (c : Core) : c.vacate.draining = false := rfl
@[simp] theorem Core.vacate_stopped (c : Core) : c.vacate.stopped = false := rfl
@[simp] theorem Core.vacate_late (c : Core) : c.vacate.late = 0 := rfl
@[simp] theorem Core.vacate_popped (c : Core) : c.vacate.popped = [] := rfl
@[simp] theorem Core.vacate_status (c : Core) : c.vacate.status = .idle := rfl
@[simp] theorem Core.vacate_readyAt (c : Core) : c.vacate.readyAt = c.readyAt := rfl
@[simp] theorem Core.vacate_ract (c : Core) : c.vacate.ract = false := rfl
@[simp] theorem Core.vacate_rtile (c : Core) : c.vacate.rtile = c.rtile := rfl
@[simp] theorem Core.vacate_rfull (c : Core) : c.vacate.rfull = c.rfull := rfl
@[simp] theorem Core.vacate_follow (c : Core) : c.vacate.follow = [] := rfl
@[simp] theorem Core.vacate_lead (c : Core) : c.vacate.lead = none := rfl
@[simp] theorem Core.vacate_access (c : Core) : c.vacate.access = [] := rfl
@[simp] theorem Core.vacate_batches (c : Core) : c.vacate.batches = c.batches := rfl
@[simp] theorem Core.vacate_pending (c : Core) : c.vacate.pending = c.pending := rfl
@[simp] theorem Core.vacate_broken (c : Core) : c.vacate.broken = false := rfl
@[simp] theorem Core.vacate_held (c : Core) : c.vacate.held = false := rfl
@[simp] theorem Core.vacate_park (c : Core) : c.vacate.park = c.park := rfl
@[simp] theorem Core.vacate_launch (c : Core) : c.vacate.launch = 0 := rfl
@[simp] theorem Core.vacate_posted (c : Core) : c.vacate.posted = c.posted := rfl
@[simp] theorem Core.vacate_reflecting (c : Core) : c.vacate.reflecting = none := rfl

/-! ## Core.openWindow -/

@[simp] theorem Core.openWindow_pos (c : Core) (d : Dest) (n l : Nat) : (c.openWindow d n l).pos = c.pos := rfl
@[simp] theorem Core.openWindow_g (c : Core) (d : Dest) (n l : Nat) : (c.openWindow d n l).g = c.g := rfl
@[simp] theorem Core.openWindow_v (c : Core) (d : Dest) (n l : Nat) : (c.openWindow d n l).v = c.v := rfl
@[simp] theorem Core.openWindow_m (c : Core) (d : Dest) (n l : Nat) : (c.openWindow d n l).m = c.m := rfl
@[simp] theorem Core.openWindow_t (c : Core) (d : Dest) (n l : Nat) : (c.openWindow d n l).t = c.t := rfl
@[simp] theorem Core.openWindow_vtag (c : Core) (d : Dest) (n l : Nat) : (c.openWindow d n l).vtag = c.vtag := rfl
@[simp] theorem Core.openWindow_ttag (c : Core) (d : Dest) (n l : Nat) : (c.openWindow d n l).ttag = c.ttag := rfl
@[simp] theorem Core.openWindow_pc (c : Core) (d : Dest) (n l : Nat) : (c.openWindow d n l).pc = c.pc := rfl
@[simp] theorem Core.openWindow_cwp (c : Core) (d : Dest) (n l : Nat) : (c.openWindow d n l).cwp = c.cwp := rfl
@[simp] theorem Core.openWindow_xpc (c : Core) (d : Dest) (n l : Nat) : (c.openWindow d n l).xpc = c.xpc := rfl
@[simp] theorem Core.openWindow_xcause (c : Core) (d : Dest) (n l : Nat) : (c.openWindow d n l).xcause = c.xcause := rfl
@[simp] theorem Core.openWindow_xval (c : Core) (d : Dest) (n l : Nat) : (c.openWindow d n l).xval = c.xval := rfl
@[simp] theorem Core.openWindow_xscratch (c : Core) (d : Dest) (n l : Nat) : (c.openWindow d n l).xscratch = c.xscratch := rfl
@[simp] theorem Core.openWindow_timed (c : Core) (d : Dest) (n l : Nat) : (c.openWindow d n l).timed = c.timed := rfl
@[simp] theorem Core.openWindow_inh (c : Core) (d : Dest) (n l : Nat) : (c.openWindow d n l).inh = c.inh := rfl
@[simp] theorem Core.openWindow_dbg (c : Core) (d : Dest) (n l : Nat) : (c.openWindow d n l).dbg = c.dbg := rfl
@[simp] theorem Core.openWindow_cseg (c : Core) (d : Dest) (n l : Nat) : (c.openWindow d n l).cseg = c.cseg := rfl
@[simp] theorem Core.openWindow_segFrom (c : Core) (d : Dest) (n l : Nat) : (c.openWindow d n l).segFrom = c.segFrom := rfl
@[simp] theorem Core.openWindow_crb (c : Core) (d : Dest) (n l : Nat) : (c.openWindow d n l).crb = c.crb := rfl
@[simp] theorem Core.openWindow_csat (c : Core) (d : Dest) (n l : Nat) : (c.openWindow d n l).csat = c.csat := rfl
@[simp] theorem Core.openWindow_crnd (c : Core) (d : Dest) (n l : Nat) : (c.openWindow d n l).crnd = c.crnd := rfl
@[simp] theorem Core.openWindow_suit (c : Core) (d : Dest) (n l : Nat) : (c.openWindow d n l).suit = c.suit := rfl
@[simp] theorem Core.openWindow_cbatch (c : Core) (d : Dest) (n l : Nat) : (c.openWindow d n l).cbatch = c.cbatch := rfl
@[simp] theorem Core.openWindow_lx (c : Core) (d : Dest) (n l : Nat) : (c.openWindow d n l).lx = c.lx := rfl
@[simp] theorem Core.openWindow_ly (c : Core) (d : Dest) (n l : Nat) : (c.openWindow d n l).ly = c.ly := rfl
@[simp] theorem Core.openWindow_lw (c : Core) (d : Dest) (n l : Nat) : (c.openWindow d n l).lw = c.lw := rfl
@[simp] theorem Core.openWindow_lh (c : Core) (d : Dest) (n l : Nat) : (c.openWindow d n l).lh = c.lh := rfl
@[simp] theorem Core.openWindow_counters (c : Core) (d : Dest) (n l : Nat) : (c.openWindow d n l).counters = c.counters := rfl
@[simp] theorem Core.openWindow_gs (c : Core) (d : Dest) (n l : Nat) : (c.openWindow d n l).gs = c.gs := rfl
@[simp] theorem Core.openWindow_vs (c : Core) (d : Dest) (n l : Nat) : (c.openWindow d n l).vs = c.vs := rfl
@[simp] theorem Core.openWindow_flagsDue (c : Core) (d : Dest) (n l : Nat) : (c.openWindow d n l).flagsDue = c.flagsDue := rfl
@[simp] theorem Core.openWindow_refetch (c : Core) (d : Dest) (n l : Nat) : (c.openWindow d n l).refetch = c.refetch := rfl
@[simp] theorem Core.openWindow_half (c : Core) (d : Dest) (n l : Nat) : (c.openWindow d n l).half = c.half := rfl
@[simp] theorem Core.openWindow_draining (c : Core) (d : Dest) (n l : Nat) : (c.openWindow d n l).draining = c.draining := rfl
@[simp] theorem Core.openWindow_stopped (c : Core) (d : Dest) (n l : Nat) : (c.openWindow d n l).stopped = c.stopped := rfl
@[simp] theorem Core.openWindow_late (c : Core) (d : Dest) (n l : Nat) : (c.openWindow d n l).late = c.late := rfl
@[simp] theorem Core.openWindow_popped (c : Core) (d : Dest) (n l : Nat) : (c.openWindow d n l).popped = c.popped := rfl
@[simp] theorem Core.openWindow_status (c : Core) (d : Dest) (n l : Nat) : (c.openWindow d n l).status = c.status := rfl
@[simp] theorem Core.openWindow_readyAt (c : Core) (d : Dest) (n l : Nat) : (c.openWindow d n l).readyAt = c.readyAt := rfl
@[simp] theorem Core.openWindow_ract (c : Core) (d : Dest) (n l : Nat) : (c.openWindow d n l).ract = c.ract := rfl
@[simp] theorem Core.openWindow_rtile (c : Core) (d : Dest) (n l : Nat) : (c.openWindow d n l).rtile = c.rtile := rfl
@[simp] theorem Core.openWindow_rfull (c : Core) (d : Dest) (n l : Nat) : (c.openWindow d n l).rfull = c.rfull := rfl
@[simp] theorem Core.openWindow_follow (c : Core) (d : Dest) (n l : Nat) : (c.openWindow d n l).follow = c.follow := rfl
@[simp] theorem Core.openWindow_lead (c : Core) (d : Dest) (n l : Nat) : (c.openWindow d n l).lead = c.lead := rfl
@[simp] theorem Core.openWindow_access (c : Core) (d : Dest) (n l : Nat) : (c.openWindow d n l).access = c.access := rfl
@[simp] theorem Core.openWindow_batches (c : Core) (d : Dest) (n l : Nat) : (c.openWindow d n l).batches = c.batches := rfl
@[simp] theorem Core.openWindow_pending (c : Core) (d : Dest) (n l : Nat) : (c.openWindow d n l).pending = c.pending := rfl
@[simp] theorem Core.openWindow_broken (c : Core) (d : Dest) (n l : Nat) : (c.openWindow d n l).broken = c.broken := rfl
@[simp] theorem Core.openWindow_held (c : Core) (d : Dest) (n l : Nat) : (c.openWindow d n l).held = c.held := rfl
@[simp] theorem Core.openWindow_park (c : Core) (d : Dest) (n l : Nat) : (c.openWindow d n l).park = c.park := rfl
@[simp] theorem Core.openWindow_launch (c : Core) (d : Dest) (n l : Nat) : (c.openWindow d n l).launch = c.launch := rfl
@[simp] theorem Core.openWindow_posted (c : Core) (d : Dest) (n l : Nat) : (c.openWindow d n l).posted = c.posted := rfl
@[simp] theorem Core.openWindow_reflecting (c : Core) (d : Dest) (n l : Nat) : (c.openWindow d n l).reflecting = c.reflecting := rfl

/-! ## Core.wake -/

@[simp] theorem Core.wake_pos (c : Core) (n p : Nat) : (c.wake n p).pos = c.pos := rfl
@[simp] theorem Core.wake_g (c : Core) (n p : Nat) : (c.wake n p).g = c.g := rfl
@[simp] theorem Core.wake_v (c : Core) (n p : Nat) : (c.wake n p).v = c.v := rfl
@[simp] theorem Core.wake_m (c : Core) (n p : Nat) : (c.wake n p).m = c.m := rfl
@[simp] theorem Core.wake_t (c : Core) (n p : Nat) : (c.wake n p).t = c.t := rfl
@[simp] theorem Core.wake_vtag (c : Core) (n p : Nat) : (c.wake n p).vtag = c.vtag := rfl
@[simp] theorem Core.wake_ttag (c : Core) (n p : Nat) : (c.wake n p).ttag = c.ttag := rfl
@[simp] theorem Core.wake_pc (c : Core) (n p : Nat) : (c.wake n p).pc = c.pc + 4 := rfl
@[simp] theorem Core.wake_cwp (c : Core) (n p : Nat) : (c.wake n p).cwp = c.cwp := rfl
@[simp] theorem Core.wake_xpc (c : Core) (n p : Nat) : (c.wake n p).xpc = c.xpc := rfl
@[simp] theorem Core.wake_xcause (c : Core) (n p : Nat) : (c.wake n p).xcause = c.xcause := rfl
@[simp] theorem Core.wake_xval (c : Core) (n p : Nat) : (c.wake n p).xval = c.xval := rfl
@[simp] theorem Core.wake_xscratch (c : Core) (n p : Nat) : (c.wake n p).xscratch = c.xscratch := rfl
@[simp] theorem Core.wake_timed (c : Core) (n p : Nat) : (c.wake n p).timed = c.timed := rfl
@[simp] theorem Core.wake_inh (c : Core) (n p : Nat) : (c.wake n p).inh = c.inh := rfl
@[simp] theorem Core.wake_dbg (c : Core) (n p : Nat) : (c.wake n p).dbg = false := rfl
@[simp] theorem Core.wake_cseg (c : Core) (n p : Nat) : (c.wake n p).cseg = c.cseg := rfl
@[simp] theorem Core.wake_segFrom (c : Core) (n p : Nat) : (c.wake n p).segFrom = c.segFrom := rfl
@[simp] theorem Core.wake_crb (c : Core) (n p : Nat) : (c.wake n p).crb = c.crb := rfl
@[simp] theorem Core.wake_csat (c : Core) (n p : Nat) : (c.wake n p).csat = c.csat := rfl
@[simp] theorem Core.wake_crnd (c : Core) (n p : Nat) : (c.wake n p).crnd = c.crnd := rfl
@[simp] theorem Core.wake_suit (c : Core) (n p : Nat) : (c.wake n p).suit = c.suit := rfl
@[simp] theorem Core.wake_cbatch (c : Core) (n p : Nat) : (c.wake n p).cbatch = c.cbatch := rfl
@[simp] theorem Core.wake_lx (c : Core) (n p : Nat) : (c.wake n p).lx = c.lx := rfl
@[simp] theorem Core.wake_ly (c : Core) (n p : Nat) : (c.wake n p).ly = c.ly := rfl
@[simp] theorem Core.wake_lw (c : Core) (n p : Nat) : (c.wake n p).lw = c.lw := rfl
@[simp] theorem Core.wake_lh (c : Core) (n p : Nat) : (c.wake n p).lh = c.lh := rfl
@[simp] theorem Core.wake_counters (c : Core) (n p : Nat) : (c.wake n p).counters = c.counters := rfl
@[simp] theorem Core.wake_gs (c : Core) (n p : Nat) : (c.wake n p).gs = c.gs := rfl
@[simp] theorem Core.wake_vs (c : Core) (n p : Nat) : (c.wake n p).vs = c.vs := rfl
@[simp] theorem Core.wake_windows (c : Core) (n p : Nat) : (c.wake n p).windows = c.windows := rfl
@[simp] theorem Core.wake_flagsDue (c : Core) (n p : Nat) : (c.wake n p).flagsDue = c.flagsDue := rfl
@[simp] theorem Core.wake_refetch (c : Core) (n p : Nat) : (c.wake n p).refetch = c.refetch := rfl
@[simp] theorem Core.wake_half (c : Core) (n p : Nat) : (c.wake n p).half = c.half := rfl
@[simp] theorem Core.wake_draining (c : Core) (n p : Nat) : (c.wake n p).draining = c.draining := rfl
@[simp] theorem Core.wake_stopped (c : Core) (n p : Nat) : (c.wake n p).stopped = c.stopped := rfl
@[simp] theorem Core.wake_late (c : Core) (n p : Nat) : (c.wake n p).late = c.late := rfl
@[simp] theorem Core.wake_popped (c : Core) (n p : Nat) : (c.wake n p).popped = [] := rfl
@[simp] theorem Core.wake_status (c : Core) (n p : Nat) : (c.wake n p).status = .running := rfl
@[simp] theorem Core.wake_readyAt (c : Core) (n p : Nat) : (c.wake n p).readyAt = edgeAfter p n + c.suit.spos.toNat * p := rfl
@[simp] theorem Core.wake_ract (c : Core) (n p : Nat) : (c.wake n p).ract = c.ract := rfl
@[simp] theorem Core.wake_rtile (c : Core) (n p : Nat) : (c.wake n p).rtile = c.rtile := rfl
@[simp] theorem Core.wake_rfull (c : Core) (n p : Nat) : (c.wake n p).rfull = c.rfull := rfl
@[simp] theorem Core.wake_follow (c : Core) (n p : Nat) : (c.wake n p).follow = c.follow := rfl
@[simp] theorem Core.wake_lead (c : Core) (n p : Nat) : (c.wake n p).lead = c.lead := rfl
@[simp] theorem Core.wake_access (c : Core) (n p : Nat) : (c.wake n p).access = c.access := rfl
@[simp] theorem Core.wake_batches (c : Core) (n p : Nat) : (c.wake n p).batches = c.batches := rfl
@[simp] theorem Core.wake_pending (c : Core) (n p : Nat) : (c.wake n p).pending = c.pending := rfl
@[simp] theorem Core.wake_broken (c : Core) (n p : Nat) : (c.wake n p).broken = c.broken := rfl
@[simp] theorem Core.wake_held (c : Core) (n p : Nat) : (c.wake n p).held = c.held := rfl
@[simp] theorem Core.wake_park (c : Core) (n p : Nat) : (c.wake n p).park = c.park := rfl
@[simp] theorem Core.wake_launch (c : Core) (n p : Nat) : (c.wake n p).launch = c.launch := rfl
@[simp] theorem Core.wake_posted (c : Core) (n p : Nat) : (c.wake n p).posted = c.posted := rfl
@[simp] theorem Core.wake_reflecting (c : Core) (n p : Nat) : (c.wake n p).reflecting = c.reflecting := rfl

/-! ## Core.joinSuit -/

@[simp] theorem Core.joinSuit_pos (c : Core) (m : BitVec 16) : (c.joinSuit m).pos = c.pos := rfl
@[simp] theorem Core.joinSuit_g (c : Core) (m : BitVec 16) : (c.joinSuit m).g = c.g := rfl
@[simp] theorem Core.joinSuit_v (c : Core) (m : BitVec 16) : (c.joinSuit m).v = c.v := rfl
@[simp] theorem Core.joinSuit_m (c : Core) (m : BitVec 16) : (c.joinSuit m).m = c.m := rfl
@[simp] theorem Core.joinSuit_t (c : Core) (m : BitVec 16) : (c.joinSuit m).t = c.t := rfl
@[simp] theorem Core.joinSuit_vtag (c : Core) (m : BitVec 16) : (c.joinSuit m).vtag = c.vtag := rfl
@[simp] theorem Core.joinSuit_ttag (c : Core) (m : BitVec 16) : (c.joinSuit m).ttag = c.ttag := rfl
@[simp] theorem Core.joinSuit_pc (c : Core) (m : BitVec 16) : (c.joinSuit m).pc = c.pc := rfl
@[simp] theorem Core.joinSuit_cwp (c : Core) (m : BitVec 16) : (c.joinSuit m).cwp = c.cwp := rfl
@[simp] theorem Core.joinSuit_xpc (c : Core) (m : BitVec 16) : (c.joinSuit m).xpc = c.xpc := rfl
@[simp] theorem Core.joinSuit_xcause (c : Core) (m : BitVec 16) : (c.joinSuit m).xcause = c.xcause := rfl
@[simp] theorem Core.joinSuit_xval (c : Core) (m : BitVec 16) : (c.joinSuit m).xval = c.xval := rfl
@[simp] theorem Core.joinSuit_xscratch (c : Core) (m : BitVec 16) : (c.joinSuit m).xscratch = c.xscratch := rfl
@[simp] theorem Core.joinSuit_timed (c : Core) (m : BitVec 16) : (c.joinSuit m).timed = c.timed := rfl
@[simp] theorem Core.joinSuit_inh (c : Core) (m : BitVec 16) : (c.joinSuit m).inh = c.inh := rfl
@[simp] theorem Core.joinSuit_dbg (c : Core) (m : BitVec 16) : (c.joinSuit m).dbg = c.dbg := rfl
@[simp] theorem Core.joinSuit_cseg (c : Core) (m : BitVec 16) : (c.joinSuit m).cseg = c.cseg := rfl
@[simp] theorem Core.joinSuit_segFrom (c : Core) (m : BitVec 16) : (c.joinSuit m).segFrom = c.segFrom := rfl
@[simp] theorem Core.joinSuit_crb (c : Core) (m : BitVec 16) : (c.joinSuit m).crb = c.crb := rfl
@[simp] theorem Core.joinSuit_csat (c : Core) (m : BitVec 16) : (c.joinSuit m).csat = c.csat := rfl
@[simp] theorem Core.joinSuit_crnd (c : Core) (m : BitVec 16) : (c.joinSuit m).crnd = c.crnd := rfl
@[simp] theorem Core.joinSuit_cbatch (c : Core) (m : BitVec 16) : (c.joinSuit m).cbatch = c.cbatch := rfl
@[simp] theorem Core.joinSuit_lx (c : Core) (m : BitVec 16) : (c.joinSuit m).lx = c.lx := rfl
@[simp] theorem Core.joinSuit_ly (c : Core) (m : BitVec 16) : (c.joinSuit m).ly = c.ly := rfl
@[simp] theorem Core.joinSuit_lw (c : Core) (m : BitVec 16) : (c.joinSuit m).lw = c.lw := rfl
@[simp] theorem Core.joinSuit_lh (c : Core) (m : BitVec 16) : (c.joinSuit m).lh = c.lh := rfl
@[simp] theorem Core.joinSuit_counters (c : Core) (m : BitVec 16) : (c.joinSuit m).counters = c.counters := rfl
@[simp] theorem Core.joinSuit_gs (c : Core) (m : BitVec 16) : (c.joinSuit m).gs = c.gs := rfl
@[simp] theorem Core.joinSuit_vs (c : Core) (m : BitVec 16) : (c.joinSuit m).vs = c.vs := rfl
@[simp] theorem Core.joinSuit_windows (c : Core) (m : BitVec 16) : (c.joinSuit m).windows = c.windows := rfl
@[simp] theorem Core.joinSuit_flagsDue (c : Core) (m : BitVec 16) : (c.joinSuit m).flagsDue = c.flagsDue := rfl
@[simp] theorem Core.joinSuit_refetch (c : Core) (m : BitVec 16) : (c.joinSuit m).refetch = c.refetch := rfl
@[simp] theorem Core.joinSuit_half (c : Core) (m : BitVec 16) : (c.joinSuit m).half = c.half := rfl
@[simp] theorem Core.joinSuit_draining (c : Core) (m : BitVec 16) : (c.joinSuit m).draining = c.draining := rfl
@[simp] theorem Core.joinSuit_stopped (c : Core) (m : BitVec 16) : (c.joinSuit m).stopped = c.stopped := rfl
@[simp] theorem Core.joinSuit_late (c : Core) (m : BitVec 16) : (c.joinSuit m).late = c.late := rfl
@[simp] theorem Core.joinSuit_popped (c : Core) (m : BitVec 16) : (c.joinSuit m).popped = c.popped := rfl
@[simp] theorem Core.joinSuit_status (c : Core) (m : BitVec 16) : (c.joinSuit m).status = c.status := rfl
@[simp] theorem Core.joinSuit_readyAt (c : Core) (m : BitVec 16) : (c.joinSuit m).readyAt = c.readyAt := rfl
@[simp] theorem Core.joinSuit_ract (c : Core) (m : BitVec 16) : (c.joinSuit m).ract = c.ract := rfl
@[simp] theorem Core.joinSuit_rtile (c : Core) (m : BitVec 16) : (c.joinSuit m).rtile = c.rtile := rfl
@[simp] theorem Core.joinSuit_rfull (c : Core) (m : BitVec 16) : (c.joinSuit m).rfull = c.rfull := rfl
@[simp] theorem Core.joinSuit_follow (c : Core) (m : BitVec 16) : (c.joinSuit m).follow = c.follow := rfl
@[simp] theorem Core.joinSuit_lead (c : Core) (m : BitVec 16) : (c.joinSuit m).lead = c.lead := rfl
@[simp] theorem Core.joinSuit_access (c : Core) (m : BitVec 16) : (c.joinSuit m).access = c.access := rfl
@[simp] theorem Core.joinSuit_batches (c : Core) (m : BitVec 16) : (c.joinSuit m).batches = c.batches := rfl
@[simp] theorem Core.joinSuit_pending (c : Core) (m : BitVec 16) : (c.joinSuit m).pending = c.pending := rfl
@[simp] theorem Core.joinSuit_broken (c : Core) (m : BitVec 16) : (c.joinSuit m).broken = c.broken := rfl
@[simp] theorem Core.joinSuit_held (c : Core) (m : BitVec 16) : (c.joinSuit m).held = c.held := rfl
@[simp] theorem Core.joinSuit_park (c : Core) (m : BitVec 16) : (c.joinSuit m).park = c.park := rfl
@[simp] theorem Core.joinSuit_launch (c : Core) (m : BitVec 16) : (c.joinSuit m).launch = c.launch := rfl
@[simp] theorem Core.joinSuit_posted (c : Core) (m : BitVec 16) : (c.joinSuit m).posted = c.posted := rfl
@[simp] theorem Core.joinSuit_reflecting (c : Core) (m : BitVec 16) : (c.joinSuit m).reflecting = c.reflecting := rfl

/-! ## Core.bindRing -/

@[simp] theorem Core.bindRing_pos (c : Core) (d : BitVec 3) : (c.bindRing d).pos = c.pos := rfl
@[simp] theorem Core.bindRing_g (c : Core) (d : BitVec 3) : (c.bindRing d).g = c.g := rfl
@[simp] theorem Core.bindRing_v (c : Core) (d : BitVec 3) : (c.bindRing d).v = c.v := rfl
@[simp] theorem Core.bindRing_m (c : Core) (d : BitVec 3) : (c.bindRing d).m = c.m := rfl
@[simp] theorem Core.bindRing_t (c : Core) (d : BitVec 3) : (c.bindRing d).t = c.t.set d.toNat 0 d.isLt := rfl
@[simp] theorem Core.bindRing_vtag (c : Core) (d : BitVec 3) : (c.bindRing d).vtag = c.vtag := rfl
@[simp] theorem Core.bindRing_ttag (c : Core) (d : BitVec 3) : (c.bindRing d).ttag = c.ttag.set d.toNat 22 d.isLt := rfl
@[simp] theorem Core.bindRing_pc (c : Core) (d : BitVec 3) : (c.bindRing d).pc = c.pc := rfl
@[simp] theorem Core.bindRing_cwp (c : Core) (d : BitVec 3) : (c.bindRing d).cwp = c.cwp := rfl
@[simp] theorem Core.bindRing_xpc (c : Core) (d : BitVec 3) : (c.bindRing d).xpc = c.xpc := rfl
@[simp] theorem Core.bindRing_xcause (c : Core) (d : BitVec 3) : (c.bindRing d).xcause = c.xcause := rfl
@[simp] theorem Core.bindRing_xval (c : Core) (d : BitVec 3) : (c.bindRing d).xval = c.xval := rfl
@[simp] theorem Core.bindRing_xscratch (c : Core) (d : BitVec 3) : (c.bindRing d).xscratch = c.xscratch := rfl
@[simp] theorem Core.bindRing_timed (c : Core) (d : BitVec 3) : (c.bindRing d).timed = c.timed := rfl
@[simp] theorem Core.bindRing_inh (c : Core) (d : BitVec 3) : (c.bindRing d).inh = c.inh := rfl
@[simp] theorem Core.bindRing_dbg (c : Core) (d : BitVec 3) : (c.bindRing d).dbg = c.dbg := rfl
@[simp] theorem Core.bindRing_cseg (c : Core) (d : BitVec 3) : (c.bindRing d).cseg = c.cseg := rfl
@[simp] theorem Core.bindRing_segFrom (c : Core) (d : BitVec 3) : (c.bindRing d).segFrom = c.segFrom := rfl
@[simp] theorem Core.bindRing_crb (c : Core) (d : BitVec 3) : (c.bindRing d).crb = c.crb := rfl
@[simp] theorem Core.bindRing_csat (c : Core) (d : BitVec 3) : (c.bindRing d).csat = c.csat := rfl
@[simp] theorem Core.bindRing_crnd (c : Core) (d : BitVec 3) : (c.bindRing d).crnd = c.crnd := rfl
@[simp] theorem Core.bindRing_suit (c : Core) (d : BitVec 3) : (c.bindRing d).suit = c.suit := rfl
@[simp] theorem Core.bindRing_cbatch (c : Core) (d : BitVec 3) : (c.bindRing d).cbatch = c.cbatch := rfl
@[simp] theorem Core.bindRing_lx (c : Core) (d : BitVec 3) : (c.bindRing d).lx = c.lx := rfl
@[simp] theorem Core.bindRing_ly (c : Core) (d : BitVec 3) : (c.bindRing d).ly = c.ly := rfl
@[simp] theorem Core.bindRing_lw (c : Core) (d : BitVec 3) : (c.bindRing d).lw = c.lw := rfl
@[simp] theorem Core.bindRing_lh (c : Core) (d : BitVec 3) : (c.bindRing d).lh = c.lh := rfl
@[simp] theorem Core.bindRing_counters (c : Core) (d : BitVec 3) : (c.bindRing d).counters = c.counters := rfl
@[simp] theorem Core.bindRing_gs (c : Core) (d : BitVec 3) : (c.bindRing d).gs = c.gs := rfl
@[simp] theorem Core.bindRing_vs (c : Core) (d : BitVec 3) : (c.bindRing d).vs = c.vs := rfl
@[simp] theorem Core.bindRing_flagsDue (c : Core) (d : BitVec 3) : (c.bindRing d).flagsDue = c.flagsDue := rfl
@[simp] theorem Core.bindRing_refetch (c : Core) (d : BitVec 3) : (c.bindRing d).refetch = c.refetch := rfl
@[simp] theorem Core.bindRing_half (c : Core) (d : BitVec 3) : (c.bindRing d).half = c.half := rfl
@[simp] theorem Core.bindRing_draining (c : Core) (d : BitVec 3) : (c.bindRing d).draining = c.draining := rfl
@[simp] theorem Core.bindRing_stopped (c : Core) (d : BitVec 3) : (c.bindRing d).stopped = c.stopped := rfl
@[simp] theorem Core.bindRing_late (c : Core) (d : BitVec 3) : (c.bindRing d).late = c.late := rfl
@[simp] theorem Core.bindRing_popped (c : Core) (d : BitVec 3) : (c.bindRing d).popped = c.popped := rfl
@[simp] theorem Core.bindRing_status (c : Core) (d : BitVec 3) : (c.bindRing d).status = c.status := rfl
@[simp] theorem Core.bindRing_readyAt (c : Core) (d : BitVec 3) : (c.bindRing d).readyAt = c.readyAt := rfl
@[simp] theorem Core.bindRing_ract (c : Core) (d : BitVec 3) : (c.bindRing d).ract = true := rfl
@[simp] theorem Core.bindRing_rtile (c : Core) (d : BitVec 3) : (c.bindRing d).rtile = d := rfl
@[simp] theorem Core.bindRing_rfull (c : Core) (d : BitVec 3) : (c.bindRing d).rfull = 0 := rfl
@[simp] theorem Core.bindRing_follow (c : Core) (d : BitVec 3) : (c.bindRing d).follow = c.follow := rfl
@[simp] theorem Core.bindRing_lead (c : Core) (d : BitVec 3) : (c.bindRing d).lead = c.lead := rfl
@[simp] theorem Core.bindRing_access (c : Core) (d : BitVec 3) : (c.bindRing d).access = c.access := rfl
@[simp] theorem Core.bindRing_batches (c : Core) (d : BitVec 3) : (c.bindRing d).batches = c.batches := rfl
@[simp] theorem Core.bindRing_pending (c : Core) (d : BitVec 3) : (c.bindRing d).pending = c.pending := rfl
@[simp] theorem Core.bindRing_broken (c : Core) (d : BitVec 3) : (c.bindRing d).broken = c.broken := rfl
@[simp] theorem Core.bindRing_held (c : Core) (d : BitVec 3) : (c.bindRing d).held = c.held := rfl
@[simp] theorem Core.bindRing_park (c : Core) (d : BitVec 3) : (c.bindRing d).park = c.park := rfl
@[simp] theorem Core.bindRing_launch (c : Core) (d : BitVec 3) : (c.bindRing d).launch = c.launch := rfl
@[simp] theorem Core.bindRing_posted (c : Core) (d : BitVec 3) : (c.bindRing d).posted = c.posted := rfl
@[simp] theorem Core.bindRing_reflecting (c : Core) (d : BitVec 3) : (c.bindRing d).reflecting = c.reflecting := rfl

/-! ## Core.increment -/

@[simp] theorem Core.increment_pos (c : Core) (i : BitVec 6) (x : BitVec 32) : (c.increment i x).pos = c.pos := rfl
@[simp] theorem Core.increment_g (c : Core) (i : BitVec 6) (x : BitVec 32) : (c.increment i x).g = c.g := rfl
@[simp] theorem Core.increment_v (c : Core) (i : BitVec 6) (x : BitVec 32) : (c.increment i x).v = c.v := rfl
@[simp] theorem Core.increment_m (c : Core) (i : BitVec 6) (x : BitVec 32) : (c.increment i x).m = c.m := rfl
@[simp] theorem Core.increment_t (c : Core) (i : BitVec 6) (x : BitVec 32) : (c.increment i x).t = c.t := rfl
@[simp] theorem Core.increment_vtag (c : Core) (i : BitVec 6) (x : BitVec 32) : (c.increment i x).vtag = c.vtag := rfl
@[simp] theorem Core.increment_ttag (c : Core) (i : BitVec 6) (x : BitVec 32) : (c.increment i x).ttag = c.ttag := rfl
@[simp] theorem Core.increment_pc (c : Core) (i : BitVec 6) (x : BitVec 32) : (c.increment i x).pc = c.pc := rfl
@[simp] theorem Core.increment_cwp (c : Core) (i : BitVec 6) (x : BitVec 32) : (c.increment i x).cwp = c.cwp := rfl
@[simp] theorem Core.increment_xpc (c : Core) (i : BitVec 6) (x : BitVec 32) : (c.increment i x).xpc = c.xpc := rfl
@[simp] theorem Core.increment_xcause (c : Core) (i : BitVec 6) (x : BitVec 32) : (c.increment i x).xcause = c.xcause := rfl
@[simp] theorem Core.increment_xval (c : Core) (i : BitVec 6) (x : BitVec 32) : (c.increment i x).xval = c.xval := rfl
@[simp] theorem Core.increment_xscratch (c : Core) (i : BitVec 6) (x : BitVec 32) : (c.increment i x).xscratch = c.xscratch := rfl
@[simp] theorem Core.increment_timed (c : Core) (i : BitVec 6) (x : BitVec 32) : (c.increment i x).timed = c.timed := rfl
@[simp] theorem Core.increment_inh (c : Core) (i : BitVec 6) (x : BitVec 32) : (c.increment i x).inh = c.inh := rfl
@[simp] theorem Core.increment_dbg (c : Core) (i : BitVec 6) (x : BitVec 32) : (c.increment i x).dbg = c.dbg := rfl
@[simp] theorem Core.increment_cseg (c : Core) (i : BitVec 6) (x : BitVec 32) : (c.increment i x).cseg = c.cseg := rfl
@[simp] theorem Core.increment_segFrom (c : Core) (i : BitVec 6) (x : BitVec 32) : (c.increment i x).segFrom = c.segFrom := rfl
@[simp] theorem Core.increment_crb (c : Core) (i : BitVec 6) (x : BitVec 32) : (c.increment i x).crb = c.crb := rfl
@[simp] theorem Core.increment_csat (c : Core) (i : BitVec 6) (x : BitVec 32) : (c.increment i x).csat = c.csat := rfl
@[simp] theorem Core.increment_crnd (c : Core) (i : BitVec 6) (x : BitVec 32) : (c.increment i x).crnd = c.crnd := rfl
@[simp] theorem Core.increment_suit (c : Core) (i : BitVec 6) (x : BitVec 32) : (c.increment i x).suit = c.suit := rfl
@[simp] theorem Core.increment_cbatch (c : Core) (i : BitVec 6) (x : BitVec 32) : (c.increment i x).cbatch = c.cbatch := rfl
@[simp] theorem Core.increment_lx (c : Core) (i : BitVec 6) (x : BitVec 32) : (c.increment i x).lx = c.lx := rfl
@[simp] theorem Core.increment_ly (c : Core) (i : BitVec 6) (x : BitVec 32) : (c.increment i x).ly = c.ly := rfl
@[simp] theorem Core.increment_lw (c : Core) (i : BitVec 6) (x : BitVec 32) : (c.increment i x).lw = c.lw := rfl
@[simp] theorem Core.increment_lh (c : Core) (i : BitVec 6) (x : BitVec 32) : (c.increment i x).lh = c.lh := rfl
@[simp] theorem Core.increment_counters (c : Core) (i : BitVec 6) (x : BitVec 32) : (c.increment i x).counters = c.counters.set i.toNat (c.counters[i.toNat] + x) := rfl
@[simp] theorem Core.increment_gs (c : Core) (i : BitVec 6) (x : BitVec 32) : (c.increment i x).gs = c.gs := rfl
@[simp] theorem Core.increment_vs (c : Core) (i : BitVec 6) (x : BitVec 32) : (c.increment i x).vs = c.vs := rfl
@[simp] theorem Core.increment_windows (c : Core) (i : BitVec 6) (x : BitVec 32) : (c.increment i x).windows = c.windows := rfl
@[simp] theorem Core.increment_flagsDue (c : Core) (i : BitVec 6) (x : BitVec 32) : (c.increment i x).flagsDue = c.flagsDue := rfl
@[simp] theorem Core.increment_refetch (c : Core) (i : BitVec 6) (x : BitVec 32) : (c.increment i x).refetch = c.refetch := rfl
@[simp] theorem Core.increment_half (c : Core) (i : BitVec 6) (x : BitVec 32) : (c.increment i x).half = c.half := rfl
@[simp] theorem Core.increment_draining (c : Core) (i : BitVec 6) (x : BitVec 32) : (c.increment i x).draining = c.draining := rfl
@[simp] theorem Core.increment_stopped (c : Core) (i : BitVec 6) (x : BitVec 32) : (c.increment i x).stopped = c.stopped := rfl
@[simp] theorem Core.increment_late (c : Core) (i : BitVec 6) (x : BitVec 32) : (c.increment i x).late = c.late := rfl
@[simp] theorem Core.increment_popped (c : Core) (i : BitVec 6) (x : BitVec 32) : (c.increment i x).popped = c.popped := rfl
@[simp] theorem Core.increment_status (c : Core) (i : BitVec 6) (x : BitVec 32) : (c.increment i x).status = c.status := rfl
@[simp] theorem Core.increment_readyAt (c : Core) (i : BitVec 6) (x : BitVec 32) : (c.increment i x).readyAt = c.readyAt := rfl
@[simp] theorem Core.increment_ract (c : Core) (i : BitVec 6) (x : BitVec 32) : (c.increment i x).ract = c.ract := rfl
@[simp] theorem Core.increment_rtile (c : Core) (i : BitVec 6) (x : BitVec 32) : (c.increment i x).rtile = c.rtile := rfl
@[simp] theorem Core.increment_rfull (c : Core) (i : BitVec 6) (x : BitVec 32) : (c.increment i x).rfull = c.rfull := rfl
@[simp] theorem Core.increment_follow (c : Core) (i : BitVec 6) (x : BitVec 32) : (c.increment i x).follow = c.follow := rfl
@[simp] theorem Core.increment_lead (c : Core) (i : BitVec 6) (x : BitVec 32) : (c.increment i x).lead = c.lead := rfl
@[simp] theorem Core.increment_access (c : Core) (i : BitVec 6) (x : BitVec 32) : (c.increment i x).access = c.access := rfl
@[simp] theorem Core.increment_batches (c : Core) (i : BitVec 6) (x : BitVec 32) : (c.increment i x).batches = c.batches := rfl
@[simp] theorem Core.increment_broken (c : Core) (i : BitVec 6) (x : BitVec 32) : (c.increment i x).broken = c.broken := rfl
@[simp] theorem Core.increment_held (c : Core) (i : BitVec 6) (x : BitVec 32) : (c.increment i x).held = c.held := rfl
@[simp] theorem Core.increment_park (c : Core) (i : BitVec 6) (x : BitVec 32) : (c.increment i x).park = c.park := rfl
@[simp] theorem Core.increment_launch (c : Core) (i : BitVec 6) (x : BitVec 32) : (c.increment i x).launch = c.launch := rfl
@[simp] theorem Core.increment_posted (c : Core) (i : BitVec 6) (x : BitVec 32) : (c.increment i x).posted = c.posted := rfl
@[simp] theorem Core.increment_reflecting (c : Core) (i : BitVec 6) (x : BitVec 32) : (c.increment i x).reflecting = c.reflecting := rfl

/-! ## Core.setGstream -/

@[simp] theorem Core.setGstream_pos (c : Core) (i : BitVec 5) (t : Option Stream) : (c.setGstream i t).pos = c.pos := by unfold Core.setGstream; split <;> rfl
@[simp] theorem Core.setGstream_g (c : Core) (i : BitVec 5) (t : Option Stream) : (c.setGstream i t).g = c.g := by unfold Core.setGstream; split <;> rfl
@[simp] theorem Core.setGstream_v (c : Core) (i : BitVec 5) (t : Option Stream) : (c.setGstream i t).v = c.v := by unfold Core.setGstream; split <;> rfl
@[simp] theorem Core.setGstream_m (c : Core) (i : BitVec 5) (t : Option Stream) : (c.setGstream i t).m = c.m := by unfold Core.setGstream; split <;> rfl
@[simp] theorem Core.setGstream_t (c : Core) (i : BitVec 5) (t : Option Stream) : (c.setGstream i t).t = c.t := by unfold Core.setGstream; split <;> rfl
@[simp] theorem Core.setGstream_vtag (c : Core) (i : BitVec 5) (t : Option Stream) : (c.setGstream i t).vtag = c.vtag := by unfold Core.setGstream; split <;> rfl
@[simp] theorem Core.setGstream_ttag (c : Core) (i : BitVec 5) (t : Option Stream) : (c.setGstream i t).ttag = c.ttag := by unfold Core.setGstream; split <;> rfl
@[simp] theorem Core.setGstream_pc (c : Core) (i : BitVec 5) (t : Option Stream) : (c.setGstream i t).pc = c.pc := by unfold Core.setGstream; split <;> rfl
@[simp] theorem Core.setGstream_cwp (c : Core) (i : BitVec 5) (t : Option Stream) : (c.setGstream i t).cwp = c.cwp := by unfold Core.setGstream; split <;> rfl
@[simp] theorem Core.setGstream_xpc (c : Core) (i : BitVec 5) (t : Option Stream) : (c.setGstream i t).xpc = c.xpc := by unfold Core.setGstream; split <;> rfl
@[simp] theorem Core.setGstream_xcause (c : Core) (i : BitVec 5) (t : Option Stream) : (c.setGstream i t).xcause = c.xcause := by unfold Core.setGstream; split <;> rfl
@[simp] theorem Core.setGstream_xval (c : Core) (i : BitVec 5) (t : Option Stream) : (c.setGstream i t).xval = c.xval := by unfold Core.setGstream; split <;> rfl
@[simp] theorem Core.setGstream_xscratch (c : Core) (i : BitVec 5) (t : Option Stream) : (c.setGstream i t).xscratch = c.xscratch := by unfold Core.setGstream; split <;> rfl
@[simp] theorem Core.setGstream_timed (c : Core) (i : BitVec 5) (t : Option Stream) : (c.setGstream i t).timed = c.timed := by unfold Core.setGstream; split <;> rfl
@[simp] theorem Core.setGstream_inh (c : Core) (i : BitVec 5) (t : Option Stream) : (c.setGstream i t).inh = c.inh := by unfold Core.setGstream; split <;> rfl
@[simp] theorem Core.setGstream_dbg (c : Core) (i : BitVec 5) (t : Option Stream) : (c.setGstream i t).dbg = c.dbg := by unfold Core.setGstream; split <;> rfl
@[simp] theorem Core.setGstream_cseg (c : Core) (i : BitVec 5) (t : Option Stream) : (c.setGstream i t).cseg = c.cseg := by unfold Core.setGstream; split <;> rfl
@[simp] theorem Core.setGstream_segFrom (c : Core) (i : BitVec 5) (t : Option Stream) : (c.setGstream i t).segFrom = c.segFrom := by unfold Core.setGstream; split <;> rfl
@[simp] theorem Core.setGstream_crb (c : Core) (i : BitVec 5) (t : Option Stream) : (c.setGstream i t).crb = c.crb := by unfold Core.setGstream; split <;> rfl
@[simp] theorem Core.setGstream_csat (c : Core) (i : BitVec 5) (t : Option Stream) : (c.setGstream i t).csat = c.csat := by unfold Core.setGstream; split <;> rfl
@[simp] theorem Core.setGstream_crnd (c : Core) (i : BitVec 5) (t : Option Stream) : (c.setGstream i t).crnd = c.crnd := by unfold Core.setGstream; split <;> rfl
@[simp] theorem Core.setGstream_suit (c : Core) (i : BitVec 5) (t : Option Stream) : (c.setGstream i t).suit = c.suit := by unfold Core.setGstream; split <;> rfl
@[simp] theorem Core.setGstream_cbatch (c : Core) (i : BitVec 5) (t : Option Stream) : (c.setGstream i t).cbatch = c.cbatch := by unfold Core.setGstream; split <;> rfl
@[simp] theorem Core.setGstream_lx (c : Core) (i : BitVec 5) (t : Option Stream) : (c.setGstream i t).lx = c.lx := by unfold Core.setGstream; split <;> rfl
@[simp] theorem Core.setGstream_ly (c : Core) (i : BitVec 5) (t : Option Stream) : (c.setGstream i t).ly = c.ly := by unfold Core.setGstream; split <;> rfl
@[simp] theorem Core.setGstream_lw (c : Core) (i : BitVec 5) (t : Option Stream) : (c.setGstream i t).lw = c.lw := by unfold Core.setGstream; split <;> rfl
@[simp] theorem Core.setGstream_lh (c : Core) (i : BitVec 5) (t : Option Stream) : (c.setGstream i t).lh = c.lh := by unfold Core.setGstream; split <;> rfl
@[simp] theorem Core.setGstream_counters (c : Core) (i : BitVec 5) (t : Option Stream) : (c.setGstream i t).counters = c.counters := by unfold Core.setGstream; split <;> rfl
@[simp] theorem Core.setGstream_vs (c : Core) (i : BitVec 5) (t : Option Stream) : (c.setGstream i t).vs = c.vs := by unfold Core.setGstream; split <;> rfl
@[simp] theorem Core.setGstream_windows (c : Core) (i : BitVec 5) (t : Option Stream) : (c.setGstream i t).windows = c.windows := by unfold Core.setGstream; split <;> rfl
@[simp] theorem Core.setGstream_flagsDue (c : Core) (i : BitVec 5) (t : Option Stream) : (c.setGstream i t).flagsDue = c.flagsDue := by unfold Core.setGstream; split <;> rfl
@[simp] theorem Core.setGstream_refetch (c : Core) (i : BitVec 5) (t : Option Stream) : (c.setGstream i t).refetch = c.refetch := by unfold Core.setGstream; split <;> rfl
@[simp] theorem Core.setGstream_half (c : Core) (i : BitVec 5) (t : Option Stream) : (c.setGstream i t).half = c.half := by unfold Core.setGstream; split <;> rfl
@[simp] theorem Core.setGstream_draining (c : Core) (i : BitVec 5) (t : Option Stream) : (c.setGstream i t).draining = c.draining := by unfold Core.setGstream; split <;> rfl
@[simp] theorem Core.setGstream_stopped (c : Core) (i : BitVec 5) (t : Option Stream) : (c.setGstream i t).stopped = c.stopped := by unfold Core.setGstream; split <;> rfl
@[simp] theorem Core.setGstream_late (c : Core) (i : BitVec 5) (t : Option Stream) : (c.setGstream i t).late = c.late := by unfold Core.setGstream; split <;> rfl
@[simp] theorem Core.setGstream_popped (c : Core) (i : BitVec 5) (t : Option Stream) : (c.setGstream i t).popped = c.popped := by unfold Core.setGstream; split <;> rfl
@[simp] theorem Core.setGstream_status (c : Core) (i : BitVec 5) (t : Option Stream) : (c.setGstream i t).status = c.status := by unfold Core.setGstream; split <;> rfl
@[simp] theorem Core.setGstream_readyAt (c : Core) (i : BitVec 5) (t : Option Stream) : (c.setGstream i t).readyAt = c.readyAt := by unfold Core.setGstream; split <;> rfl
@[simp] theorem Core.setGstream_ract (c : Core) (i : BitVec 5) (t : Option Stream) : (c.setGstream i t).ract = c.ract := by unfold Core.setGstream; split <;> rfl
@[simp] theorem Core.setGstream_rtile (c : Core) (i : BitVec 5) (t : Option Stream) : (c.setGstream i t).rtile = c.rtile := by unfold Core.setGstream; split <;> rfl
@[simp] theorem Core.setGstream_rfull (c : Core) (i : BitVec 5) (t : Option Stream) : (c.setGstream i t).rfull = c.rfull := by unfold Core.setGstream; split <;> rfl
@[simp] theorem Core.setGstream_follow (c : Core) (i : BitVec 5) (t : Option Stream) : (c.setGstream i t).follow = c.follow := by unfold Core.setGstream; split <;> rfl
@[simp] theorem Core.setGstream_lead (c : Core) (i : BitVec 5) (t : Option Stream) : (c.setGstream i t).lead = c.lead := by unfold Core.setGstream; split <;> rfl
@[simp] theorem Core.setGstream_access (c : Core) (i : BitVec 5) (t : Option Stream) : (c.setGstream i t).access = c.access := by unfold Core.setGstream; split <;> rfl
@[simp] theorem Core.setGstream_batches (c : Core) (i : BitVec 5) (t : Option Stream) : (c.setGstream i t).batches = c.batches := by unfold Core.setGstream; split <;> rfl
@[simp] theorem Core.setGstream_pending (c : Core) (i : BitVec 5) (t : Option Stream) : (c.setGstream i t).pending = c.pending := by unfold Core.setGstream; split <;> rfl
@[simp] theorem Core.setGstream_broken (c : Core) (i : BitVec 5) (t : Option Stream) : (c.setGstream i t).broken = c.broken := by unfold Core.setGstream; split <;> rfl
@[simp] theorem Core.setGstream_held (c : Core) (i : BitVec 5) (t : Option Stream) : (c.setGstream i t).held = c.held := by unfold Core.setGstream; split <;> rfl
@[simp] theorem Core.setGstream_park (c : Core) (i : BitVec 5) (t : Option Stream) : (c.setGstream i t).park = c.park := by unfold Core.setGstream; split <;> rfl
@[simp] theorem Core.setGstream_launch (c : Core) (i : BitVec 5) (t : Option Stream) : (c.setGstream i t).launch = c.launch := by unfold Core.setGstream; split <;> rfl
@[simp] theorem Core.setGstream_posted (c : Core) (i : BitVec 5) (t : Option Stream) : (c.setGstream i t).posted = c.posted := by unfold Core.setGstream; split <;> rfl
@[simp] theorem Core.setGstream_reflecting (c : Core) (i : BitVec 5) (t : Option Stream) : (c.setGstream i t).reflecting = c.reflecting := by unfold Core.setGstream; split <;> rfl

/-! ## Core.setVstream -/

@[simp] theorem Core.setVstream_pos (c : Core) (i : BitVec 4) (t : Option Stream) : (c.setVstream i t).pos = c.pos := by unfold Core.setVstream; split <;> rfl
@[simp] theorem Core.setVstream_g (c : Core) (i : BitVec 4) (t : Option Stream) : (c.setVstream i t).g = c.g := by unfold Core.setVstream; split <;> rfl
@[simp] theorem Core.setVstream_v (c : Core) (i : BitVec 4) (t : Option Stream) : (c.setVstream i t).v = c.v := by unfold Core.setVstream; split <;> rfl
@[simp] theorem Core.setVstream_m (c : Core) (i : BitVec 4) (t : Option Stream) : (c.setVstream i t).m = c.m := by unfold Core.setVstream; split <;> rfl
@[simp] theorem Core.setVstream_t (c : Core) (i : BitVec 4) (t : Option Stream) : (c.setVstream i t).t = c.t := by unfold Core.setVstream; split <;> rfl
@[simp] theorem Core.setVstream_vtag (c : Core) (i : BitVec 4) (t : Option Stream) : (c.setVstream i t).vtag = c.vtag := by unfold Core.setVstream; split <;> rfl
@[simp] theorem Core.setVstream_ttag (c : Core) (i : BitVec 4) (t : Option Stream) : (c.setVstream i t).ttag = c.ttag := by unfold Core.setVstream; split <;> rfl
@[simp] theorem Core.setVstream_pc (c : Core) (i : BitVec 4) (t : Option Stream) : (c.setVstream i t).pc = c.pc := by unfold Core.setVstream; split <;> rfl
@[simp] theorem Core.setVstream_cwp (c : Core) (i : BitVec 4) (t : Option Stream) : (c.setVstream i t).cwp = c.cwp := by unfold Core.setVstream; split <;> rfl
@[simp] theorem Core.setVstream_xpc (c : Core) (i : BitVec 4) (t : Option Stream) : (c.setVstream i t).xpc = c.xpc := by unfold Core.setVstream; split <;> rfl
@[simp] theorem Core.setVstream_xcause (c : Core) (i : BitVec 4) (t : Option Stream) : (c.setVstream i t).xcause = c.xcause := by unfold Core.setVstream; split <;> rfl
@[simp] theorem Core.setVstream_xval (c : Core) (i : BitVec 4) (t : Option Stream) : (c.setVstream i t).xval = c.xval := by unfold Core.setVstream; split <;> rfl
@[simp] theorem Core.setVstream_xscratch (c : Core) (i : BitVec 4) (t : Option Stream) : (c.setVstream i t).xscratch = c.xscratch := by unfold Core.setVstream; split <;> rfl
@[simp] theorem Core.setVstream_timed (c : Core) (i : BitVec 4) (t : Option Stream) : (c.setVstream i t).timed = c.timed := by unfold Core.setVstream; split <;> rfl
@[simp] theorem Core.setVstream_inh (c : Core) (i : BitVec 4) (t : Option Stream) : (c.setVstream i t).inh = c.inh := by unfold Core.setVstream; split <;> rfl
@[simp] theorem Core.setVstream_dbg (c : Core) (i : BitVec 4) (t : Option Stream) : (c.setVstream i t).dbg = c.dbg := by unfold Core.setVstream; split <;> rfl
@[simp] theorem Core.setVstream_cseg (c : Core) (i : BitVec 4) (t : Option Stream) : (c.setVstream i t).cseg = c.cseg := by unfold Core.setVstream; split <;> rfl
@[simp] theorem Core.setVstream_segFrom (c : Core) (i : BitVec 4) (t : Option Stream) : (c.setVstream i t).segFrom = c.segFrom := by unfold Core.setVstream; split <;> rfl
@[simp] theorem Core.setVstream_crb (c : Core) (i : BitVec 4) (t : Option Stream) : (c.setVstream i t).crb = c.crb := by unfold Core.setVstream; split <;> rfl
@[simp] theorem Core.setVstream_csat (c : Core) (i : BitVec 4) (t : Option Stream) : (c.setVstream i t).csat = c.csat := by unfold Core.setVstream; split <;> rfl
@[simp] theorem Core.setVstream_crnd (c : Core) (i : BitVec 4) (t : Option Stream) : (c.setVstream i t).crnd = c.crnd := by unfold Core.setVstream; split <;> rfl
@[simp] theorem Core.setVstream_suit (c : Core) (i : BitVec 4) (t : Option Stream) : (c.setVstream i t).suit = c.suit := by unfold Core.setVstream; split <;> rfl
@[simp] theorem Core.setVstream_cbatch (c : Core) (i : BitVec 4) (t : Option Stream) : (c.setVstream i t).cbatch = c.cbatch := by unfold Core.setVstream; split <;> rfl
@[simp] theorem Core.setVstream_lx (c : Core) (i : BitVec 4) (t : Option Stream) : (c.setVstream i t).lx = c.lx := by unfold Core.setVstream; split <;> rfl
@[simp] theorem Core.setVstream_ly (c : Core) (i : BitVec 4) (t : Option Stream) : (c.setVstream i t).ly = c.ly := by unfold Core.setVstream; split <;> rfl
@[simp] theorem Core.setVstream_lw (c : Core) (i : BitVec 4) (t : Option Stream) : (c.setVstream i t).lw = c.lw := by unfold Core.setVstream; split <;> rfl
@[simp] theorem Core.setVstream_lh (c : Core) (i : BitVec 4) (t : Option Stream) : (c.setVstream i t).lh = c.lh := by unfold Core.setVstream; split <;> rfl
@[simp] theorem Core.setVstream_counters (c : Core) (i : BitVec 4) (t : Option Stream) : (c.setVstream i t).counters = c.counters := by unfold Core.setVstream; split <;> rfl
@[simp] theorem Core.setVstream_gs (c : Core) (i : BitVec 4) (t : Option Stream) : (c.setVstream i t).gs = c.gs := by unfold Core.setVstream; split <;> rfl
@[simp] theorem Core.setVstream_windows (c : Core) (i : BitVec 4) (t : Option Stream) : (c.setVstream i t).windows = c.windows := by unfold Core.setVstream; split <;> rfl
@[simp] theorem Core.setVstream_flagsDue (c : Core) (i : BitVec 4) (t : Option Stream) : (c.setVstream i t).flagsDue = c.flagsDue := by unfold Core.setVstream; split <;> rfl
@[simp] theorem Core.setVstream_refetch (c : Core) (i : BitVec 4) (t : Option Stream) : (c.setVstream i t).refetch = c.refetch := by unfold Core.setVstream; split <;> rfl
@[simp] theorem Core.setVstream_half (c : Core) (i : BitVec 4) (t : Option Stream) : (c.setVstream i t).half = c.half := by unfold Core.setVstream; split <;> rfl
@[simp] theorem Core.setVstream_draining (c : Core) (i : BitVec 4) (t : Option Stream) : (c.setVstream i t).draining = c.draining := by unfold Core.setVstream; split <;> rfl
@[simp] theorem Core.setVstream_stopped (c : Core) (i : BitVec 4) (t : Option Stream) : (c.setVstream i t).stopped = c.stopped := by unfold Core.setVstream; split <;> rfl
@[simp] theorem Core.setVstream_late (c : Core) (i : BitVec 4) (t : Option Stream) : (c.setVstream i t).late = c.late := by unfold Core.setVstream; split <;> rfl
@[simp] theorem Core.setVstream_popped (c : Core) (i : BitVec 4) (t : Option Stream) : (c.setVstream i t).popped = c.popped := by unfold Core.setVstream; split <;> rfl
@[simp] theorem Core.setVstream_status (c : Core) (i : BitVec 4) (t : Option Stream) : (c.setVstream i t).status = c.status := by unfold Core.setVstream; split <;> rfl
@[simp] theorem Core.setVstream_readyAt (c : Core) (i : BitVec 4) (t : Option Stream) : (c.setVstream i t).readyAt = c.readyAt := by unfold Core.setVstream; split <;> rfl
@[simp] theorem Core.setVstream_ract (c : Core) (i : BitVec 4) (t : Option Stream) : (c.setVstream i t).ract = c.ract := by unfold Core.setVstream; split <;> rfl
@[simp] theorem Core.setVstream_rtile (c : Core) (i : BitVec 4) (t : Option Stream) : (c.setVstream i t).rtile = c.rtile := by unfold Core.setVstream; split <;> rfl
@[simp] theorem Core.setVstream_rfull (c : Core) (i : BitVec 4) (t : Option Stream) : (c.setVstream i t).rfull = c.rfull := by unfold Core.setVstream; split <;> rfl
@[simp] theorem Core.setVstream_follow (c : Core) (i : BitVec 4) (t : Option Stream) : (c.setVstream i t).follow = c.follow := by unfold Core.setVstream; split <;> rfl
@[simp] theorem Core.setVstream_lead (c : Core) (i : BitVec 4) (t : Option Stream) : (c.setVstream i t).lead = c.lead := by unfold Core.setVstream; split <;> rfl
@[simp] theorem Core.setVstream_access (c : Core) (i : BitVec 4) (t : Option Stream) : (c.setVstream i t).access = c.access := by unfold Core.setVstream; split <;> rfl
@[simp] theorem Core.setVstream_batches (c : Core) (i : BitVec 4) (t : Option Stream) : (c.setVstream i t).batches = c.batches := by unfold Core.setVstream; split <;> rfl
@[simp] theorem Core.setVstream_pending (c : Core) (i : BitVec 4) (t : Option Stream) : (c.setVstream i t).pending = c.pending := by unfold Core.setVstream; split <;> rfl
@[simp] theorem Core.setVstream_broken (c : Core) (i : BitVec 4) (t : Option Stream) : (c.setVstream i t).broken = c.broken := by unfold Core.setVstream; split <;> rfl
@[simp] theorem Core.setVstream_held (c : Core) (i : BitVec 4) (t : Option Stream) : (c.setVstream i t).held = c.held := by unfold Core.setVstream; split <;> rfl
@[simp] theorem Core.setVstream_park (c : Core) (i : BitVec 4) (t : Option Stream) : (c.setVstream i t).park = c.park := by unfold Core.setVstream; split <;> rfl
@[simp] theorem Core.setVstream_launch (c : Core) (i : BitVec 4) (t : Option Stream) : (c.setVstream i t).launch = c.launch := by unfold Core.setVstream; split <;> rfl
@[simp] theorem Core.setVstream_posted (c : Core) (i : BitVec 4) (t : Option Stream) : (c.setVstream i t).posted = c.posted := by unfold Core.setVstream; split <;> rfl
@[simp] theorem Core.setVstream_reflecting (c : Core) (i : BitVec 4) (t : Option Stream) : (c.setVstream i t).reflecting = c.reflecting := by unfold Core.setVstream; split <;> rfl

/-! ## Core.putG -/

@[simp] theorem Core.putG_pos (c : Core) (i : BitVec 5) (x : Word) : (c.putG i x).pos = c.pos := by unfold Core.putG; split <;> rfl
@[simp] theorem Core.putG_v (c : Core) (i : BitVec 5) (x : Word) : (c.putG i x).v = c.v := by unfold Core.putG; split <;> rfl
@[simp] theorem Core.putG_m (c : Core) (i : BitVec 5) (x : Word) : (c.putG i x).m = c.m := by unfold Core.putG; split <;> rfl
@[simp] theorem Core.putG_t (c : Core) (i : BitVec 5) (x : Word) : (c.putG i x).t = c.t := by unfold Core.putG; split <;> rfl
@[simp] theorem Core.putG_vtag (c : Core) (i : BitVec 5) (x : Word) : (c.putG i x).vtag = c.vtag := by unfold Core.putG; split <;> rfl
@[simp] theorem Core.putG_ttag (c : Core) (i : BitVec 5) (x : Word) : (c.putG i x).ttag = c.ttag := by unfold Core.putG; split <;> rfl
@[simp] theorem Core.putG_pc (c : Core) (i : BitVec 5) (x : Word) : (c.putG i x).pc = c.pc := by unfold Core.putG; split <;> rfl
@[simp] theorem Core.putG_cwp (c : Core) (i : BitVec 5) (x : Word) : (c.putG i x).cwp = c.cwp := by unfold Core.putG; split <;> rfl
@[simp] theorem Core.putG_xpc (c : Core) (i : BitVec 5) (x : Word) : (c.putG i x).xpc = c.xpc := by unfold Core.putG; split <;> rfl
@[simp] theorem Core.putG_xcause (c : Core) (i : BitVec 5) (x : Word) : (c.putG i x).xcause = c.xcause := by unfold Core.putG; split <;> rfl
@[simp] theorem Core.putG_xval (c : Core) (i : BitVec 5) (x : Word) : (c.putG i x).xval = c.xval := by unfold Core.putG; split <;> rfl
@[simp] theorem Core.putG_xscratch (c : Core) (i : BitVec 5) (x : Word) : (c.putG i x).xscratch = c.xscratch := by unfold Core.putG; split <;> rfl
@[simp] theorem Core.putG_timed (c : Core) (i : BitVec 5) (x : Word) : (c.putG i x).timed = c.timed := by unfold Core.putG; split <;> rfl
@[simp] theorem Core.putG_inh (c : Core) (i : BitVec 5) (x : Word) : (c.putG i x).inh = c.inh := by unfold Core.putG; split <;> rfl
@[simp] theorem Core.putG_dbg (c : Core) (i : BitVec 5) (x : Word) : (c.putG i x).dbg = c.dbg := by unfold Core.putG; split <;> rfl
@[simp] theorem Core.putG_cseg (c : Core) (i : BitVec 5) (x : Word) : (c.putG i x).cseg = c.cseg := by unfold Core.putG; split <;> rfl
@[simp] theorem Core.putG_segFrom (c : Core) (i : BitVec 5) (x : Word) : (c.putG i x).segFrom = c.segFrom := by unfold Core.putG; split <;> rfl
@[simp] theorem Core.putG_crb (c : Core) (i : BitVec 5) (x : Word) : (c.putG i x).crb = c.crb := by unfold Core.putG; split <;> rfl
@[simp] theorem Core.putG_csat (c : Core) (i : BitVec 5) (x : Word) : (c.putG i x).csat = c.csat := by unfold Core.putG; split <;> rfl
@[simp] theorem Core.putG_crnd (c : Core) (i : BitVec 5) (x : Word) : (c.putG i x).crnd = c.crnd := by unfold Core.putG; split <;> rfl
@[simp] theorem Core.putG_suit (c : Core) (i : BitVec 5) (x : Word) : (c.putG i x).suit = c.suit := by unfold Core.putG; split <;> rfl
@[simp] theorem Core.putG_cbatch (c : Core) (i : BitVec 5) (x : Word) : (c.putG i x).cbatch = c.cbatch := by unfold Core.putG; split <;> rfl
@[simp] theorem Core.putG_lx (c : Core) (i : BitVec 5) (x : Word) : (c.putG i x).lx = c.lx := by unfold Core.putG; split <;> rfl
@[simp] theorem Core.putG_ly (c : Core) (i : BitVec 5) (x : Word) : (c.putG i x).ly = c.ly := by unfold Core.putG; split <;> rfl
@[simp] theorem Core.putG_lw (c : Core) (i : BitVec 5) (x : Word) : (c.putG i x).lw = c.lw := by unfold Core.putG; split <;> rfl
@[simp] theorem Core.putG_lh (c : Core) (i : BitVec 5) (x : Word) : (c.putG i x).lh = c.lh := by unfold Core.putG; split <;> rfl
@[simp] theorem Core.putG_counters (c : Core) (i : BitVec 5) (x : Word) : (c.putG i x).counters = c.counters := by unfold Core.putG; split <;> rfl
@[simp] theorem Core.putG_gs (c : Core) (i : BitVec 5) (x : Word) : (c.putG i x).gs = c.gs := by unfold Core.putG; split <;> rfl
@[simp] theorem Core.putG_vs (c : Core) (i : BitVec 5) (x : Word) : (c.putG i x).vs = c.vs := by unfold Core.putG; split <;> rfl
@[simp] theorem Core.putG_windows (c : Core) (i : BitVec 5) (x : Word) : (c.putG i x).windows = c.windows := by unfold Core.putG; split <;> rfl
@[simp] theorem Core.putG_flagsDue (c : Core) (i : BitVec 5) (x : Word) : (c.putG i x).flagsDue = c.flagsDue := by unfold Core.putG; split <;> rfl
@[simp] theorem Core.putG_refetch (c : Core) (i : BitVec 5) (x : Word) : (c.putG i x).refetch = c.refetch := by unfold Core.putG; split <;> rfl
@[simp] theorem Core.putG_half (c : Core) (i : BitVec 5) (x : Word) : (c.putG i x).half = c.half := by unfold Core.putG; split <;> rfl
@[simp] theorem Core.putG_draining (c : Core) (i : BitVec 5) (x : Word) : (c.putG i x).draining = c.draining := by unfold Core.putG; split <;> rfl
@[simp] theorem Core.putG_stopped (c : Core) (i : BitVec 5) (x : Word) : (c.putG i x).stopped = c.stopped := by unfold Core.putG; split <;> rfl
@[simp] theorem Core.putG_late (c : Core) (i : BitVec 5) (x : Word) : (c.putG i x).late = c.late := by unfold Core.putG; split <;> rfl
@[simp] theorem Core.putG_popped (c : Core) (i : BitVec 5) (x : Word) : (c.putG i x).popped = c.popped := by unfold Core.putG; split <;> rfl
@[simp] theorem Core.putG_status (c : Core) (i : BitVec 5) (x : Word) : (c.putG i x).status = c.status := by unfold Core.putG; split <;> rfl
@[simp] theorem Core.putG_readyAt (c : Core) (i : BitVec 5) (x : Word) : (c.putG i x).readyAt = c.readyAt := by unfold Core.putG; split <;> rfl
@[simp] theorem Core.putG_ract (c : Core) (i : BitVec 5) (x : Word) : (c.putG i x).ract = c.ract := by unfold Core.putG; split <;> rfl
@[simp] theorem Core.putG_rtile (c : Core) (i : BitVec 5) (x : Word) : (c.putG i x).rtile = c.rtile := by unfold Core.putG; split <;> rfl
@[simp] theorem Core.putG_rfull (c : Core) (i : BitVec 5) (x : Word) : (c.putG i x).rfull = c.rfull := by unfold Core.putG; split <;> rfl
@[simp] theorem Core.putG_follow (c : Core) (i : BitVec 5) (x : Word) : (c.putG i x).follow = c.follow := by unfold Core.putG; split <;> rfl
@[simp] theorem Core.putG_lead (c : Core) (i : BitVec 5) (x : Word) : (c.putG i x).lead = c.lead := by unfold Core.putG; split <;> rfl
@[simp] theorem Core.putG_access (c : Core) (i : BitVec 5) (x : Word) : (c.putG i x).access = c.access := by unfold Core.putG; split <;> rfl
@[simp] theorem Core.putG_batches (c : Core) (i : BitVec 5) (x : Word) : (c.putG i x).batches = c.batches := by unfold Core.putG; split <;> rfl
@[simp] theorem Core.putG_pending (c : Core) (i : BitVec 5) (x : Word) : (c.putG i x).pending = c.pending := by unfold Core.putG; split <;> rfl
@[simp] theorem Core.putG_broken (c : Core) (i : BitVec 5) (x : Word) : (c.putG i x).broken = c.broken := by unfold Core.putG; split <;> rfl
@[simp] theorem Core.putG_held (c : Core) (i : BitVec 5) (x : Word) : (c.putG i x).held = c.held := by unfold Core.putG; split <;> rfl
@[simp] theorem Core.putG_park (c : Core) (i : BitVec 5) (x : Word) : (c.putG i x).park = c.park := by unfold Core.putG; split <;> rfl
@[simp] theorem Core.putG_launch (c : Core) (i : BitVec 5) (x : Word) : (c.putG i x).launch = c.launch := by unfold Core.putG; split <;> rfl
@[simp] theorem Core.putG_posted (c : Core) (i : BitVec 5) (x : Word) : (c.putG i x).posted = c.posted := by unfold Core.putG; split <;> rfl
@[simp] theorem Core.putG_reflecting (c : Core) (i : BitVec 5) (x : Word) : (c.putG i x).reflecting = c.reflecting := by unfold Core.putG; split <;> rfl

/-! ## Core.joinBatch -/

@[simp] theorem Core.joinBatch_pos (c : Core) : c.joinBatch.pos = c.pos := by unfold Core.joinBatch; split <;> rfl
@[simp] theorem Core.joinBatch_g (c : Core) : c.joinBatch.g = c.g := by unfold Core.joinBatch; split <;> rfl
@[simp] theorem Core.joinBatch_v (c : Core) : c.joinBatch.v = c.v := by unfold Core.joinBatch; split <;> rfl
@[simp] theorem Core.joinBatch_m (c : Core) : c.joinBatch.m = c.m := by unfold Core.joinBatch; split <;> rfl
@[simp] theorem Core.joinBatch_t (c : Core) : c.joinBatch.t = c.t := by unfold Core.joinBatch; split <;> rfl
@[simp] theorem Core.joinBatch_vtag (c : Core) : c.joinBatch.vtag = c.vtag := by unfold Core.joinBatch; split <;> rfl
@[simp] theorem Core.joinBatch_ttag (c : Core) : c.joinBatch.ttag = c.ttag := by unfold Core.joinBatch; split <;> rfl
@[simp] theorem Core.joinBatch_pc (c : Core) : c.joinBatch.pc = c.pc := by unfold Core.joinBatch; split <;> rfl
@[simp] theorem Core.joinBatch_cwp (c : Core) : c.joinBatch.cwp = c.cwp := by unfold Core.joinBatch; split <;> rfl
@[simp] theorem Core.joinBatch_xpc (c : Core) : c.joinBatch.xpc = c.xpc := by unfold Core.joinBatch; split <;> rfl
@[simp] theorem Core.joinBatch_xcause (c : Core) : c.joinBatch.xcause = c.xcause := by unfold Core.joinBatch; split <;> rfl
@[simp] theorem Core.joinBatch_xval (c : Core) : c.joinBatch.xval = c.xval := by unfold Core.joinBatch; split <;> rfl
@[simp] theorem Core.joinBatch_xscratch (c : Core) : c.joinBatch.xscratch = c.xscratch := by unfold Core.joinBatch; split <;> rfl
@[simp] theorem Core.joinBatch_timed (c : Core) : c.joinBatch.timed = c.timed := by unfold Core.joinBatch; split <;> rfl
@[simp] theorem Core.joinBatch_inh (c : Core) : c.joinBatch.inh = c.inh := by unfold Core.joinBatch; split <;> rfl
@[simp] theorem Core.joinBatch_dbg (c : Core) : c.joinBatch.dbg = c.dbg := by unfold Core.joinBatch; split <;> rfl
@[simp] theorem Core.joinBatch_cseg (c : Core) : c.joinBatch.cseg = c.cseg := by unfold Core.joinBatch; split <;> rfl
@[simp] theorem Core.joinBatch_segFrom (c : Core) : c.joinBatch.segFrom = c.segFrom := by unfold Core.joinBatch; split <;> rfl
@[simp] theorem Core.joinBatch_crb (c : Core) : c.joinBatch.crb = c.crb := by unfold Core.joinBatch; split <;> rfl
@[simp] theorem Core.joinBatch_csat (c : Core) : c.joinBatch.csat = c.csat := by unfold Core.joinBatch; split <;> rfl
@[simp] theorem Core.joinBatch_crnd (c : Core) : c.joinBatch.crnd = c.crnd := by unfold Core.joinBatch; split <;> rfl
@[simp] theorem Core.joinBatch_suit (c : Core) : c.joinBatch.suit = c.suit := by unfold Core.joinBatch; split <;> rfl
@[simp] theorem Core.joinBatch_cbatch (c : Core) : c.joinBatch.cbatch = c.cbatch := by unfold Core.joinBatch; split <;> rfl
@[simp] theorem Core.joinBatch_lx (c : Core) : c.joinBatch.lx = c.lx := by unfold Core.joinBatch; split <;> rfl
@[simp] theorem Core.joinBatch_ly (c : Core) : c.joinBatch.ly = c.ly := by unfold Core.joinBatch; split <;> rfl
@[simp] theorem Core.joinBatch_lw (c : Core) : c.joinBatch.lw = c.lw := by unfold Core.joinBatch; split <;> rfl
@[simp] theorem Core.joinBatch_lh (c : Core) : c.joinBatch.lh = c.lh := by unfold Core.joinBatch; split <;> rfl
@[simp] theorem Core.joinBatch_counters (c : Core) : c.joinBatch.counters = c.counters := by unfold Core.joinBatch; split <;> rfl
@[simp] theorem Core.joinBatch_gs (c : Core) : c.joinBatch.gs = c.gs := by unfold Core.joinBatch; split <;> rfl
@[simp] theorem Core.joinBatch_vs (c : Core) : c.joinBatch.vs = c.vs := by unfold Core.joinBatch; split <;> rfl
@[simp] theorem Core.joinBatch_windows (c : Core) : c.joinBatch.windows = c.windows := by unfold Core.joinBatch; split <;> rfl
@[simp] theorem Core.joinBatch_flagsDue (c : Core) : c.joinBatch.flagsDue = c.flagsDue := by unfold Core.joinBatch; split <;> rfl
@[simp] theorem Core.joinBatch_refetch (c : Core) : c.joinBatch.refetch = c.refetch := by unfold Core.joinBatch; split <;> rfl
@[simp] theorem Core.joinBatch_half (c : Core) : c.joinBatch.half = c.half := by unfold Core.joinBatch; split <;> rfl
@[simp] theorem Core.joinBatch_draining (c : Core) : c.joinBatch.draining = c.draining := by unfold Core.joinBatch; split <;> rfl
@[simp] theorem Core.joinBatch_stopped (c : Core) : c.joinBatch.stopped = c.stopped := by unfold Core.joinBatch; split <;> rfl
@[simp] theorem Core.joinBatch_late (c : Core) : c.joinBatch.late = c.late := by unfold Core.joinBatch; split <;> rfl
@[simp] theorem Core.joinBatch_popped (c : Core) : c.joinBatch.popped = c.popped := by unfold Core.joinBatch; split <;> rfl
@[simp] theorem Core.joinBatch_status (c : Core) : c.joinBatch.status = c.status := by unfold Core.joinBatch; split <;> rfl
@[simp] theorem Core.joinBatch_readyAt (c : Core) : c.joinBatch.readyAt = c.readyAt := by unfold Core.joinBatch; split <;> rfl
@[simp] theorem Core.joinBatch_ract (c : Core) : c.joinBatch.ract = c.ract := by unfold Core.joinBatch; split <;> rfl
@[simp] theorem Core.joinBatch_rtile (c : Core) : c.joinBatch.rtile = c.rtile := by unfold Core.joinBatch; split <;> rfl
@[simp] theorem Core.joinBatch_rfull (c : Core) : c.joinBatch.rfull = c.rfull := by unfold Core.joinBatch; split <;> rfl
@[simp] theorem Core.joinBatch_follow (c : Core) : c.joinBatch.follow = c.follow := by unfold Core.joinBatch; split <;> rfl
@[simp] theorem Core.joinBatch_lead (c : Core) : c.joinBatch.lead = c.lead := by unfold Core.joinBatch; split <;> rfl
@[simp] theorem Core.joinBatch_access (c : Core) : c.joinBatch.access = c.access := by unfold Core.joinBatch; split <;> rfl
@[simp] theorem Core.joinBatch_pending (c : Core) : c.joinBatch.pending = c.pending := by unfold Core.joinBatch; split <;> rfl
@[simp] theorem Core.joinBatch_broken (c : Core) : c.joinBatch.broken = c.broken := by unfold Core.joinBatch; split <;> rfl
@[simp] theorem Core.joinBatch_held (c : Core) : c.joinBatch.held = c.held := by unfold Core.joinBatch; split <;> rfl
@[simp] theorem Core.joinBatch_park (c : Core) : c.joinBatch.park = c.park := by unfold Core.joinBatch; split <;> rfl
@[simp] theorem Core.joinBatch_launch (c : Core) : c.joinBatch.launch = c.launch := by unfold Core.joinBatch; split <;> rfl
@[simp] theorem Core.joinBatch_posted (c : Core) : c.joinBatch.posted = c.posted := by unfold Core.joinBatch; split <;> rfl
@[simp] theorem Core.joinBatch_reflecting (c : Core) : c.joinBatch.reflecting = c.reflecting := by unfold Core.joinBatch; split <;> rfl

end Sys2Proof.Machine
end

