-- ==== Sys2Proof/Tests/Slice0.lean ====
section
/-! SUPPORT. Small tests. -/

namespace Sys2Proof.Tests

set_option Elab.async false

open Sys2Proof Sys2Proof.Machine Sys2Proof.Says

/-- A running core at place 0 with its PC at 0x100, before any region exists; f sets what a test needs. -/
def one (f : Core → Core) : State :=
  { State.reset with
    core := f { Core.reset 0 with pc := 0x100, status := .running } }

/-- Registers by number. -/
def gs (l : List (Nat × Word)) (c : Core) : Core :=
  { c with
    g := l.foldl (fun v e => v.setIfInBounds e.1 e.2) c.g }

/-- What holds of the state that an outcome goes on to. -/
def goes? (o : Out) (p : State → Bool) : Bool :=
  match o with
  | .next t => p t
  | _ => false

/-- An outcome goes on to a state. -/
def goesTo (o : Out) (t : State) : Bool := goes? o (fun u => decide (u = t))

/-- Small operands in g4, g5, g6. -/
def ops : State := one (gs [(4, 0x1000), (5, 0x1040), (6, 3)])

/-- A read stream of one 8-byte element that has been fetched. -/
def readStream : Stream := ⟨0x1000, 0, 0x2000, 1, 1, 1, 8, 8, 0, 0, 0, [77], [], none, 0, 0⟩

/-- A write stream of one 8-byte element. -/
def writeStream : Stream := ⟨0x1000, 1, 0x2000, 1, 1, 1, 8, 8, 0, 0, 0, [], [], none, 0, 0⟩

/-- g24 is bound to a stream. -/
def streaming (r : Stream) : State := one (fun c => { c with gs := c.gs.set 0 (some r) })

/-- A free-code core with bytes 1 to 200 at 0x1000. -/
def held : State :=
  { ops with
    mem := (List.range 200).map (fun i => (0x1000 + i, BitVec.ofNat 8 (i + 1))) }

/-- The same core with other registers. -/
def heldWith (l : List (Nat × Word)) : State := { held with core := gs l held.core }


/-! ## Scalar -/

theorem test_w_scalarTwoSource : goesTo (exec (.rol 6 4 5) (one (gs [(4, 0x8000000000000001), (5, 65)]))) (went
    ({ one (gs [(4, 0x8000000000000001), (5, 65)]) with
      core := gs [(6, 3)] (one (gs [(4, 0x8000000000000001), (5, 65)])).core }) 4) = true := by decide +kernel

theorem test_w_scalar_zero : goesTo (exec (.add 0 4 5) (one (gs [(4, 7), (5, 8)]))) (went (one (gs [(4, 7), (5, 8)])) 4) = true := by
  decide +kernel

theorem test_w_scalarMultiplyDivide : goes? (exec (.div 6 4 5) (one (gs [(4, 0x8000000000000000), (5, 0xFFFFFFFFFFFFFFFF)])))
    (fun u => u.core.g[6] == 0x8000000000000000 && u.core.windows == [⟨.g 6, 240⟩]) = true := by decide +kernel

theorem test_w_scalarBitFields : goes? (exec (.bins 6 4 5) (one (gs [(4, 0xAB), (5, 0x0804), (6, 0xFFFFFFFFFFFFFFFF)])))
    (fun u => u.core.g[6] == 0xFFFFFFFFFFFFFABF) = true := by decide +kernel

theorem test_w_scalarImmediates : goes? (exec (.slti 6 4 0x7FFF) (one (gs [(4, 0xFFFFFFFFFFFFFFFE)])))
    (fun u => u.core.g[6] == 1) = true := by decide +kernel

theorem test_w_scalarCompact : goes? (exec (.sraiC 4 3) (one (gs [(4, 0xFFFFFFFFFFFFFFF0)])))
    (fun u => u.core.g[4] == 0xFFFFFFFFFFFFFFFE && u.core.pc == 0x102) = true := by decide +kernel

theorem test_w_floatResults : goes? (exec (.ffmaD 6 4 5) (one (gs [(4, 0x4000000000000000), (5, 0x4008000000000000),
    (6, 0x3FF0000000000000)]))) (fun u => u.core.g[6] == 0x401C000000000000 && u.core.flagsDue == []) = true := by decide +kernel

theorem test_w_floatFlags : goes? (exec (.fdivS 6 4 5) (one (gs [(4, 0x3F800000), (5, 0)])))
    (fun u => u.core.g[6] == 0x7F800000 && u.core.flagsDue.length == 1) = true := by decide +kernel

theorem test_w_floatConversions : goes? (exec (.fcvtLD 6 4 2) (one (gs [(4, 0xC004000000000000)])))
    (fun u => u.core.g[6] == 0xFFFFFFFFFFFFFFFE) = true := by decide +kernel

/-! ## Control flow -/

theorem test_w_branches_taken : goes? (exec (.blt 4 5 0x7FFF) (one (gs [(4, 0xFFFFFFFFFFFFFFFF), (5, 0)])))
    (fun u => u.core.pc == 0xFE && u.core.readyAt == 12) = true := by decide +kernel

theorem test_w_branches_not_taken : goes? (exec (.bltu 4 5 6) (one (gs [(4, 0xFFFFFFFFFFFFFFFF), (5, 0)])))
    (fun u => u.core.pc == 0x104) = true := by decide +kernel

theorem test_w_branches_window : goes? (exec (.beq 4 5 0x4000) (one (gs [])))
    (fun u => u.core.xcause == 4 && u.core.xval == 0xFFFFFFFFFFFF8100 && u.core.xpc == 0x100) = true := by decide +kernel

theorem test_w_branches_follower : goes? (exec (.bne 4 5 6) (one (fun c => { c with lead := some 0x400 })))
    (fun u => u.core.pc == 0x400) = true := by decide +kernel

theorem test_w_compactBranching : goes? (exec (.bzC 15 4 3) (one (gs []))) (fun u => u.core.pc == 0xFE) = true ∧
    goes? (exec (.bnzC 4 4 0) (one (gs []))) (fun u => u.core.pc == 0x102) = true ∧
    goes? (exec (.bnzC 4 4 0) (one (fun c => { c with lead := some 0x400 }))) (fun u => u.core.pc == 0x400) = true := by
  decide +kernel

theorem test_w_jal : goes? (exec (.jal 1 0xFFFE0) (one (gs []))) (fun u => u.core.pc == 0xC0 && u.core.g[1] == 0x104) = true ∧
    goes? (exec (.jal 1 0x80000) (one (gs []))) (fun u => u.core.xcause == 4 && u.core.g[1] == 0) = true := by decide +kernel

theorem test_w_jalr : goes? (exec (.jalr 4 4 0) (one (gs [(4, 0x1FFFE)])))
      (fun u => u.core.pc == 0x1FFFE && u.core.g[4] == 0x104) = true ∧
    goes? (exec (.jalr 4 4 0) (one (gs [(4, 0x201)]))) (fun u => u.core.xcause == 3 && u.core.xval == 0x201) = true ∧
    goes? (exec (.jalr 4 4 0) (one (gs [(4, 0x20000)]))) (fun u => u.core.xcause == 4) = true ∧
    goes? (exec (.jalr 1 4 0) (one (fun c => { c with lead := some 0x400 })))
      (fun u => u.core.pc == 0x400 && u.core.g[1] == 0x104) = true := by decide +kernel

theorem test_w_loopCounts : goes? (exec (.loop 4 0x1FFE) (one (gs [(4, 1)]))) (fun u => u.core.pc == 0x104 && u.core.g[4] == 0) = true ∧
    goes? (exec (.loop 4 0x1FFE) (one (gs []))) (fun u => u.core.pc == 0xFC && u.core.g[4] == 0xFFFFFFFFFFFFFFFF) = true ∧
    goes? (exec (.loop 4 0x1000) (one (gs [(4, 2)]))) (fun u => u.core.xcause == 4 && u.core.g[4] == 2) = true ∧
    goes? (exec (.loop 4 0) (one (fun c => { gs [(4, 9)] c with lead := some 0x400 })))
      (fun u => u.core.pc == 0x400 && u.core.g[4] == 8) = true := by decide +kernel

theorem test_w_idleDelays : goes? (exec (.idle 8191) (one (gs []))) (fun u => u.core.pc == 0x104 && u.core.readyAt == 98292) = true ∧
    goes? (exec (.idleC 15 15) (one (gs []))) (fun u => u.core.pc == 0x102 && u.core.readyAt == 3060) = true := by decide +kernel

/-! ## Witnesses: concrete states and operands that meet the hypotheses of the statements -/

theorem witness_ScalarArithmetic : ∃ t u, gsIn ops [4, 5] = some ([0x1000, 0x1040], t) ∧ gOut t 7 0x2040 1 = some u :=
  ⟨_, _, rfl, rfl⟩

theorem witness_ScalarFormats : (∃ t u, gsIn ops [4, 5, 6] = some ([0x1000, 0x1040, 3], t) ∧ gOut t 6 0 1 = some u) ∧
    (∃ t u, gsIn ops [4] = some ([0x1000], t) ∧ gOut t 0 0x1001 1 = some u) ∧
    ∃ t u, gsIn ops [low 4, low 5] = some ([0x1000, 0x1040], t) ∧ gOut t (low 4) 0x2040 1 = some u :=
  ⟨⟨_, _, rfl, rfl⟩, ⟨_, _, rfl, rfl⟩, _, _, rfl, rfl⟩

theorem witness_ScalarFloats : ∃ t u, gsIn ops [4] = some ([0x1000], t) ∧
    gOut t 7 (BitVec.ofNat 64 (intToFloat fp64 (modeNamed ops.core.crnd 0) 0x1000).1) 3 = some u := ⟨_, _, rfl, rfl⟩

theorem witness_Branches : ops.core.lead = none ∧ (∃ t, gsIn ops [4, 5] = some ([0x1000, 0x1040], t)) ∧
    (one (fun c => { c with lead := some 0x400 })).core.lead = some 0x400 := ⟨rfl, ⟨_, rfl⟩, rfl⟩

theorem witness_ControlTransfer : (target ops (4 : BitVec 20)).toNat < 0x20000 ∧ 0x20000 ≤ (target ops (0x80000 : BitVec 20)).toNat ∧
    (∃ u, gOut ops 1 (ops.core.pc + 4) 1 = some u) ∧ ((0x1000 : Word) + wrap ((4 : BitVec 13).toInt * 2)).toNat % 2 = 0 ∧
    ∃ t, gsIn ops [low 4] = some ([0x1000], t) := ⟨by decide, by decide, ⟨_, rfl⟩, by decide, _, rfl⟩

theorem witness_LoopCounts : (∃ t u, gsIn ops [4] = some ([0x1000], t) ∧ gOut t 4 (0x1000 - 1) 1 = some u) ∧
    ops.core.gstream 4 = none ∧ ((streaming readStream).core.gstream 24).isSome = true := ⟨⟨_, _, rfl, rfl⟩, rfl, rfl⟩

theorem test_popped : goes? (exec (.add 4 24 0) (streaming readStream))
    (fun u => u.core.g[4] == 77 && u.core.gs[0] == some { readStream with queue := [], next := 1 }) = true := by decide +kernel

theorem test_appended : goes? (exec (.addi 24 0 5) (streaming writeStream))
    (fun u => u.core.gs[0] == some { writeStream with landing := [(12, 5)], next := 1 }) = true := by decide +kernel

theorem test_loop_on_a_stream : goes? (exec (.loop 24 0) (streaming readStream))
    (fun u => u.core.xcause == 17 && u.core.xval == 0x518) = true := by decide +kernel

/-! Memory -/

theorem held_wf : held.memWf := by unfold State.memWf; decide +kernel

theorem witness_ownOk (n : Nat) (h : n ∈ [1, 2, 4, 8, 64, 256]) : ownOk held [(0x1000, n)] .load ∧ ownOk held [(0x1000, n)] .store := by
  simp only [List.mem_cons, List.not_mem_nil, or_false] at h
  unfold ownOk
  rcases h with rfl | rfl | rfl | rfl | rfl | rfl <;> decide +kernel

theorem witness_LoadsAndStores : ea 0x1000 0 8 % 8 = 0 ∧ (∃ t, gsIn held [4, 6] = some ([0x1000, 3], t)) ∧
    (∃ u, gOut (noted held [(0x1000, 8)] .load) 7 5 3 = some u) ∧ ea 0x1001 0 8 % 8 ≠ 0 := by
  refine ⟨by decide, ⟨_, rfl⟩, ⟨_, rfl⟩, by decide⟩

theorem test_load : goes? (exec (.ldH 7 4 0x1FFF) (heldWith [(4, 0x1080)]))
    (fun u => u.core.g[7] == 0xFFFFFFFFFFFF807F && u.core.windows == [⟨.g 7, 36⟩]) = true := by decide +kernel

theorem test_store : goes? (exec (.stW 5 4 1) (heldWith [(5, 0x8899AABBCCDDEEFF)]))
    (fun u => u.getNat 0x1003 6 == 0x09CCDDEEFF04) = true := by decide +kernel

theorem test_misaligned : goes? (exec (.ldD 7 4 0) (heldWith [(4, 0x1004)]))
    (fun u => u.core.xcause == 3 && u.core.xval == 0x1004 && u.core.xpc == 0x100) = true := by decide +kernel

theorem witness_StoreFrame : held.memWf ∧ gsIn held [4, 5] = some ([0x1000, 0x1040], held) ∧ ea 0x1000 0 8 % 8 = 0 ∧
    ownOk held [(0x1000, 8)] .store ∧ held.core.timed = false ∧ ∃ u, exec (.stD 5 4 0) held = .next u :=
  ⟨held_wf, rfl, by decide, (witness_ownOk 8 (by decide)).2, rfl, _, rfl⟩

theorem witness_VectorMemory : (∃ u, stripsOut 3 (held.getBytes 0x1000 128) 0 (widened 4 2) (noted held (strips held.core 0x1000 (widened 4 2)) .load) = some u) ∧
    (∃ xs, vsIn held (widened 4 2) = some (xs, held)) ∧ ownOk held (strips held.core 0x1000 (widened 4 2)) .load ∧ ownOk held (strips held.core 0x1000 (widened 4 2)) .store ∧ ea 0x1000 0 128 = 0x1000 := by
  refine ⟨⟨_, rfl⟩, ⟨_, rfl⟩, ?_, ?_, rfl⟩ <;> (unfold ownOk; decide +kernel)

theorem test_ldv : goes? (exec (.ldv 4 4 0 1) held)
    (fun u => u.core.v[4].toNat % 2 ^ 16 == 0x0201 && u.core.v[5].toNat % 2 ^ 16 == 0x4241 && u.core.vtag[5] == 1 &&
      u.core.windows == [⟨.v 5, 48⟩, ⟨.v 4, 36⟩]) = true := by decide +kernel

theorem test_stv : goes? (exec (.stv 4 4 0 0) { held with
      core := { held.core with v := held.core.v.set 4 0x77 } }) (fun u => u.getNat 0x1000 8 == 0x77 && u.getNat 0x1040 1 == 0x41) = true := by
  decide +kernel

theorem witness_RegisterRanges : (∀ r ∈ rangeOf 8 3, held.core.gstream r = none) ∧
    (∃ u, wordsOut 8 3 (held.getBytes 0x1000 32) 4 0 (noted held [(0x1000, 32)] .load) = some u) ∧
    (∃ xs, gsIn held (rangeOf 8 3) = some (xs, held)) ∧ ownOk held [(0x1000, 32)] .store ∧
    (rangeOf 20 9).find? (fun r => ((streaming readStream).core.gstream r).isSome) = some 24 := by
  refine ⟨by decide +kernel, ⟨_, rfl⟩, ⟨_, rfl⟩, ?_, by decide +kernel⟩
  unfold ownOk
  decide +kernel

theorem test_ldm : goes? (exec (.ldm 8 4 3) held) (fun u => u.core.g[8] == 0x0807060504030201 && u.core.g[11] == 0x201F1E1D1C1B1A19) = true ∧
    goes? (exec (.ldm 20 4 9) (streaming readStream)) (fun u => u.core.xcause == 17 && u.core.xval == 0x518) = true := by decide +kernel

theorem test_stm : goes? (exec (.stm 4 4 1) held) (fun u => u.getNat 0x1000 16 == 0x10400000000000001000) = true := by decide +kernel

theorem witness_TileRows : rowsOk held 0x1000 0x40 .load ∧ rowsOk held 0x1000 0x5000000 .store ∧ held.writeLocked 2 = false ∧
    held.readLocked 2 = false ∧ held.core.windowOpen held.now (.t 2) = false ∧ held.core.ract = false := by
  unfold rowsOk ownOk
  decide +kernel

theorem test_ldt : goes? (exec (.ldt 2 4 5) { heldWith [(5, 0x5000040)] with
      mem := [(0x1000, 1), (0x1001, 2), (0x1040, 0x41)] })
    (fun u => u.core.t[2].toNat % 2 ^ 16 == 0x0201 && u.core.t[2].toNat / 2 ^ 512 % 2 ^ 8 == 0x41 && u.core.ttag[2] == 5) = true := by
  decide +kernel

theorem test_stt : goes? (exec (.stt 2 4 5) { heldWith [(5, 0x40)] with
      core := { (heldWith [(5, 0x40)]).core with t := held.core.t.set 2 (BitVec.ofNat 8192 (2 ^ 512 * 0x99)) } })
    (fun u => u.getNat 0x1000 2 == 0 && u.getNat 0x1040 2 == 0x99) = true := by decide +kernel

theorem witness_AtomicsAndPosts : (∃ u, gOut (noted (storedNow held 0x1000 (leBytes 8 5)) [(0x1000, 8)] .atomic) 7 1 4 = some u) ∧
    ownOk held [(0x1000, 4)] .atomic ∧ ownOk held [(0x1000, 8)] .atomic ∧ gsIn held [4, 6, 5] = some ([0x1000, 3, 0x1040], held) := by
  refine ⟨⟨_, rfl⟩, ?_, ?_, rfl⟩ <;> (unfold ownOk; decide +kernel)

theorem test_amo : goes? (exec (.amoMin 7 4 6 0) held) (fun u => u.core.g[7] == 0x04030201 && u.getNat 0x1000 5 == 0x0500000003) = true ∧
    goes? (exec (.amoAddRel 7 4 6 0 1) held) (fun u => u.core.g[7] == 0x0807060504030201 && u.getNat 0x1000 8 == 0x0807060504030204) = true := by
  decide +kernel

theorem test_cas : goes? (exec (.casW 7 4 5 6) (heldWith [(5, 0x04030201)])) (fun u => u.getNat 0x1000 4 == 3) = true ∧
    goes? (exec (.casW 7 4 5 6) held) (fun u => u.getNat 0x1000 4 == 0x04030201 && u.core.g[7] == 0x04030201) = true := by decide +kernel

theorem witness_post : gsIn (heldWith [(4, 0x6000077C)]) [4, 5, 0] = some ([0x6000077C, 0x1040, 0], heldWith [(4, 0x6000077C)]) ∧
    (0x6000077C : Word).toNat = 0x60000000 + 7 * 0x100 + (31 : BitVec 6).toNat * 4 ∧ held.core.timed = false ∧ allPerformed held :=
  ⟨rfl, by decide, rfl, .inr (by decide)⟩

theorem test_post : goes? (exec (.post 4 5 0) (heldWith [(4, 0x6000077C)]))
    (fun u => u.msgs == [⟨.post 0, 0, 7, 31, 0x1040, none, 0⟩]) = true := by decide +kernel

/-! Waits -/

theorem witness_waits : gsIn (heldWith [(4, 63)]) [4, 5, 6] = some ([63, 0x1040, 3], heldWith [(4, 63)]) ∧
    gsIn (heldWith [(4, 64)]) [4, 5, 6] = some ([64, 0x1040, 3], heldWith [(4, 64)]) ∧
    held.getNat (localPlace 0 0x1400) 8 / 2 ^ 58 % 2 = 0 ∧ held.core.timed = false ∧ held.keyBusy 0 3 = false ∧ held.pubs = [] := by
  decide +kernel

/-- A barrier word at 0x1400. -/
def barred (x : Nat) : State := (heldWith [(5, 0x1400)]).setNat 0x1400 8 x

theorem witness_barrier : (barred (2 ^ 58)).getNat (localPlace 0 0x1400) 8 / 2 ^ 58 % 2 = 1 := by decide +kernel

theorem test_waitc : goes? (exec (.waitc 0 0 0) held) (fun u => u.core.pc == 0x104 && u.core.status == .running) = true ∧
    goes? (exec (.waitc 0 6 0) held) (fun u => u.core.pc == 0x100 && u.core.status == .waiting (.counter 0 3 none)) = true ∧
    goes? (exec (.waitc 4 6 0) (heldWith [(4, 64)])) (fun u => u.core.xcause == 4 && u.core.xval == 64) = true := by decide +kernel

theorem test_waitb : goes? (exec (.waitb 5 6 0) (barred (2 ^ 56))) (fun u => u.core.pc == 0x104) = true ∧
    goes? (exec (.waitb 5 0 0) (barred (2 ^ 56))) (fun u => u.core.status == .waiting (.barrier 0x1400 false none)) = true ∧
    goes? (exec (.waitb 5 0 0) (barred (2 ^ 58))) (fun u => u.core.xcause == 11 && u.core.xval == 0x1400) = true := by decide +kernel

theorem test_fences : goes? (exec (.fence 0) held) (fun u => u.core.pc == 0x104) = true ∧
    goes? (exec .tfence held) (fun u => u.core.pc == 0x104) = true ∧
    goes? (exec (.waitn 0) held) (fun u => u.core.pc == 0x104) = true ∧
    goes? (exec (.pub 6) held) (fun u => u.core.pc == 0x104 && u.core.status == .running) = true := by decide +kernel

theorem test_fence_waits : goes? (exec (.fence 0) { held with
      later := [⟨24, 0, 0x1000, [1], []⟩] }) (fun u => u.core.status == .waiting (.fence none)) = true := by decide +kernel

/-! Vectors -/

/-- v4 and v5 hold bytes tagged UI8, v6 is tagged BITS. -/
def vecs : State := one (fun c => { c with
  v := (c.v.set 4 0x0102030405060708).set 5 0x1111111111111111
  vtag := ((c.vtag.set 4 5).set 5 5).set 6 1 })

theorem witness_VectorLanes : typed tagNum 0 vecs [4, 5] 5 ∧ typed tagNum 2 vecs [4, 5] 5 ∧
    vsIn vecs [4, 5] = some ([0x0102030405060708, 0x1111111111111111], vecs) ∧
    ∃ u, laneOut vecs 7 8 5 2 (fun j => numLane (fun x y => x + y) fadd 5 (lane 8 0x0102030405060708 j) (lane 8 0x1111111111111111 j)) = some u := by
  refine ⟨?_, ?_, rfl, _, rfl⟩ <;> (unfold typed; decide +kernel)

theorem test_vadd : goes? (exec (.vadd 7 4 5 0) vecs)
    (fun u => u.core.v[7] == 0x1213141516171819 && u.core.vtag[7] == 5 && u.core.windows == [⟨.v 7, 24⟩]) = true ∧
    goes? (exec (.vadd 7 4 6 0) vecs) (fun u => u.core.xcause == 2) = true := by decide +kernel

theorem test_vsubC : goes? (exec (.vsubC 5 4) vecs) (fun u => u.core.v[5] == 0x100F0E0D0C0B0A09 && u.core.pc == 0x102) = true := by
  decide +kernel

theorem witness_VectorMasks : typed tagNum 0 vecs [4, 5] 5 ∧
    (2 : BitVec 2) ≠ 3 ∧ (gOut (mIn vecs 0).2 7 16 2).isSome = true := by
  refine ⟨?_, by decide, by decide +kernel⟩
  unfold typed
  decide +kernel

theorem test_vector_masks : goes? (exec (.vcmpLt 2 4 5 0) vecs) (fun u => u.core.m[2] == 0xFF) = true ∧
    goes? (exec (.mpop 7 0 2) vecs) (fun u => u.core.g[7] == 16) = true ∧
    goes? (exec (.mfirst 7 1 0) vecs) (fun u => u.core.g[7] == 64) = true := by decide +kernel

theorem witness_VectorGroups : wideOf 5 4 = some 9 ∧ typed tagUint 0 vecs [4, 5] 5 ∧
    (∀ r ∈ widened 8 4, ((one (fun c => { c with vtag := Vector.replicate 16 9 })).core.tagV r).toNat = 9) ∧
    (2 ^ (2 : BitVec 2).toNat = max (tagWidth 5) (tagWidth 15) / min (tagWidth 5) (tagWidth 15)) := by
  refine ⟨by decide, ?_, by decide +kernel, by decide +kernel⟩
  unfold typed
  decide +kernel

theorem test_vclmul : goes? (exec (.vclmul 8 4 5 0 2) vecs) (fun u => u.core.v[8].toNat % 2 ^ 16 == 0x7788) = true := by decide +kernel

theorem test_vcvt : goes? (exec (.vcvt 8 4 2 0 10) vecs)
    (fun u => u.core.v[8].toNat % 2 ^ 64 == 0x40E0000041000000 && u.core.vtag[11] == 15) = true ∧
    goes? (exec (.vcvt 8 4 0 0 11) vecs) (fun u => u.core.vtag[8] == 1 && u.core.v[8] == 0x0102030405060708) = true := by decide +kernel

/-- v4 holds 1.5 and zeros in FP32. -/
def floats : State := one (fun c => { c with v := c.v.set 4 0x3FC00000, vtag := c.vtag.set 4 15 })

theorem witness_VectorReductions : typed tagNum 0 floats [4] 15 ∧ tagFlt 15 = true ∧ typed tagNum 0 vecs [4] 5 ∧ tagFlt 5 = false ∧
    vsIn floats [4] = some ([0x3FC00000], floats) ∧ (gOut floats 7 1 8).isSome = true := by
  refine ⟨?_, by decide, ?_, by decide, rfl, by decide +kernel⟩ <;> (unfold typed; decide +kernel)

theorem test_reductions : goes? (exec (.vredsum 7 4 0) floats) (fun u => u.core.g[7] == 0x3FC00000) = true ∧
    goes? (exec (.vredsum 7 4 0) vecs) (fun u => u.core.g[7] == 36) = true ∧
    goes? (exec (.vredmax 7 4 0) vecs) (fun u => u.core.g[7] == 8) = true ∧
    goes? (exec (.vredmin 7 5 0) vecs) (fun u => u.core.g[7] == 0) = true ∧
    goes? (exec (.vredmax 7 9 0) vecs) (fun u => u.core.xcause == 2 && u.core.xval == 0x2900) = true := by decide +kernel

theorem witness_VectorReductions_tag : (vecs.core.tagV 9).toNat = 0 ∧ tagNum 0 = false := by decide +kernel

theorem test_scan : goes? (exec (.vscan 8 4 0) vecs) (fun u => u.core.v[8].toNat % 2 ^ 32 == 0x1A150F08) = true := by decide +kernel

theorem witness_VectorScanAndSort : vecs.core.tagV (BitVec.ofNat 4 ((4 : BitVec 4).toNat + 1)) ≠ 0 ∧ tagWidth 5 = 8 ∧
    vsIn vecs [4, BitVec.ofNat 4 ((4 : BitVec 4).toNat + 1)] = some ([0x0102030405060708, 0x1111111111111111], vecs) :=
  ⟨by decide +kernel, by decide, rfl⟩

theorem witness_VectorMoves : typed tagAny 0 vecs [4, 5] 5 ∧ typed tagData 2 vecs [4] 5 ∧ typed tagTable 0 vecs [4, 5] 5 ∧
    (vecs.core.tagV 5).toNat = unsignedTag 8 := by unfold typed; decide +kernel

theorem test_moves : goes? (exec (.vsel 5 4 1 0) vecs) (fun u => u.core.v[5] == 0x1111111111111111) = true ∧
    goes? (exec (.vsel 5 4 0 0) vecs) (fun u => u.core.v[5] == 0x0102030405060708) = true ∧
    goes? (exec (.vmov 9 4 11) vecs) (fun u => u.core.vtag[9] == 1) = true ∧
    goes? (exec (.vext 7 4 0 2) vecs) (fun u => u.core.g[7] == 8) = true := by decide +kernel

theorem test_rearrangements : goes? (exec (.vperm 9 4 5 0) vecs) (fun u => u.core.v[9].toNat % 2 ^ 64 == 0) = true ∧
    goes? (exec (.vcompress 9 4 0 0) vecs) (fun u => u.core.v[9] == 0x0102030405060708) = true ∧
    goes? (exec (.vlut16 9 4 5 0) vecs) (fun u => u.core.v[9].toNat % 2 ^ 64 == 0x1111111111111100) = true := by decide +kernel

theorem passes_lanes {n : Nat} {k : AccKind} {s : State} (hk : ownOk s [(0x1000, n)] k) (hn : noted s [(0x1000, n)] k = s) :
    ∀ m, lanesPass n k (List.replicate m 0x1000) s s
  | 0 => rfl
  | m + 1 => ⟨hk, by rw [hn]; exact passes_lanes hk hn m⟩

/-- The same core in timed code, where no access leaves a mark. -/
def heldTimed : State := { held with core := { held.core with timed := true } }

theorem witness_GatherAndScatter : elementsPass 8 0x1000 0 .load heldTimed heldTimed ∧ elementsPass 8 0x1000 0 .store heldTimed heldTimed ∧
    heldTimed.core.vstream 4 = none := by
  have h : elementAddr 8 0x1000 0 = List.replicate 64 0x1000 := by decide +kernel
  refine ⟨⟨by decide, by decide +kernel, ?_⟩, ⟨by decide, by decide +kernel, ?_⟩, rfl⟩ <;>
    (rw [h]; refine passes_lanes ?_ (by decide +kernel) 64; unfold ownOk; decide +kernel)

/-- v4 holds element numbers from 0x1000 on. -/
def indexed (timed : Bool) (x : VWord) : State :=
  { held with
    core := gs [(5, 0x1000)] { held.core with
      timed := timed, v := (held.core.v.set 4 x).set 9 0x55, vtag := (held.core.vtag.set 4 5).set 9 5 } }

theorem test_gather : goes? (exec (.vgather 9 4 5 2) (indexed true 0x0F0100))
    (fun u => u.core.v[9].toNat % 2 ^ 32 == 0x01100201 && u.core.windows == [⟨.v 9, 72⟩] && u.gathers.map Gather.due == [36]) = true ∧
    goes? (exec (.vgather 9 4 5 2) (indexed false 0x0F0100))
      (fun u => u.core.v[9].toNat % 2 ^ 32 == 0x01100201 && u.gathers.isEmpty) = true := by
  decide +kernel

theorem test_scatter : goes? (exec (.vscatter 9 4 5 2) (indexed true 0))
    (fun u => u.later.length == 64 && u.later.head? == some ⟨48, 0, 0x1000, [0x55], []⟩) = true ∧
    goes? (exec (.vscatter 9 4 5 2) (indexed false 1)) (fun u => u.later.isEmpty && u.getByte 0x1000 == 0 && u.getByte 0x1001 == 0x55) = true := by
  decide +kernel

/-! Streams -/

/-- A descriptor at 0x1000 of two 8-byte elements at 0x2000 and 0x2008. -/
def described : State :=
  { one (gs [(4, 0x1000), (5, 0), (6, 0x1008)]) with
    mem := [(0x1001, 0x20), (0x1008, 2), (0x100C, 1), (0x1010, 1), (0x1014, 8), (0x1018, 8), (0x2000, 9), (0x2008, 10)] }

/-- The stream that it describes. -/
def pair : Stream := ⟨0x1000, 0, 0x2000, 2, 1, 1, 8, 8, 0, 0, 0, [], [], none, 48, 0⟩

theorem witness_Streams : gsIn described [4, 5] = some ([0x1000, 0], described) ∧ releasable described false 0 ∧
    describes (bound described false 0 none) false 0x1000 0 pair ∧
    pair.due = described.now + ((described.firstDelay described.core.pos pair.base.toNat).getD 0) * described.period 0 ∧
    ∀ r, ¬ describes described false 0x1008 0 r := by
  refine ⟨rfl, ?_, ?_, by decide +kernel, ?_⟩
  · intro r h
    cases h
  · unfold describes
    decide +kernel
  · intro r h
    exact absurd h.1 (by decide)

theorem test_sbind : goes? (exec (.sbindG 0 4 5) described) (fun u => u.core.gs[0] == some pair && u.core.pc == 0x104) = true ∧
    goes? (exec (.sbindG 0 6 5) described) (fun u => u.core.xcause == 17 && u.core.xval == 0x418 && u.core.gs[0] == none) = true ∧
    goes? (exec (.sfreeG 0) (streaming readStream)) (fun u => u.core.gs[0] == none) = true := by decide +kernel

/-- A descriptor of one strip. -/
def stripped : State :=
  { described with
    mem := [(0x1001, 0x20), (0x1008, 1), (0x100C, 1), (0x1010, 1), (0x1014, 64), (0x1018, 64)] }

theorem witness_sbindV : releasable stripped true 3 ∧ describes (bound stripped true 3 none) true 0x1000 0x101
    { pair with mode := 0x101, n0 := 1, size := 64, s0 := 64 } ∧ ∀ r, ¬ describes stripped true 0x1000 0x1 r := by
  refine ⟨?_, ?_, ?_⟩
  · intro r h
    cases h
  · unfold describes
    decide +kernel
  · intro r h
    unfold describes at h
    revert h
    simp

theorem witness_streamTraps : (streaming writeStream).core.gstream 24 = some writeStream ∧ writeStream.mode.toNat % 2 = 1 ∧
    (streaming { readStream with next := 1, queue := [] }).core.gstream 24 = some { readStream with next := 1, queue := [] } ∧
    readStream.mode.toNat % 2 = 0 ∧ readStream.n0 * readStream.n1 * readStream.n2 ≤ 1 := by decide +kernel

theorem test_stream_traps : goes? (exec (.add 4 24 0) (streaming writeStream))
      (fun u => u.core.xcause == 17 && u.core.xval == 0x318) = true ∧
    goes? (exec (.add 4 24 0) (streaming { readStream with next := 1, queue := [] }))
      (fun u => u.core.xcause == 17 && u.core.xval == 0x118) = true := by decide +kernel

/-- The described stream is bound, at a time. -/
def served (t : Nat) (r : Stream) : State :=
  { described with
    now := t
    core := described.core.setStream false 0 (some r) }

theorem witness_streamService : (served 48 pair).core.streamOf false 0 = some pair ∧ (served 48 pair).served? pair (pair.addr 0) = true ∧
    (ownSeg (served 48 pair) (pair.addr 0) 8).lines.any (fun l => (served 48 pair).heldUp 0 l.1 false) = false ∧
    (∀ e ∈ (ownSeg (served 48 pair) (pair.addr 0) 8).granules, (served 48 pair).poisoned e.1 = false) ∧
    (∀ l ∈ (ownSeg (served 48 pair) (pair.addr 0) 8).lines, (served 48 pair).engineCount 0 l.1 false < 4095) ∧
    (served 48 { pair with mode := 1, next := 1, queue := [7] }).core.inWorkspace 0x2000 8 = false := by decide +kernel

theorem test_stream_service : goes? (exec (.streamFetch false 0) (served 48 pair))
      (fun u => (u.core.gs[0]).map Stream.queue == some [9]) = true ∧
    (match exec (.streamFetch false 0) (served 47 pair) with | .refused _ => true | _ => false) = true ∧
    goes? (exec (.streamWrite false 0) (served 48 { pair with mode := 1, next := 1, queue := [7] }))
      (fun u => u.getNat 0x2000 8 == 7 && (u.core.gs[0]).map Stream.queue == some []) = true := by decide +kernel

/-! Tags of keys -/

theorem witness_TagTable : gsIn ops [6] = some ([3], ops) ∧ foldKey 3 < 1024 ∧ (ops.groupAt 0).tags = [] ∧
    (∃ u, gOut ops 7 (BitVec.ofNat 64 (2 ^ 63 + 4 * foldKey 3)) 4 = some u) ∧ ops.core.timed = false ∧
    (one (fun c => { c with timed := true })).core.timed = true := ⟨rfl, by decide +kernel, rfl, ⟨_, rfl⟩, rfl, rfl⟩

theorem test_look : goes? (exec (.look 7 6) ops) (fun u => u.core.g[7] == BitVec.ofNat 64 (2 ^ 63 + 4 * foldKey 3)) = true ∧
    goes? (exec (.lset 6 0) ops) (fun u => (u.groupAt 0).tags == [⟨0, some (3, 0), none, 0⟩]) = true ∧
    goes? (exec .ifence (one (fun c => { c with timed := true }))) (fun u => u.core.xcause == 1 && u.core.xval == 0x02000045) = true := by
  decide +kernel

/-! Suits -/

theorem witness_Suits : gsIn ops [6] = some ([3], ops) ∧ (BitVec.ofNat 16 (3 : Word).toNat).getLsbD (groupPos 0) = true ∧
    (∀ i ∈ List.range 16, (3 : BitVec 16).getLsbD i = true → ops.owner (groupCore (groupOf 0) i) = ops.owner 0 ∧
      (ops.coreAt (groupCore (groupOf 0) i)).launch = ops.core.launch) ∧
    (∀ i ∈ List.range 16, (ops.coreAt (groupCore (groupOf 0) i)).status ≠ .waiting (.suitBar 3)) ∧
    (BitVec.ofNat 16 (0x1000 : Word).toNat).getLsbD (groupPos 0) = false := by decide +kernel

theorem test_suits : goes? (exec (.suitBar 6) ops) (fun u => u.core.status == .waiting (.suitBar 3)) = true ∧
    goes? (exec (.suitBar 6) (one (gs [(6, 1)]))) (fun u => u.core.suit == ⟨true, 0, 0, 1⟩ && u.core.pc == 0x104) = true ∧
    goes? (exec (.suitBar 4) ops) (fun u => u.core.xcause == 1 && u.core.xval == 0x3000404F) = true ∧
    goes? (exec .suitDis (one (fun c => { c with suit := ⟨true, 3, 0, 15⟩ }))) (fun u => u.core.suit == ⟨false, 0, 0, 0⟩) = true := by
  decide +kernel

/-! Traps and returns -/

/-- The root region, of which the handler stands at 0x400. -/
def root : Region where
  id := 1
  depth := 0
  parent := 0
  state := .live
  block := 0
  home := 1
  prio := 1
  dbgGang := false
  watchdog := 0
  fdom := 1
  weight := 1
  tclass := 0
  hmask := 0
  hvec := 0x400
  xroot := 0
  ownLnt := false
  lntBase := 0
  lntCap := 0
  poolBase := 0
  poolPages := 0
  alog := 0
  swap := 0
  cores := 49152
  pages := 100
  queue := 10
  contexts := 10
  res := 10
  tokens := 1000
  pagesUsed := 0
  queueUsed := 0
  contextsUsed := 0
  carved := [0, 0, 0, 0, 0, 0]
  borrow := 100
  repay := 5
  balance := 7
  marker := 0
  earmark := 0
  pool := 50
  deficit := 0
  lw := 255
  lh := 191
  cmap := []
  seq := 0
  launches := []
  refused := none
  revokeTs := none
  revoker := none
  placed := []
  lost := []

/-- A child of it with the cores 0 and 1, which handles no trap. -/
def child : Region :=
  { root with
    id := 2, depth := 1, parent := 1, lw := 1, lh := 0, cmap := [1, 0], cores := 2, pool := 0 }

/-- The core of a root region. -/
def ruled (f : Core → Core) : State :=
  { one f with
    regions := [root] }

/-- Core 5 of a child region. -/
def nested : State :=
  { one id with
    core := { Core.reset 5 with pc := 0x100, status := .running }
    regions := [root, { child with cmap := [5, 6] }] }

theorem witness_TrapEntry : (ruled id).region? ((ruled id).owner 0) = some root ∧ root.handles 14 = true ∧ root.dbgGang = false ∧
    (ruled id).core.inh = false := by decide +kernel

theorem test_brk : goes? (exec (.brk 7) (ruled id)) (fun u => u.core.xcause == 14 && u.core.xval == 7 && u.core.xpc == 0x100 &&
      u.core.pc == 0x400 && u.core.inh && u.core.readyAt == 96) = true ∧
    goes? (exec (.ecall 4095) (ruled id)) (fun u => u.core.xcause == 15 && u.core.xval == 4095) = true ∧
    goes? (exec (.brkC 15 15) (ruled id)) (fun u => u.core.xcause == 14 && u.core.xval == 255) = true ∧
    goes? (exec (.illegalWord false 0x12348888) (ruled id)) (fun u => u.core.xcause == 1 && u.core.xval == 0x8888) = true := by
  decide +kernel

theorem witness_TrapReflection : nested.region? (nested.owner 5) = some { child with cmap := [5, 6] } ∧
    nested.region? child.parent = some root ∧ root.handles 15 = true ∧ child.handles 15 = false ∧ child.swap = 0 ∧
    root.supervisor ≠ 5 ∧ nested.atBoundary 5 = true := by decide +kernel

/-- Pending TIMER and POSTREJECT. -/
def pended : Pending := { Pending.empty with timer := some 6, postReject := some 0x60000000 }

theorem witness_InterruptEntry : (ruled (fun c => { c with pending := pended })).region? ((ruled (fun c => { c with pending := pended })).owner 0) = some root ∧
    firstOf pended = some (1, 6) ∧ firstOf (without pended 1) = some (6, 0x60000000) ∧ firstOf Pending.empty = none := by decide +kernel

/-- An interrupt abandons a wait whose operands have popped an element: the element goes back, to be popped again (R178, R385). -/
theorem test_abandoned : goes? (exec (.waitc 24 6 0) { streaming readStream with core := gs [(6, 9)] (streaming readStream).core })
      (fun u => goes? (.next (u.takeTrap true 1 0 0)) (fun v => v.core.gs[0] == some readStream && v.core.popped.isEmpty)) = true := by
  decide +kernel

theorem test_interrupt : goes? (exec .takeInterrupt (ruled (fun c => { c with pending := pended, status := .waiting (.counter 0 1 none) })))
    (fun u => u.core.xcause == 0x8000000000000001 && u.core.xval == 6 && u.core.xpc == 0x100 && u.core.status == .running &&
      u.core.pending == without pended 1) = true ∧
    (match exec .takeInterrupt (ruled (fun c => { c with pending := pended, inh := true })) with | .refused _ => true | _ => false) = true := by
  decide +kernel

/-- Core 7 is parked, with its record at 0x100000000 in the root's space. -/
def parkedPair : State :=
  { ruled (gs [(4, 0x100000000)]) with
    others := [{ Core.reset 7 with status := .parked (some 0x100000000) 1 }] }

set_option maxRecDepth 400000 in
theorem witness_ReturnFromTrap : gsIn parkedPair [4] = some ([0x100000000], parkedPair) ∧
    parkedPair.parkedAt (parkedPair.owner 0) ((0x100000000 : Word).toNat % 2 ^ 48) = some 7 ∧
    (∀ o ∈ [0, 0x3FFF], (match parkedPair.xlate 8 (parkedPair.owner 0) (0x100000000 + o) .load with | .ok _ => true | _ => false) = true) ∧
    badTagOffset ((parkedPair.peek (parkedPair.owner 0) 0x100000000 0x4000).getD []) = none ∧
    parkedPair.parkedAt (parkedPair.owner 0) 0x200000000 = none := by decide +kernel

theorem test_eret : goes? (exec .eret (one (fun c => { c with inh := true, xpc := 0x44 })))
      (fun u => u.core.pc == 0x44 && u.core.inh == false && u.core.readyAt == 48) = true ∧
    goes? (exec .eret (one id)) (fun u => u.core.xcause == 1 && u.core.xval == 0x0800007B) = true ∧
    goes? (exec (.eretResume 0) parkedPair) (fun u => u.core.xcause == 6) = true := by decide +kernel

/-! The governor -/

/-- Every check passes. -/
def passes : Checked → Bool
  | .ok _ => true
  | .error _ => false

/-- A core whose tiles t1 and t2 hold signed bytes. -/
def tiled : State := one (fun c => { c with ttag := (c.ttag.set 1 4).set 2 4 })

theorem witness_TileProducts : (Instr.tmul 3 1 2 16 0).wf = true ∧
    passes (tiled.cubeChecks ((command tiled (.tmul 3 1 2 16 0) (0, 0) (0, 0) (0, 0) (0, 0)).withTags tiled.core)) = true ∧
    (pairIn tiled 1).1 = (0, 0) ∧ (tiled.groupAt (groupOf tiled.core.pos)).queue.length < 16 ∧ tiled.lockers.length < 7 := by decide +kernel

theorem test_tmul : goes? (exec (.tmul 3 1 2 16 0) tiled) (fun u => u.core.ttag[3] == 20 && u.core.pc == 0x104 &&
      (u.groupAt 0).queue.map (fun c => (c.td, c.total, c.emptyD)) == [(3, 4, true)]) = true ∧
    goes? (exec (.tmul 3 1 0 16 0) tiled) (fun u => u.core.xcause == 2 && u.core.xval == 0x4000) = true := by decide +kernel

theorem witness_productTags : (Instr.tmul 3 5 2 16 0).wf = true ∧ (Instr.tmul 2 1 2 16 0).wf = true ∧ tiled.core.ttag[5] = 0 ∧
    tiled.core.ttag[1] = 4 ∧ tiled.core.ttag[2] = 4 := by decide +kernel

theorem test_product_tags : goes? (exec (.tmul 3 5 2 16 0) tiled) (fun u => u.core.xcause == 2 && u.core.xval == 0x2500) = true ∧
    goes? (exec (.tmul 2 1 2 16 0) tiled) (fun u => u.core.xcause == 2 && u.core.xval == 0x204) = true := by decide +kernel

/-- A layout word of tag 4: K of 64, a step of 64 bytes from row to row. -/
def lay8 : Word := 4 + 4 * 2 ^ 24 + 4 * 2 ^ 32

/-- A pair (g2, g3) that names tiles of bytes at the start of the group's scratchpad. -/
def planes : State := one (gs [(2, BitVec.ofNat 64 (spadBase 0)), (3, lay8)])

theorem witness_TileMoves : tiled.lockers.length < 7 ∧ (pairIn planes 17).1 = (BitVec.ofNat 64 (spadBase 0), lay8) ∧
    passes (planes.cubeChecks ((command planes (.tld 3 1) (BitVec.ofNat 64 (spadBase 0), lay8) (0, 0) (0, 0) (0, 0)).withTags planes.core)) = true ∧
    passes (planes.cubeChecks ((command planes (.tst 3 1) (BitVec.ofNat 64 (spadBase 0), lay8) (0, 0) (0, 0) (0, 0)).withTags planes.core)) = true ∧
    passes (planes.cubeChecks ((command planes (.tcode 17 1) (BitVec.ofNat 64 (spadBase 0), 0) (0, 0) (0, 0) (0, 0)).withTags planes.core)) = true ∧
    (Instr.tcode 17 1).wf = true := by decide +kernel

theorem test_tld : goes? (exec (.tld 3 1) planes) (fun u => u.core.ttag[3] == 4 && ((u.groupAt 0).queue.length == 1)) = true ∧
    goes? (exec (.tzero 1) tiled) (fun u => u.core.ttag[1] == 0) = true ∧
    goes? (exec (.tst 3 1) planes) (fun u => (u.groupAt 0).queue.map (fun c => c.marks.length) == [16]) = true ∧
    goes? (exec (.tcode 17 1) planes) (fun u => (u.groupAt 0).queue.length == 1) = true := by decide +kernel

/-- The leader of a suit of 16 with tiles of 4-bit elements. -/
def ringing (p : BitVec 4) : State := one (fun c => { c with
    ttag := (c.ttag.set 1 16).set 2 16, suit := { act := true, spos := p, size := 15, memb := 0xFFFF } })

theorem witness_RingProducts : (Instr.tpart 3 1 2 16 0).wf = true ∧ (ringing 0).core.suit.act = true ∧ (ringing 0).core.suit.size = 15 ∧
    passes ((ringing 0).cubeChecks ((command (ringing 0) (.tpart 3 1 2 16 0) (0, 0) (0, 0) (0, 0) (0, 0)).withTags (ringing 0).core)) = true ∧
    (ringing 0).writeLocked 3 = false ∧ (ringing 0).readLocked 3 = false ∧ (ringing 0).core.ract = false ∧ gsIn tiled [6] = some ([0], tiled) ∧
    tiled.readLocked 1 = false ∧ (vOut tiled 2 5 4 3).isSome = true := by decide +kernel

theorem test_tpart : goes? (exec (.tpart 3 1 2 16 0) (ringing 0)) (fun u => u.core.ract && u.core.rtile == 3 && (u.groupAt 0).queue.length == 1) = true ∧
    goes? (exec (.tpart 3 1 2 16 0) (ringing 5)) (fun u => u.core.ract && u.core.ttag[3] == 22 && (u.groupAt 0).queue.length == 0) = true ∧
    goes? (exec (.tpart 3 1 2 16 0) tiled) (fun u => u.core.xcause == 1) = true := by decide +kernel

/-- t1 holds 7 in row 1, under a tag; it may be the ring. -/
def rows (g : Tag) (full : BitVec 16) (k : Word) : State :=
  one (fun c => { c with
    t := c.t.set 1 (BitVec.ofNat 8192 (7 * 2 ^ 512)), ttag := c.ttag.set 1 g, g := c.g.set 6 k
    ract := g == 22, rtile := 1, rfull := full })

theorem test_trow : goes? (exec (.trow 2 1 6) (rows 20 0 1)) (fun u => u.core.v[2] == 7 && u.core.vtag[2] == 8) = true ∧
    goes? (exec (.trow 2 1 6) (rows 22 3 0x101)) (fun u => u.core.v[2] == 7 && u.core.vtag[2] == 8 && u.core.rfull == 1) = true ∧
    goes? (exec (.trow 2 1 6) (rows 22 1 1)) (fun u => u.core.pc == 0x100 && u.core.v[2] == 0) = true := by decide +kernel

/-! Lineage -/

/-- The root region with a node table of n records at the start of its space, and a pool of one page behind it. -/
def tabled (n : Nat) : Region :=
  { root with
    ownLnt := true, lntBase := 0x100000000, lntCap := n, poolBase := 0x100010000, poolPages := 1 }

/-- A core of it. -/
def family (n : Nat) (l : List (Nat × Word)) : State :=
  { one (gs l) with
    regions := [tabled n] }

/-- An operation succeeds. -/
def works (x : L α) (s : State) : Bool :=
  match x s with
  | .ok _ _ => true
  | .error _ _ => false

/-- The state after an operation. -/
def after (x : L α) (s : State) : State :=
  match x s with
  | .ok _ u => u
  | .error _ _ => s

/-- An OPEN node of two half-precision floats at depth 0, without pages. -/
def leaf : Node where
  parent := 0
  depth := 0
  kind := 1
  state := 1
  tag := 14
  rows := 1
  cols := 2
  daddr := 0
  dsize := 16
  children := 0
  owner := 1
  gen := 0
  pending := false
  deferred := false
  ncount := 0
  pages := 0

/-- A table with such a node in record 1. -/
def noded (n : Node) (l : List (Nat × Word)) : State := after (putNode (tabled 3) 1 n) (family 3 l)


/-- Record 1 holds a node, and reading it changes nothing. -/
def holds (s : State) (n : Node) : Bool :=
  match getNode (tabled 3) 1 s with
  | .ok m u => m == n && u == s
  | .error _ _ => false

/-- A shape of one row of one INT8. -/
def shape : Word := 0x40000000000

theorem witness_LineageForks : (family 2 []).region? ((family 2 []).tableOwner 8 ((family 2 []).owner 0)) = some (tabled 2) ∧
    gsIn (family 2 [(5, shape)]) [4, 5] = some ([0, shape], family 2 [(5, shape)]) ∧
    works (forkRoot (tabled 2) 1 shape.toNat) (family 2 [(5, shape)]) = true ∧
    works (forkChild (tabled 3) 1 256 (fun _ => pure []) false) (noded leaf []) = true ∧
    (noded leaf []).region? ((noded leaf []).tableOwner 8 ((noded leaf []).owner 0)) = some (tabled 3) ∧
    holds (noded leaf []) leaf = true := by decide +kernel

theorem test_lfork : goes? (exec (.lfork 6 4 5) (family 2 [(5, shape)])) (fun u => u.core.g[6] == 256 && (u.nodeAt (tabled 2) 1).tag == 4) = true ∧
    goes? (exec (.lfork 6 4 5) (noded leaf [(4, 256)])) (fun u => u.core.g[6] == 512 && (u.nodeAt (tabled 3) 2).parent == 256 &&
      (u.nodeAt (tabled 3) 1).children == 1 && (u.nodeAt (tabled 3) 1).state == 2) = true ∧
    goes? (exec (.lfork 6 4 5) (noded { leaf with depth := 7 } [(4, 256)])) (fun u => u.core.xcause == 10 && u.core.xval == 0x10000000003) = true := by
  decide +kernel

/-- A RANK image of rank 1 at 0x100020000: zeros but for its head. -/
def ranked (l : List (Nat × Word)) : State :=
  let s := noded leaf l
  match s.xlate 8 1 0x100020000 .load with
  | .ok x => s.setByte (s.physPlace x.pa) 1
  | .error _ => s

/-- The image is read, its head first, and makes a child. -/
def rankRead (s : State) : Bool :=
  match readRank 0x100020000 64 s with
  | .error _ _ => false
  | .ok h u => slice h 0 4 == 1 && (h.drop 4).all (fun c => c == 0) &&
    match readRank 0x100020000 0x84 u with
    | .error _ _ => false
    | .ok img v => works (forkChild (tabled 3) 1 256 (fun _ => pure img) true) v

theorem witness_LineageRank : (ranked []).region? ((ranked []).tableOwner 8 ((ranked []).owner 0)) = some (tabled 3) ∧
    holds (ranked []) leaf = true ∧ rankSize leaf 1 = 0x84 ∧
    rankRead (ranked []) = true := by decide +kernel

theorem test_lforkr : goes? (exec (.lforkr 6 4 5) (ranked [(4, 256), (5, 0x100020000)])) (fun u => u.core.g[6] == 512 &&
      (u.nodeAt (tabled 3) 2).kind == 3 && (u.nodeAt (tabled 3) 2).ncount == 1) = true := by decide +kernel

/-- A pair list at 0x2000: element 1 becomes 7. -/
def listed (n : Node) (l : List (Nat × Word)) : State :=
  let s := noded n l
  { s with
    mem := [(0x2000, 1), (0x2008, 1), (0x2010, 7)] ++ s.mem }

theorem witness_LineageUpdates : works (putPairs (tabled 3) 1 256 0x2000) (listed leaf []) = true ∧
    works (putNode (tabled 3) 1 { leaf with state := 2 }) (noded leaf []) = true ∧ works (dropNode (tabled 3) 1 leaf) (noded leaf []) = true ∧
    (noded leaf []).below 8 1 (BitVec.ofNat 16 leaf.owner) = true ∧
    (noded { leaf with owner := 7 } []).below 8 1 7 = false ∧ (recordOut 1 leaf.bytes 8 (noded leaf [])).isSome = true ∧
    256 % 2 ^ 32 / 256 < (tabled 3).lntCap ∧ (tabled 3).lntCap ≤ 0x300 / 256 := by decide +kernel

theorem test_lput : goes? (exec (.lput 6 4 5) (listed leaf [(4, 256), (5, 0x2000)])) (fun u => u.core.g[6] == 1 &&
      (u.nodeAt (tabled 3) 1).ncount == 1 && (u.nodeAt (tabled 3) 1).dsize == 16 + 8 + 1 + 2) = true ∧
    goes? (exec (.lseal 4) (noded leaf [(4, 256)])) (fun u => (u.nodeAt (tabled 3) 1).state == 2) = true ∧
    goes? (exec (.lseal 4) (noded { leaf with owner := 7 } [(4, 256)])) (fun u => u.core.xcause == 10 && u.core.xval == 0x1000000000C) = true := by
  decide +kernel

theorem test_ldrop : goes? (exec (.ldrop 4) (noded leaf [(4, 256)])) (fun u => (u.nodeAt (tabled 3) 1).state == 4) = true ∧
    goes? (exec (.ldrop 4) (noded { leaf with children := 1 } [(4, 256)])) (fun u => (u.nodeAt (tabled 3) 1).state == 3) = true ∧
    goes? (exec (.linfo 1 4) (noded leaf [(4, 256)])) (fun u => u.core.g[8] == 0x0E01010000000000 && u.core.g[9] == 0x200000001 && u.core.g[12] == 0x1_00000000) = true ∧
    goes? (exec (.linfo 1 4) (noded leaf [(4, 0x300)])) (fun u => u.core.g[8] == 0) = true := by decide +kernel

/-! Engine commands -/

/-- A descriptor at 0x1000, by its bytes other than zero; g6 holds its address. -/
def descriptor (l : List (Nat × Byte)) : State :=
  { one (gs [(4, 0x20000), (5, 0x3000), (6, 0x1000)]) with
    mem := l.map (fun e => (0x1000 + e.1, e.2)) }

/-- Its 128 bytes. -/
def descBytes (l : List (Nat × Byte)) : List Byte := (descriptor l).getBytes 0x1000 128

/-- Four elements of tags s and t, in one row, with more bytes. -/
def four (s : Byte) (more : List (Nat × Byte)) : List (Nat × Byte) :=
  [(0, 4), (4, 1), (8, 1), (12, s + s * 32), (13, s / 8)] ++ more

theorem witness_CopiesIssue : gsIn (descriptor (four 4 [])) [4, 5, 6, 7] = some ([0x20000, 0x3000, 0x1000, 0], descriptor (four 4 [])) ∧
    (descriptor (four 4 [])).core.noArea 0x1000 128 = true ∧ dscOk 0 (descBytes (four 4 [])) 0 0x20000 0x3000 = true ∧
    dscOk 1 (descBytes (four 4 [])) 0 0x20000 0x3000 = true ∧
    dscOk 2 (descBytes (four 14 [(0x48, 4), (0x4C, 1), (0x50, 1), (0x54, 1), (0x56, 1)])) 0 0x20000 0x3000 = true ∧
    dscOk 3 (descBytes (four 4 [(0x50, 9)])) 0 0x20000 0x3000 = true ∧ dscOk 4 (descBytes (four 14 [(0x50, 9)])) 0 0x20000 0x3000 = true ∧
    dscOk 5 (descBytes (four 4 [(0x50, 9)])) 0 0x20000 0x3000 = true ∧
    dscOk 6 (descBytes (four 1 [(0x40, 1)])) 0 0x20000 0 = true := by decide +kernel

/-- 0x40000000 + 0x20000 names core 1, of another region, and bit 63 a core by its logical place. -/
theorem witness_barrierOk : ((0x4000 : Word).toNat % 16 = 0 ∧ (0x4000 : Word).toNat < 0x20000) ∧
    (descriptor []).owner (clusterCore 0 1) = (descriptor []).owner 0 ∧
    (0x40020000 : Word).toNat < 0x40000000 + 2 * 0x20000 ∧ (ruled id).region? ((ruled id).owner 0) = some root ∧
    root.at? 0 0 = some 0 ∧ (2 : Nat) ^ 63 ≤ (0x8000000000000040 : Word).toNat := by decide +kernel

theorem test_cp : goes? (exec (.cp 7 4 5 6) (descriptor (four 4 []))) (fun u => u.core.pc == 0x104 &&
      u.cmds.map (fun c => (c.a, c.b, c.total)) == [(0x20000, 0x3000, 4)] && u.core.batches.map (fun b => b.unfinished) == [1]) = true ∧
    goes? (exec (.cpR 7 4 5 6) (descriptor (four 14 [(0x50, 9)]))) (fun u => u.cmds.map (fun c => c.total) == [8]) = true ∧
    goes? (exec (.cp 7 4 5 0) (descriptor (four 4 []))) (fun u => u.core.xcause == 11 && u.core.xval == 0) = true ∧
    goes? (exec (.cp 7 4 5 1) (one (gs [(1, 0x1020)]))) (fun u => u.core.xcause == 3 && u.core.xval == 0x1020) = true ∧
    goes? (exec (.cp 1 4 5 6) (one (gs [(1, 0x60000000)]))) (fun u => u.core.xcause == 4 && u.core.xval == 0x60000000) = true := by decide +kernel

/-- A follow-on TZERO t1, and an illegal one. -/
def following (w : Nat) : State :=
  descriptor (four 4 [(0x34, BitVec.ofNat 8 w), (0x35, BitVec.ofNat 8 (w / 2 ^ 8)), (0x36, BitVec.ofNat 8 (w / 2 ^ 16)), (0x37, BitVec.ofNat 8 (w / 2 ^ 24))])

theorem witness_FollowOns : slice ((following (Instr.encode (.tzero 1))).getBytes 0x1000 128) 0x34 4 = Instr.encode (.tzero 1) ∧
    followLegal (Instr.encode (.tzero 1)) = true ∧ followLegal 0x12345600 = false ∧
    dscOk 0 ((following (Instr.encode (.tzero 1))).getBytes 0x1000 128) 0 0x20000 0x3000 = true ∧
    dscOk 0 ((following 0x1345600).getBytes 0x1000 128) 0 0x20000 0x3000 = true ∧
    (match captureCube (Instr.encode (.tzero 1)) (following (Instr.encode (.tzero 1))) with | .ok _ _ => true | .error _ _ => false) = true ∧
    (following (Instr.encode (.tzero 1))).lockers.length < 7 ∧ ((following 0x1345600).groupAt 0).queue.length < 16 := by decide +kernel

theorem test_follow : goes? (exec (.cp 7 4 5 6) (following (Instr.encode (.tzero 1)))) (fun u => u.cmds.map (fun c => c.follow.isSome) == [true]) = true ∧
    goes? (exec (.cp 7 4 5 6) (following 0x1345600)) (fun u => u.core.xcause == 1 && u.core.xval == 0x1345600) = true := by decide +kernel

theorem witness_CopiesRefused : (0x1020 : Word).toNat % 64 ≠ 0 ∧ (0x20000 : Nat) < (0x1FFC0 : Word).toNat + 128 ∧ (0x1FFC0 : Word).toNat % 64 = 0 ∧
    dscOk 0 (descBytes []) 0 0 0 = false := by decide +kernel

theorem witness_CollectivesIssue : netOk 0 (descBytes (four 8 [])) 0 = true ∧ netOk 1 (descBytes (four 1 [(0x42, 2)])) 0 = true ∧
    netOk 2 (descBytes (four 9 [])) 0 = true ∧ netOk 3 (descBytes (four 1 [])) 0 = true ∧
    (descriptor (four 8 [])).inScope (descBytes (four 8 [])) = true := by decide +kernel

theorem test_nred : goes? (exec (.nred 7 4 5 6) (descriptor (four 8 []))) (fun u => u.cmds.map (fun c => (c.isNet, c.total)) == [(true, 16)]) = true ∧
    goes? (exec (.ntopk 7 4 5 6) (descriptor (four 1 [(0x42, 2)]))) (fun u => u.cmds.map (fun c => c.total) == [64]) = true ∧
    goes? (exec (.ncount 7 4 5 6) (descriptor (four 9 []))) (fun u => u.cmds.map (fun c => c.total) == [16]) = true ∧
    goes? (exec (.nbcast 7 4 5 6) (descriptor (four 1 []))) (fun u => u.cmds.map (fun c => c.total) == [4]) = true := by decide +kernel

/-- Batch 3 is open with one command. -/
def batched (n : Nat) : State :=
  one (fun c => { c with cbatch := 3, g := c.g.set 4 0x1000, batches := if n = 0 then [] else [⟨3, c.launch, c.cwp, n, false, false⟩] })

theorem witness_BatchesAndBarriers : (batched 1).openBatches 0 < 64 ∧ (gOut (batched 1) 6 3 1).isSome = true ∧
    (batched 1).core.batches.any (fun b => b.is 3 (batched 1).core.launch (batched 1).core.cwp) = true ∧ (batched 0).pubs = [] ∧
    gsIn ops [4, 6] = some ([0x1000, 3], ops) ∧ ops.core.pos < 49152 ∧ Memory.wf ops.mem = true ∧ ops.getNat (localPlace 0 0x1000) 8 / 2 ^ 57 % 2 = 0 ∧
    ({ ops with mem := [(0x1007, 2)] } : State).getNat (localPlace 0 0x1000) 8 / 2 ^ 57 % 2 = 1 := by decide +kernel

theorem test_seal : goes? (exec (.seal 6) (batched 1)) (fun u => u.core.g[6] == 3 && u.core.cbatch == 4 && u.core.batches.map (fun b => b.sealed) == [true]) = true ∧
    goes? (exec (.seal 6) (batched 0)) (fun u => u.core.g[6] == 3 && u.core.cbatch == 4 && u.core.batches.isEmpty) = true ∧
    goes? (exec (.armb 4 6) ops) (fun u => u.getNat 0x1000 8 == 2 ^ 57 + 3 && u.judge == [⟨0, 0, 0x1000⟩]) = true ∧
    goes? (exec (.armb 4 6) { ops with mem := [(0x1007, 2)] }) (fun u => u.core.xcause == 11 && u.core.xval == 0x1000) = true := by decide +kernel

/-- A family of one member in tile 1, base node 0x100, member 0x200, staging area behind x in the scratchpad. -/
def familyAt : State :=
  descriptor [(1, 1), (11, 0x44), (0x10, 4), (0x13, 4), (0x14, 4), (0x1A, 1), (0x1B, 0x44), (0x28, 1), (0x41, 2), (0x44, 1)]

theorem witness_LineageCommands : gsIn ops [4, 7] = some ([0x1000, 0], ops) ∧ gsIn familyAt [6, 7] = some ([0x1000, 0], familyAt) ∧
    famOk (familyAt.getBytes 0x1000 128) = true ∧ familyAt.core.noArea 0x1000 128 = true ∧
    slice (familyAt.getBytes 0x1000 128) 8 8 = spadBase 0 ∧ slice (familyAt.getBytes 0x1000 128) 0x10 8 = lay8.toNat ∧
    passes (familyAt.famChecks (Instr.encode (.lprod 7 6)) (familyAt.getBytes 0x1000 128) (BitVec.ofNat 64 (spadBase 0)) lay8) = true ∧
    familyAt.lockers.length < 7 := by decide +kernel

theorem test_lprod : goes? (exec (.lprod 7 6) familyAt) (fun u => u.core.ttag[1] == 20 && (u.groupAt 0).queue.map (fun q => (q.abase, q.alay, q.bbase)) ==
      [(BitVec.ofNat 64 (spadBase 0), lay8, 0x1000)]) = true ∧
    goes? (exec (.lflat 7 4) ops) (fun u => u.cmds.map (fun c => (c.a, c.total)) == [(0x1000, 16)]) = true ∧
    goes? (exec (.lrebase 7 4 5) ops) (fun u => u.cmds.map (fun c => (c.a, c.b)) == [(0x1000, 0x1040)]) = true := by decide +kernel

/-! Control registers -/

theorem witness_ControlRegisters : (0x010, (5 : Word)) ∈ controls (one (fun c => { c with xpc := 5 })) ∧
    (∀ x, (0x7FFF, x) ∉ controls ops) ∧ (gOut ops 6 5 1).isSome = true ∧
    (one (fun c => { c with flagsDue := [(5, 1)] })).core.flagsDue ≠ [] ∧ gsIn ops [6] = some ([3], ops) ∧ (3 : Word).toNat ≤ 16 :=
  ⟨by decide +kernel, by intro x; simp [controls], by decide +kernel, by decide, by decide +kernel, by decide⟩

theorem witness_controlCompletes : ops.core.gstream 6 = none ∧ ops.core.windowOpen ops.now (.g 6) = false ∧ (ops.core.rawG 6).toNat < 4 ∧
    (0x041, (0 : Word)) ∈ controls ops ∧ (0x013 : BitVec 15) ∈ ([0x010, 0x011, 0x012, 0x013] : List (BitVec 15)) := by decide +kernel

theorem test_crd : goes? (exec (.crd 6 0x020) (one (fun c => { c with lx := 1, ly := 2, lw := 3, lh := 4 }))) (fun u => u.core.g[6] == 0x04030201) = true ∧
    goes? (exec (.crd 6 0x050) (one (fun c => { c with suit := { act := true, spos := 2, size := 3, memb := 0xF } }))) (fun u => u.core.g[6] == 0x132000F) = true ∧
    goes? (exec (.crd 6 0x030) { ops with now := 26 }) (fun u => u.core.g[6] == 2) = true ∧
    goes? (exec (.crd 6 0x7FF) ops) (fun u => u.core.xcause == 1 && u.core.xpc == 0x100) = true := by decide +kernel

theorem test_cwr : goes? (exec (.cwr 6 0x042) ops) (fun u => u.core.crnd == 3) = true ∧
    goes? (exec (.cwr 4 0x042) ops) (fun u => u.core.xcause == 1) = true ∧ goes? (exec (.cwr 6 0x000) ops) (fun u => u.core.xcause == 1) = true ∧
    goes? (exec (.cwr 6 0x013) ops) (fun u => u.core.xscratch == 3) = true := by decide +kernel

/-- A core with its workspace at 0x8000 and another one at 0xC000, in which g5 is 9 and PC is 0x240. -/
def switching : State :=
  { one (fun c => { c with cwp := 0x8000, g := (c.g.set 4 0xC000).set 6 3 }) with
    mem := [(0xC028, 9), (0xC738, 0x40), (0xC739, 2)] }

theorem witness_WorkspaceSwitch : gsIn switching [4] = some ([0xC000], switching) ∧ switching.core.cwp.toNat ≤ 0x1C000 ∧
    Memory.wf switching.mem = true ∧ (∀ i : Fin 8, switching.core.gs[i] = none) ∧ (∀ i : Fin 4, switching.core.vs[i] = none) ∧
    switching.gathers = [] ∧ (switching.groupAt (groupOf 0)).queue = [] ∧ switching.deliveries = [] := by decide +kernel

set_option maxRecDepth 400000 in
theorem witness_badTag : badTagOffset (switching.getBytes (localPlace 0 0xC000) 0x4000) = none := by decide +kernel

theorem test_wswp_refused : goes? (exec (.wswp 6) switching) (fun u => u.core.xcause == 3 && u.core.xval == 3) = true ∧
    goes? (exec (.wswp 4) (one (gs [(4, 0x20000)]))) (fun u => u.core.xcause == 4) = true ∧
    goes? (exec (.wswp 4) (ringing 0)) (fun u => u.core.xcause == 1) = true := by decide +kernel

/-! Segments and HALT -/

theorem witness_SegmentsAndHalt : gsIn ops [6] = some ([3], ops) ∧ ops.ticks < (3 : Word).toNat ∧
    ({ ops with now := 60 } : State).ticks = 5 ∧ ops.core.failedAppend = none ∧
    (ops.syncRelease 0 none).haltDone 0 = true ∧ (let s := { ops with core := { ops.core with gs := ops.core.gs.set 0 (some { writeStream with queue := [1] }) } }
      (s.syncRelease 0 none).haltDone 0) = false := by decide +kernel

theorem test_segments : goes? (exec (.tbegin 6) ops) (fun u => u.core.status == .waiting (.start 3)) = true ∧
    goes? (exec (.tbegin 6) { ops with now := 60 }) (fun u => u.core.xcause == 8 && u.core.xval == 10) = true ∧
    goes? (exec (.tbegin 4) (one (gs [(4, 0x100000005)]))) (fun u => u.core.xcause == 1) = true ∧
    goes? (exec .tend { one (fun c => { c with timed := true, segFrom := 12 }) with now := 60 }) (fun u => u.core.cseg == 4 && u.core.timed == false) = true ∧
    goes? (exec .gbar ops) (fun u => u.core.status == .waiting .gbar) = true ∧
    goes? (exec .halt ops) (fun u => u.core.status == .idle || u.core.status == .halted) = true := by decide +kernel

/-! The dealer -/

/-- A core of the root region that names a block at 0x100000000. -/
def naming (l : List (Nat × Word)) : State := ruled (gs ([(4, 0x100000000)] ++ l))

/-- The four accesses of R345 reach. -/
def blockOk (s : State) (x : Nat) : Bool :=
  [(0, AccKind.load), (0, .store), (511, .load), (511, .store)].all (fun e =>
    match s.xlate 8 (s.owner 0) (x + e.1) e.2 with | .ok _ => true | .error _ => false)

/-- A store of it to virtual memory becomes visible at 500. -/
def storing : State := { naming [] with later := [⟨500, 0, framePlace 7 0, [1], []⟩] }

theorem witness_RinvalStall : gsIn storing [5] = some ([0], storing) ∧ storing.core.timed = false ∧ 0 < storing.period storing.core.pos ∧
    (⟨500, 0, framePlace 7 0, [1], []⟩ : Later) ∈ storing.later ∧ 2 ^ 36 ≤ framePlace 7 0 ∧
    storing.owner 0 ∈ (storing.subtree (storing.owner storing.core.pos)).map Region.id := by decide +kernel

theorem witness_DealerRequests : gsIn (naming []) [4] = some ([0x100000000], naming []) ∧ blockOk (naming []) 0x100000000 = true ∧
    (naming []).core.timed = false ∧ (gOut (naming []) 6 0 1).isSome = true ∧ gsIn (naming []) [5] = some ([0], naming []) ∧
    (0x1001 : Word).toNat % 64 ≠ 0 := by decide +kernel

/-- It waits for the answer to a request. -/
def asking : State :=
  { one (fun c => { c with status := .waiting (.answer 6) }) with
    requests := [⟨0, 4000, 0, 0x100000000, 0, 0⟩] }

theorem witness_DealerAnswer : asking.requests.find? (fun e => e.core == asking.core.pos) = some ⟨0, 4000, 0, 0x100000000, 0, 0⟩ ∧
    (let r := ({ asking with requests := asking.requests.filter (fun r => r.core != 0) } : State).serve ⟨0, 4000, 0, 0x100000000, 0, 0⟩
     (gOut { r.2 with core := { r.2.core with status := .running } } 6 r.1 1).isSome) = true ∧ asking.region? (asking.owner 0) = none := by decide +kernel

theorem test_dealer : goes? (exec (.rcreate 6 4) (naming [])) (fun u => u.core.status == .waiting (.answer 6) && u.requests.length == 1) = true ∧
    goes? (exec (.rlaunch 6 4) (naming [])) (fun u => u.requests.map (fun e => (e.op, e.addr)) == [(1, 0x100000000)]) = true ∧
    goes? (exec (.rrevoke 6 4 5) (naming [(5, 7)])) (fun u => u.requests.map (fun e => (e.op, e.arg)) == [(2, 7)]) = true ∧
    goes? (exec (.rinval 5) (naming [])) (fun u => u.core.pc == 0x104) = true ∧
    storing.requestsDone [1] = 500 ∧ storing.requestsDone [2] = 0 ∧
    goes? (exec (.rrevoke 6 4 5) (one (gs [(4, 0x1001)]))) (fun u => u.core.xcause == 3 && u.core.xval == 0x1001) = true ∧
    goes? (exec .dealerAnswer asking) (fun u => u.core.g[6] == 0x8000000000000002 && u.core.pc == 0x104 && u.requests.isEmpty) = true := by decide +kernel

/-! Waits and events of a core -/

/-- It waits. -/
def waits (w : Wait) : State := one (fun c => { c with status := .waiting w })

theorem witness_WaitsComplete : waitsFor (waits (.counter 3 0 none)) (.counter 3 0 none) ∧ (waits (.fence none)).accessesDone 0 = true ∧
    (waits .tfence).cubeDone 0 = true ∧ (waits (.pub 9)).keyBusy 0 9 = false ∧ (waits (.pub 9)).pubs = [] ∧
    (waits (.batch 0)).openBatches 0 ≤ 0 := ⟨⟨by decide +kernel, by decide +kernel⟩, by decide +kernel⟩

theorem test_waits : goes? (exec .waitcSatisfied (waits (.counter 3 0 none))) (fun u => u.core.pc == 0x104 && u.core.readyAt == 12) = true ∧
    (match exec .waitcSatisfied (waits (.counter 3 1 none)) with | .refused _ => true | _ => false) = true ∧
    goes? (exec .waitbSatisfied (waits (.barrier 0x1000 false none))) (fun u => u.core.status == .running) = true ∧
    goes? (exec .waitbSatisfied { waits (.barrier 0x1000 true none) with mem := [(0x1007, 5)] }) (fun u => u.core.xcause == 11 && u.core.xval == 0x1000) = true ∧
    goes? (exec .waitnSatisfied (waits (.batch 0))) (fun u => u.core.pc == 0x104) = true ∧
    goes? (exec .fenceComplete (waits (.fence none))) (fun u => u.core.pc == 0x104) = true ∧
    goes? (exec .tfenceComplete (waits .tfence)) (fun u => u.core.pc == 0x104) = true ∧
    goes? (exec .pubComplete (waits (.pub 9))) (fun u => u.core.pc == 0x104) = true ∧
    goes? (exec .timedSegmentStart { waits (.start 2) with now := 24 }) (fun u => u.core.timed && u.core.segFrom == 24 && u.core.readyAt == 24) = true := by
  decide +kernel

/-- Cores 0 and 1 of group 0 wait in a suit barrier of mask 3. -/
def joining : State :=
  { waits (.suitBar 3) with
    others := [{ Core.reset 1 with pc := 0x200, status := .waiting (.suitBar 3) }] }

/-- A running launch of some cores. -/
def launchOf (l : List Nat) : Launch where
  seq := 9
  entry := 0
  image := 0
  space := 1
  keys := []
  args := []
  worst := 0
  deadline := none
  tstart := 0
  stack := 0
  wsbase := 0
  deps := []
  load := 0
  cost := 0
  promise := (0, 0)
  handles := []
  earmark := 0
  state := .running
  code := 0
  voided := false
  order := 0
  readyTick := 0
  cores := l
  loadAt := 0
  startAt := 0
  settled := 0
  superstep := 0
  boundary := 0
  yield := false
  stopTs := none
  stopped := false
  resumeTr := none
  saved := []

/-- Core 0 of a launch of the root region halts; core 1, if it takes part, still runs. -/
def haltingOf (l : List Nat) : State :=
  { one (fun c => { c with status := .halting, launch := 9 }) with
    others := [{ Core.reset 1 with status := .running, launch := 9 }]
    regions := [{ root with launches := [launchOf l] }] }

theorem witness_CoreEvents : (∀ e ∈ namedBy 0 3, (joining.coreAt e.2).status = .waiting (.suitBar 3)) ∧
    (∃ e ∈ (one (fun c => { c with flagsDue := [(0, 1)] })).core.flagsDue, e.1 ≤ 0) ∧
    (haltingOf [0, 1]).haltDone 0 = true ∧ (haltingOf [0, 1]).core.failedAppend = none ∧
    ((haltingOf [0, 1]).region? 1).any (fun r => r.launch? 9 == some (launchOf [0, 1])) = true ∧
    (haltingOf [0, 1]).takesPart 1 9 1 = true ∧ ((haltingOf [0, 1]).coreAt 1).status ≠ .halted ∧
    ((haltingOf [0]).region? 1).any (fun r => r.launch? 9 == some (launchOf [0])) = true := by decide +kernel

theorem test_events : goes? (exec (.suitBarrierComplete 0 3) joining) (fun u => u.core.suit == { act := true, size := 1, spos := 0, memb := 3 } &&
      (u.coreAt 1).suit == { act := true, size := 1, spos := 1, memb := 3 } && (u.coreAt 1).pc == 0x204 && (u.coreAt 1).readyAt == 24) = true ∧
    goes? (exec .registerLanding (one (fun c => { c with flagsDue := [(0, 1), (5, 2)] }))) (fun u => u.core.csat == 1 && u.core.flagsDue == [(0, 1), (5, 2)]) = true ∧
    goes? (exec .coreHalt (haltingOf [0, 1])) (fun u => u.core.status == .halted) = true ∧
    goes? (exec .coreHalt (haltingOf [0])) (fun u => u.core.status == .idle) = true := by decide +kernel

/-! Launches -/

/-- Core 5 of a child region of the cores 5 and 6 with a launch. -/
def launched (f : Core → Core) (l : Launch) : State :=
  { nested with
    core := f { nested.core with launch := 9 }
    regions := [root, { child with cmap := [5, 6], launches := [l], watchdog := 50, seq := 9 }] }

/-- The region and the launch of it. -/
def theLaunch (s : State) : Option (Region × Launch) := (s.region? 2).bind (fun r => (r.launch? 9).map (fun l => (r, l)))

/-- A small image (R106-R109): its header, the section `.text` of one HALT word, the null symbol and the entry, the names, the word.
The header's flags and the entry symbol's index are the arguments. -/
def smallImage (fl entry : Byte) : List Byte :=
  [0x43, 0x42, 0x59, 0, 1, 0, 2, 0, fl, 0, 0, 0, entry, 0, 0, 0] ++ List.replicate 8 0 ++ [64, 0, 0, 0, 1, 0, 0, 0] ++
  [96, 0, 0, 0, 2, 0, 0, 0] ++ [0, 0, 0, 0, 0, 0, 0, 0, 160, 0, 0, 0, 8, 0, 0, 0] ++ List.replicate 8 0 ++
  [1, 0, 0, 0, 1, 2, 3, 0] ++ List.replicate 8 0 ++ [168, 0, 0, 0, 4, 0, 0, 0] ++ List.replicate 8 0 ++ List.replicate 32 0 ++
  [7, 0, 0, 0, 0, 0, 1, 1] ++ List.replicate 24 0 ++ [0, 0x2E, 0x74, 0x65, 0x78, 0x74, 0, 0] ++ [0x7B, 0, 1, 0]

/-- The image is read, and it is not with a signature that it lacks or with an entry symbol that does not exist (R106, R112). -/
theorem test_image : (parseImage (listReader (smallImage 0 1))).any (fun im => im.loaded == 4 && im.entryOk 0) = true ∧
    parseImage (listReader (smallImage 1 1)) = none ∧ parseImage (listReader (smallImage 0 0xFF)) = none := by decide +kernel

/-- A ready launch of that image. -/
def readied : State :=
  let s := launched id { launchOf [] with state := .ready, space := 0 }
  { s with
    device := { s.device with rootImage := smallImage 0 1 } }

/-- A launch that is being loaded on the cores 5 and 6. -/
def loading : State := launched id { launchOf [5, 6] with state := .loading, args := [11, 12, 13, 14], entry := 0x80, startAt := 0 }

theorem witness_LaunchEvents : theLaunch (launched id { launchOf [] with state := .waiting }) = some ((theLaunch (launched id { launchOf [] with state := .waiting })).getD (root, launchOf [])) ∧
    (launched id { launchOf [] with state := .waiting }).depsHold 2 (launchOf []) = true ∧
    (theLaunch readied).any (fun e => readied.eligible e.1 == some e.2 && e.2.state == .ready && readied.freeCores e.1 == [5, 6] &&
      (match readied.fillCores e.1 e.2 [5, 6] with | .ok _ => true | .error _ => false)) = true ∧ readied.choice = some 2 ∧
    (theLaunch loading).any (fun e => e.1.loading? == some e.2 && e.2.startAt ≤ loading.ticks && e.2.saved.isEmpty) = true ∧
    (match (launched id { launchOf [] with state := .ready }).fillCores { child with cmap := [5, 6] } { launchOf [] with state := .ready } [5, 6] with
      | .ok _ => false | .error c => c == 12) = true ∧
    [5, 6].Nodup := by decide +kernel

theorem test_launch : goes? (exec (.launchReady 2 9) (launched id { launchOf [] with state := .waiting })) (fun u => (theLaunch u).any (fun e => e.2.state == .ready)) = true ∧
    goes? (exec (.launchPlace 2) readied) (fun u => (theLaunch u).any (fun e => e.2.state == .loading && e.2.startAt == 64) && u.core.launch == 9) = true ∧
    goes? (exec (.launchStart 2) loading) (fun u => u.core.pc == 0x80 && u.core.g[2] == 0x1C000 && u.core.g[5] == 12 && u.core.crb == 16 &&
      u.core.lw == 1 && (u.coreAt 6).pc == 0x80 && (u.coreAt 6).lx == 1) = true := by decide +kernel

/-! Supersteps -/

/-- Core 5 runs its launch alone. -/
def running (f : Launch → Launch) (st : CoreStatus) : State := launched (fun c => { c with status := st }) (f (launchOf [5]))

/-- What holds of the region and the running launch. -/
def runs (s : State) (p : Region → Launch → Bool) : Bool := (theLaunch s).any (fun e => e.1.running? == some e.2 && p e.1 e.2)

/-- A debug stop from 10 to 20. -/
def stopping (l : Launch) : Launch := { l with stopTs := some 10, stopped := true, resumeTr := some 20 }

/-- A region being revoked by core 5, with nothing placed. -/
def revoked : State :=
  { nested with
    regions := [root, { child with cmap := [5, 6], state := .revoking, revoker := some 3 }] }

theorem witness_SuperstepEvents : runs (running id (.waiting .gbar)) (fun r l => (running id (.waiting .gbar)).allArrived 2 l && r.state == .live && !l.yield) = true ∧
    (running id (.waiting .gbar)).pubs = [] ∧
    runs { running id .running with now := 600 } (fun r l => r.watchdog == 50 && l.stopTs.isNone && l.boundary + r.watchdog ≤ 50) = true ∧
    runs (running (fun l => { l with stopTs := some 10 }) .running) (fun _ l => l.stopTs.isSome && l.resumeTr.isNone) = true ∧
    runs { running (fun l => { l with stopTs := some 10 }) .running with now := 240 } (fun r l => r.current? == some l && r.revokeTs.isNone) = true ∧
    ({ running (fun l => { l with stopTs := some 10 }) .running with now := 240 } : State).atBoundary 5 = true ∧
    ((running (fun l => { l with stopTs := some 10 }) .running).coreAt 5).broken = false ∧
    runs (running stopping .running) (fun _ l => l.stopped && l.resumeTr == some 20) = true ∧
    (revoked.region? 2).any (fun r => r.state == .revoking && r.revoker == some 3) = true ∧
    ((revoked.subtree 2).all (fun x => x.current?.isNone && !revoked.pendingOutside 2 x)) = true := by decide +kernel

theorem test_superstep : goes? (exec (.superstepBoundary 2) (running id (.waiting .gbar))) (fun u => u.core.status == .running && u.core.pc == 0x104 &&
      (theLaunch u).any (fun e => e.2.superstep == 1)) = true ∧
    goes? (exec (.superstepWatchdog 2) { running id .running with now := 600 }) (fun u => u.core.pending.timer == some 0) = true ∧
    goes? (exec (.debugStopEnd 2) (running (fun l => { l with stopTs := some 10 }) .running)) (fun u => (theLaunch u).any (fun e => e.2.resumeTr == some 256)) = true := by
  decide +kernel

/-! Tokens and increments -/

/-- The root alone, at a time. -/
def atTime (n : Nat) : State := { ruled id with now := n }

/-- A launch of core 5 that has used up what its region has. -/
def exhausted : State :=
  { nested with
    regions := [root, { child with cmap := [5, 6], launches := [launchOf [5]], balance := 0 }] }

/-- A deadline launch that runs. -/
def overdue : State := { running (fun l => { l with deadline := some 100, worst := 5 }) .running with now := 120 }

/-- An increment of counter 63 is on its way to core 0. -/
def mailed (src : MsgFrom) : State := { ruled (fun c => { c with launch := 9 }) with msgs := [⟨src, 1, 0, 63, 5, none, 0⟩] }

theorem witness_TokensAndIncrements : ((atTime 2400000).dealt + 1) * 200000 ≤ (atTime 2400000).ticks ∧ (atTime 2400000).regions = [root] ∧
    root.current? = none ∧ (atTime 0).ticks < ((atTime 0).dealt + 1) * 200000 ∧
    (exhausted.region? 2).any (fun r => r.current? == some (launchOf [5]) && r.unpledged == 0 && exhausted.region? r.parent == some root) = true ∧
    (launchOf [5]).settled = exhausted.ticks ∧
    runs overdue (fun _ l => l.deadline.isSome && !l.voided && l.stopTs.isNone && l.startAt + l.worst < overdue.ticks) = true ∧
    (mailed (.remote none)).owner 0 = 1 ∧ ((mailed (.remote none)).coreAt 0).launch ≠ 0 ∧ ((mailed (.remote none)).coreAt 0).status ≠ .idle ∧
    (∀ o ∈ (mailed (.remote (some 3))).remotes, o.flow ≠ some 3) := by decide +kernel

theorem test_tokens : goes? (exec .deal (atTime 2400000)) (fun u => u.dealt == 1 && (u.region? 1).any (fun r => r.balance == 1007 && r.pool == 0)) = true ∧
    goes? (exec (.balanceExhausted 2) exhausted) (fun u => (u.region? 2).any (fun r => r.balance == 50 && r.marker == 50) && (u.region? 1).any (fun r => r.pool == 0)) = true ∧
    goes? (exec (.worstExceeded 2) overdue) (fun u => (theLaunch u).any (fun e => e.2.voided && e.2.code == 0x21)) = true ∧
    goes? (exec (.mailboxIncrement 0) (mailed (.remote none))) (fun u => u.core.counters[63] == 5 && u.core.pending.mailbox == some 5 && u.outbox == [.ack]) = true := by
  decide +kernel

/-! The governor and the engines at work -/

/-- A command stands alone in the queue of group 0. -/
def queued (c : CubeCmd) : State := tiled.modGroup 0 (fun g => { g with queue := [c] })

/-- TZERO t1 as it is captured. -/
def zeroing : CubeCmd := (command tiled (.tzero 1) (0, 0) (0, 0) (0, 0) (0, 0)).withTags tiled.core

/-- TMUL of t1 and t2 into t3, started. -/
def multiplying : CubeCmd :=
  { (command tiled (.tmul 3 1 2 16 0) (0, 0) (0, 0) (0, 0) (0, 0)).withTags tiled.core with
    started := true, acc := [0] }

/-- Core 5 of a child region while its product command stands n steps into a block. -/
def within (n : Nat) : State := nested.modGroup (groupOf 5) (fun g => { g with queue := [{ multiplying with core := 5, started := true, step := n }] })

theorem witness_ReflectionWaits : (within 3).region? ((within 3).owner 5) = some { child with cmap := [5, 6] } ∧
    (within 3).atBoundary 5 = false ∧ (within 8).atBoundary 5 = true := by decide +kernel

/-- A reflected trap parks the core only at a block boundary of its command (R242, R388); until then it tries in each cycle. -/
theorem test_reflection_waits :
    (let u := (within 3).takeTrap false 15 7 0
     u.core.status == .running && u.core.reflecting == some (1, u.core.cstat) && u.core.xcause == 15 && u.core.readyAt == 12 &&
     (match u.issueNext with | .next v => v.core.reflecting == u.core.reflecting && v.core.status == .running | _ => false) &&
     !({ u with core := { u.core with pending := { Pending.empty with timer := some 6 } } } : State).interruptible) = true := by decide +kernel

/-- The tiles hold 2 and 3 in element 0 of row 0. -/
def factors : State :=
  { queued multiplying with
    core := { tiled.core with t := (tiled.core.t.set 1 2).set 2 3 } }

theorem witness_GovernorRuns : ((queued zeroing).groupAt 0).queue = [zeroing] ∧ groupOf zeroing.core = 0 ∧ zeroing.started = false ∧ zeroing.held = false ∧
    zeroing.total = 1 ∧ zeroing.isLprod = false ∧ zeroing.marks = [] ∧ zeroing.isPart = false ∧ (queued zeroing).cubeStops zeroing = false ∧ (queued zeroing).countFull zeroing.id zeroing.marks = false ∧
    zeroing.word = BitVec.ofNat 32 (Instr.encode (.tzero 1)) ∧
    ({ zeroing with started := true, acc := [0], step := 1 } : CubeCmd).stepEnd 12 + 12 ≤ 48 := by decide +kernel

theorem test_governor : goes? (exec (.governorCommandStart 0) (queued zeroing)) (fun u => (u.groupAt 0).queue.map (fun c => c.started) == [true]) = true ∧
    goes? (exec (.cubeStep 0) (queued { zeroing with started := true })) (fun u => (u.groupAt 0).queue.map (fun c => (c.step, c.acc)) == [(1, [0])]) = true ∧
    goes? (exec (.governorCommandComplete 0) { queued { zeroing with started := true, acc := [0], step := 1 } with now := 48 })
      (fun u => (u.groupAt 0).queue.isEmpty && u.core.t[1] == 0) = true := by decide +kernel

theorem witness_CubeSliceOnIntegers : (factors.groupAt 0).queue = [multiplying] ∧ multiplying.tags.take 2 = [4, 4] ∧ multiplying.total = 4 ∧
    multiplying.step < 4 ∧ multiplying.acc = [0] ∧ multiplying.due ≤ factors.now ∧ (factors.coreAt 0).t.toList.getD 1 0 = 2 ∧
    factors.cubeStops multiplying = false ∧ (factors.coreAt 0).windowOpen factors.now (.t 1) = false := by decide +kernel

theorem test_slice : goes? (exec (.cubeStep 0) factors) (fun u => (u.groupAt 0).queue.map (fun c => (c.step, c.acc)) == [(1, [6])]) = true := by decide +kernel

/-- A copy of one byte from 0x2000 to 0x3000. -/
def copy : EngCmd where
  id := 4
  core := 0
  region := 0
  launch := 0
  home := 0
  batch := 3
  kind := .copy 0
  k := 0
  a := 0x2000
  b := 0x3000
  desc := leBytes 4 1 ++ leBytes 4 1 ++ leBytes 4 1 ++ leBytes 4 0x84 ++ List.replicate 112 0
  started := false
  progress := 0
  total := 1
  arrived := 0
  bad := []
  skipped := 0
  published := false
  failed := none
  table := []
  run := none
  granules := []
  moves := []
  worn := []
  by_ := none
  result := []
  resultPoison := []
  follow := none
  marks := []

/-- Batch 3 has two unfinished commands, of which this is one. -/
def copying (c : EngCmd) : State :=
  { one (fun k => { k with batches := [⟨3, 0, 0, 2, false, false⟩] }) with
    cmds := [c]
    mem := [(0x2000, 7)] }

/-- NCOUNT of one core of a child region. -/
def counting : State :=
  let s := running id .running
  { s with
    cmds := [{ copy with
      id := 4, core := 5, region := 2, launch := 9, kind := .net 2, a := 0x2000, total := 4
      desc := leBytes 4 1 ++ leBytes 4 1 ++ leBytes 4 1 ++ leBytes 4 (9 + 9 * 32) ++ List.replicate 112 0 }] }

theorem witness_EngineRuns : (copying copy).later = [] ∧ tagWidth (dscStag copy.desc) = 8 ∧ dscStag copy.desc = dscDtag copy.desc ∧ copy.pubm = 0 ∧
    dscN copy.desc 0 = 1 ∧ dscN copy.desc 1 = 1 ∧ dscN copy.desc 2 = 1 ∧ tagC4 (dscStag copy.desc) = false ∧
    (copying copy).core.inWorkspace 0x3000 1 = false ∧ Memory.wf (copying copy).mem = true ∧ (copying copy).marks = [] ∧ (copying copy).poison = [] ∧ (copying copy).corrupt = [] ∧
    (copying copy).countFull copy.id copy.marks = false ∧ (copying copy).judge = [] ∧
    copy.units = 1 ∧ (⟨3, 0, 0, 2, false, false⟩ : Batch).is copy.batch copy.launch copy.home = true ∧
    dscWord copy.desc 0 = 0 ∧ dscWord copy.desc 2 = 0 := by decide +kernel

theorem test_engine : goes? (exec (.engineCommandStart 4) (copying copy)) (fun u => u.cmds.map (fun c => c.started) == [true]) = true ∧
    goes? (exec (.engineLanding 4) (copying { copy with started := true })) (fun u => u.getByte 0x3000 == 7 && u.cmds.map (fun c => c.arrived) == [1]) = true ∧
    goes? (exec (.engineCommandComplete 4) (copying { copy with started := true, progress := 1 })) (fun u => u.cmds.isEmpty &&
      u.core.batches.map (fun b => b.unfinished) == [1]) = true := by decide +kernel

theorem witness_collective : (counting.cmds.find? (fun e => e.id == 4)).any (fun c => counting.instanceReady c &&
      (counting.members c).any (fun es => es == [c] && (counting.startInstance c es).isSome)) = true ∧
    (({ counting with regions := [root, { child with cmap := [5, 6], lw := 1, launches := [launchOf [5, 6]] }] } : State).cmds.find? (fun e => e.id == 4)).any
      (fun c => (({ counting with regions := [root, { child with cmap := [5, 6], lw := 1, launches := [launchOf [5, 6]] }] } : State).members c).isNone) = true := by
  decide +kernel

/-! The housekeeper -/

/-- Record 1 is a ghost without children, or is being freed. -/
def housed (st : Nat) : State := { noded { leaf with state := st } [] with housework := [(1, 1)] }

theorem witness_Housekeeping : (housed 3).region? 1 = some (tabled 3) ∧ (1, 1) ∈ (housed 3).housework ∧ ((housed 3).nodeAt (tabled 3) 1).state = 3 ∧
    ((housed 3).houseKeep (tabled 3) 1).isSome = true ∧ ((housed 4).nodeAt (tabled 3) 1).state = 4 ∧ (housed 4).snaps = [] ∧
    works (do let n ← getNode (tabled 3) 1; releaseImage (tabled 3) n; putNode (tabled 3) 1 { n with state := 0, gen := 1 }) (housed 4) = true := by
  decide +kernel

theorem test_housekeeper : goes? (exec (.housekeeperFold 1 1) (housed 3)) (fun u => (u.nodeAt (tabled 3) 1).state == 4) = true ∧
    goes? (exec (.nodeFree 1 1) (housed 4)) (fun u => (u.nodeAt (tabled 3) 1).state == 0 && (u.nodeAt (tabled 3) 1).gen == 1 && u.housework.isEmpty) = true ∧
    (match exec (.nodeFree 1 1) { housed 4 with snaps := [⟨4, none, 1, [1], [], [], [], [], []⟩] } with | .refused _ => true | _ => false) = true := by decide +kernel

/-! Memory behind the sluices -/

/-- The same machine, its device running. -/
def powered : State := { ops with device := { ops.device with phase := .running } }

/-- Line 64 is pending. -/
def pendingLine : State :=
  { ops with
    scrub := [(64, 1)]
    mem := [(0x1000, 9), (0x1040, 8)] }

/-- Page 7 is compressed in frame 2^30; frame 3 of the stacks is free. -/
def compressedPage : State :=
  { ops with
    remap := [(7, 2 ^ 30)]
    compressed := [(2 ^ 30, 100)]
    device := { ops.device with phase := .running, freeHbm := [3] } }

theorem witness_PageEvents : Memory.wf pendingLine.mem = true ∧ pendingLine.scrub.find? (fun e => decide (0 < e.2)) = some (64, 1) ∧ (∀ e ∈ ops.scrub, e.2 = 0) ∧
    ops.pageExists 5 = true ∧ linkOf (ops.frame 5) = none ∧ ops.frame 5 < ops.nextFrame ∧ (5 : Nat) < 16 * 0x180000 * 1024 ∧ ops.remap = [] ∧
    (5 : Nat) / 1024 ∉ ops.device.freeHbm ∧ compressedPage.isCompressed (compressedPage.frame 7) = true ∧ compressedPage.promoting 7 = false ∧ compressedPage.frameIsolated (compressedPage.frame 7) = false ∧
    compressedPage.device.freeHbm = [3] ∧ 3 ≠ compressedPage.frame 7 := by decide +kernel

/-- Page 5 is shadowed in a frame that retired with poison. -/
def shadowed : State :=
  { powered with
    nextFrame := 2 ^ 32 + 2
    pubs := [⟨.key 0 3, false, [], [(1, 5, 2 ^ 32 + 1)], [], [2 ^ 32 + 1]⟩]
    regions := [rootRegion []] }

theorem witness_ShadowRetires : shadowed.isShadow (2 ^ 32 + 1) = true ∧ (2 ^ 32 + 1) ∉ shadowed.device.freeHbm ∧
    2 ^ 32 + 1 < shadowed.nextFrame := by decide +kernel

/-- A published page of which the shadow retired with poison raises LOSTPAGE at the next access (R404, R414). -/
theorem test_worn_shadow : ((shadowed.publish (.key 0 3)).regions.map Region.lost, (shadowed.publish (.key 0 3)).frame 5) =
    ([[5]], 2 ^ 32 + 1) := by decide +kernel

theorem test_scrub : goes? (exec .scrubLine pendingLine) (fun u => u.mem == [(0x1040, 8)] && scrubbed 64 u.scrub == false) = true ∧
    pendingLine.getByte 0x1000 = 0 ∧ (match exec .scrubLine ops with | .refused _ => true | _ => false) = true ∧
    goes? (exec (.patrolScrub 5 .clean) powered) (fun u => (u.stackAt 0).patrol == 5) = true ∧
    goes? (exec (.patrolScrub 5 .readCorrected) powered) (fun u => (u.stackAt 0).fixed == [5] && (u.stackAt 0).patrol == 0) = true ∧
    (match exec (.patrolScrub 5 .clean) ops with | .refused _ => true | _ => false) = true ∧
    goes? (exec (.patrolScrub 5 .uncorrectable) powered) (fun u => u.poisoned (framePlace 0 320) && u.inputs == [.pageRetire 0]) = true := by decide +kernel

/-- Extent (2, 1) of link 1, of which the last frame but one is free and holds nothing. -/
def extended : State :=
  { ops with
    remap := [(7, unitFrame 1 2)]
    device := { ops.device with phase := .running, freeCap := [unitFrame 1 2 + 9], links := ops.device.links.set 1 ⟨[(2, 1)], false, none, []⟩ } }

/-- A link that is isolated while page 7 was being written, and one whose expander has left a request of time 12 unanswered. -/
def isolated : State := { powered with device := { powered.device with links := powered.device.links.set 1 ⟨[], true, none, [7]⟩ } }
def silentFor (now : Nat) : State :=
  { powered with
    now := now
    device := { powered.device with links := powered.device.links.set 1 ⟨[], false, some 12, [7]⟩ } }

/-- Every frame of the extent is free, or the tier is full. -/
def unmapped : State :=
  { extended with
    remap := []
    device := { extended.device with freeCap := (List.range 4096).map (unitFrame 1 2 + ·) } }
def full : State := { extended with remap := [], device := { extended.device with freeCap := [] } }

theorem witness_StackAndLinkEvents : ops.device.phase = .powerOn ∧ extended.device.phase ≠ .powerOn ∧ (ops.stackAt 3).dead = false ∧ (ops.stackAt 3).takeover = false ∧
    (ops.stackAt 3).heartbeat + 200000 ≤ ({ ops with now := 2400000 } : State).ticks ∧ ((silentFor 0).linkAt 1).isolated = false ∧ ((silentFor 0).linkAt 1).asked = some 12 ∧ (ops.linkAt 1).asked = none ∧ (isolated.linkAt 1).isolated = true ∧
    (unmapped.device.freeCap.filter (fun f => decide (unitFrame 1 2 ≤ f) && decide (f < unitFrame 1 2 + 1 * 4096))).length = 1 * 4096 ∧
    (unmapped.linkAt 1).extents = [(2, 1)] ∧ full.device.freeHbm = [] ∧ full.compressed = [] ∧ extended.promoting 7 = false ∧
    extended.extentOk 1 3 1 = true ∧ extended.extentOk 1 2 1 = false ∧ (∀ e ∈ (extended.linkAt 1).extents, e.1 ≠ 3) ∧
    (full.linkAt 1).extents = [(2, 1)] ∧ full.cmds = [] ∧ (linkOf (extended.frame 7)).isSome = true ∧
    unitFrame 1 2 + 9 ∈ extended.device.freeCap ∧ extended.frame 7 ∉ extended.device.freeCap ∧ extended.frameIsolated (extended.frame 7) = false := by decide +kernel

/-- The layers of stack 3 had these intervals at its last heartbeat; one is cooler now. -/
def cooled : State := ({ powered with now := 2400000 } : State).modStack 3 (fun k => { k with temps := [80, 80], intervals := [3900, 3900], beat := [3900, 1950] })

/-- A sequencer that takes over refreshes as fast as any layer was refreshed at the last heartbeat (R412). -/
theorem test_takeover_interval :
    goes? (exec (.refreshTakeover 3) cooled) (fun u => (u.stackAt 3).intervals == [1950, 1950]) = true := by decide +kernel

theorem test_stack : goes? (exec (.heartbeat 3) { ops with now := 24 }) (fun u => (u.stackAt 3).heartbeat == 2) = true ∧
    goes? (exec (.refreshTakeover 3) { powered with now := 2400000 }) (fun u => (u.stackAt 3).takeover && (u.stackAt 3).dead && u.device.telemetry == [.takeover 3]) = true ∧
    goes? (exec (.mgmtCoreRestart 3) ops) (fun u => (u.stackAt 3).dead == false) = true ∧
    goes? (exec (.expanderTimeout 1) (silentFor 24000012)) (fun u => (u.linkAt 1).isolated && (u.linkAt 1).writing == [7]) = true ∧
    (match exec (.expanderTimeout 1) (silentFor 24000011) with | .refused _ => true | _ => false) = true ∧
    goes? (exec (.extentRelease 1 3) extended) (fun u => u.outbox == [.refused]) = true ∧
    goes? (exec (.extentAdd 1 2 1) extended) (fun u => u.outbox == [.refused]) = true := by decide +kernel

/-! Hosts -/

/-- A running device with a memory window of key 9 and a counter window of key 10. -/
def hosted : State :=
  { ruled id with
    device := { (ruled id).device with
      phase := .running
      windows := [(0, ⟨0x100000000, 0x10000, 9, 1, 0, false, 7⟩), (1, ⟨0, 0x10000, 10, 1, 0, true, 4⟩)] } }

/-- A packet with a key, at port 3. -/
def packet (key : BitVec 32) : Packet := ⟨key, 3, none, true⟩

/-- The one piece of an access of n bytes that nothing holds up. -/
def onePiece (k : AccKind) (n : Nat) : Bool :=
  match State.remotePages (Config.freeNat 0 % 64) 1 k 2 0x100000008 n { hosted with free := 1 } with
  | .ok ([e], t) => e.len == n && e.lines.all (fun l => !t.heldUp remoteCore l.1 true) && (t.engineBad [e]).isNone &&
      !t.countFull t.nextId (joinMarks [e] true [])
  | _ => false

/-- The window that an operation goes to. -/
def admits (r : Except RemoteFailure HostWindow) : Bool :=
  match r with
  | .ok w => w == ⟨0x100000000, 0x10000, 9, 1, 0, false, 7⟩
  | .error _ => false

theorem witness_RemoteOperations : remoteTurn hosted (packet 9) ∧ hosted.free = 0 ∧ (∀ e ∈ hosted.device.windows, e.2.key ≠ (packet 11).key) ∧
    (hosted.windowOf 10).any (fun w => hosted.region? w.region == some root && w.counter && w.perm.getLsbD 2) = true ∧ root.state = .live ∧
    admits (hosted.memoryWindow 9 8 8 1 0) = true ∧ admits (hosted.memoryWindow 9 8 8 1 1) = true ∧
    admits (hosted.memoryWindow 9 8 8 8 2) = true ∧ onePiece .load 8 = true ∧ onePiece .store 8 = true ∧ onePiece .atomic 8 = true := by
  refine ⟨⟨rfl, rfl, .inl rfl⟩, rfl, ?_⟩
  decide +kernel

theorem test_remote : goes? (exec (.remoteWrite (packet 9) 8 [1, 2]) hosted)
      (fun u => u.remotes.map (fun o => o.answer) == [.ack] && u.peekNat 1 0x100000008 2 == 0x201 && (u.acknowledge 0).outbox == [.ack]) = true ∧
    goes? (exec (.remoteFetchAdd (packet 9) 8 5) hosted)
      (fun u => u.remotes.map (fun o => o.answer) == [.word 0] && u.peekNat 1 0x100000008 8 == 5) = true ∧
    goes? (exec (.remoteCompareSwap (packet 9) 8 1 5) hosted)
      (fun u => u.remotes.map (fun o => o.answer) == [.word 0] && u.peekNat 1 0x100000008 8 == 0) = true ∧
    goes? (exec (.remoteRead (packet 9) 8 (2 ^ 32 + 1)) hosted) (fun u => u.device.telemetry == [.droppedPacket 3]) = true ∧
    goes? (exec (.remoteRead (packet 11) 8 2) hosted) (fun u => u.outbox == [.nack .key]) = true ∧
    goes? (exec (.remoteCounterAdd (packet 10) 260 5) hosted) (fun u => u.msgs == [⟨.remote none, 1, 1, 1, 5, none, 0⟩]) = true ∧
    goes? (exec (.remoteWrite (packet 9) 8 [1]) { hosted with device := { hosted.device with phase := .safe } })
      (fun u => u.device.telemetry == [.droppedPacket 3] && u.device.ports[3] == 1) = true := by
  decide +kernel

/-- A window entry: memory, key 5, region 1, all permissions, length 0x10000, base 0x100000000. -/
def windowEntry : BitVec 256 := BitVec.ofNat 256 (0x100000000 * 2 ^ 192 + 0x10000 * 2 ^ 128 + 5 * 2 ^ 96 + 2 ^ 80 + 7 * 2 ^ 65 + 2 ^ 64)

/-- This package is number 1 of peer group 3. -/
def peered : State := { ops with device := { ops.device with peers := [(3, 1, [1, 1])] } }

theorem witness_ManagementMessages : servesMgmt hosted ∧ windowFields windowEntry = some (some ⟨0x100000000, 0x10000, 5, 1, 0, false, 7⟩) ∧
    (0 : BitVec 256).toNat / 2 ^ 64 % 2 = 0 ∧ windowFields (BitVec.ofNat 256 (2 ^ 64 + 1)) = none ∧ hosted.region? 1 = some root ∧
    (hosted.coreAt root.supervisor).pending.hostmsg.length < 16 ∧ (∃ p ∈ peered.device.peers, p.1 = 3 ∧ 0 < p.2.2.length ∧ p.2.1 ≠ 0) ∧ peered.instances = [] ∧
    16 ≤ (({ hosted with core := { hosted.core with pending := { Pending.empty with hostmsg := List.replicate 16 0 } } } : State).coreAt root.supervisor).pending.hostmsg.length :=
  ⟨rfl, by decide +kernel⟩

theorem test_management : goes? (exec (.installHostWindow 4 windowEntry) hosted) (fun u => u.outbox == [.accepted] && (u.windowOf 5).isSome) = true ∧
    goes? (exec (.installHostWindow 1024 windowEntry) hosted) (fun u => u.outbox == [.refused]) = true ∧
    goes? (exec (.installPeerGroup 3 1 [1, 1]) hosted) (fun u => u.device.peers == [(3, 1, [1, 1])]) = true ∧
    goes? (exec .readTelemetry hosted) (fun u => u.outbox == [.telemetry [] (List.replicate 32 0) 0]) = true ∧
    goes? (exec (.hostmsg 77) hosted) (fun u => u.core.pending.hostmsg == [77]) = true ∧
    goes? (exec (.transportKeyInstall 3 [1]) hosted) (fun u => u.device.transportKeys == [(3, [1])]) = true ∧
    goes? (exec (.peerUnreachable 3 0) peered) (fun u => u.device.lostPeers == [(3, 0)]) = true := by decide +kernel

/-! The device -/

/-- A key in slot 4, and one die that has stopped, or is hot. -/
def keyed (temp : Nat) (stopped : Bool) : State :=
  { hosted with
    device := { hosted.device with keys := [(4, [1])], dies := [⟨2, 12, temp, stopped⟩] } }

theorem witness_DeviceEvents : servesMgmt (keyed 104 true) ∧ (4, [(1 : Byte)]) ∈ (keyed 104 true).device.keys ∧ hosted.dieBetween 2 = true ∧ hosted.heldFast 2 = false ∧
    ({ hosted with core := { hosted.core with timed := true } } : State).heldFast 2 = true ∧ (∀ d ∈ (keyed 114 false).device.dies, d.id = 2 → d.temp < 115) ∧
    (∃ d ∈ (keyed 115 false).device.dies, d.id = 2 ∧ d.stopped = false ∧ 115 ≤ d.temp) ∧
    (keyed 104 true).device.dies.find? (fun d => d.id == 2) = some ⟨2, 12, 104, true⟩ ∧ (∀ d ∈ (keyed 105 true).device.dies, d.id = 2 → 105 ≤ d.temp) ∧
    hosted.device.calibration = none ∧ (⟨[], [20, 40], crc32c [20, 0, 40, 0]⟩ : Calibration).fits [30, 30] = true ∧
    ((running id .running).placedOn 5).any (fun e => e.2.state == .running && e.1.state == .live && e.1.running?.isSome &&
      (running id .running).regions.contains e.1) = true := ⟨rfl, by decide +kernel⟩

/-- A signature that verifies is a free value: the two clauses on it cannot both be without a case. -/
theorem witness_keyInstall (pub sig : List Byte) : Config.slhDsaVerify Config.manufacturerKey (Config.installMessage 4 pub) sig = true ∨
    Config.slhDsaVerify Config.manufacturerKey (Config.installMessage 4 pub) sig = false := by
  cases Config.slhDsaVerify Config.manufacturerKey (Config.installMessage 4 pub) sig <;> simp

theorem test_device : goes? (exec (.clockChange 2 15) hosted) (fun u => u.device.dies == [⟨2, 15, 0, false⟩] && u.period 2 != 0) = true ∧
    goes? (exec (.thermalClockStop 2) (keyed 115 false)) (fun u => u.device.dies.map (fun d => d.stopped) == [true]) = true ∧
    (⟨[], [20, 40], crc32c [20, 0, 40, 0]⟩ : Calibration).fits [31, 40] = false ∧
    goes? (exec (.thermalClockResume 2) (keyed 104 true)) (fun u => u.device.dies.map (fun d => d.stopped) == [false]) = true ∧
    goes? (exec (.firmwareReplace 3 [1]) hosted) (fun u => u.outbox == [.refused]) = true ∧
    goes? (exec (.attestationRequest [1]) hosted) (fun u => u.outbox == [.refused]) = true ∧
    goes? (exec (.dieLinkLoss 5) (running id .running)) (fun u => (u.coreAt 5).pending.trees == [(true, 0)]) = true := by decide +kernel

/-! Frames and steps -/

theorem witness_ScalarFrame : scalarForm (.add 6 4 5) [4, 5] 6 ∧ gsIn ops [4, 5] = some ([0x1000, 0x1040], ops) ∧
    (∀ x l, (gOut ops 6 x l).isSome = true) ∧ goes? (exec (.add 6 4 5) ops) (fun _ => true) = true :=
  ⟨.inl ⟨_, List.mem_append_left _ (List.mem_cons_self ..), 4, 5, rfl, rfl⟩, by decide +kernel, fun _ _ => rfl, by decide +kernel⟩

/-- Right after reset with a word loaded at the program counter. -/
def fetching (w : Nat) : State := State.reset.withFetchWord 32 w

/-- The same, the program counter elsewhere. -/
def fetchingAt (pc : Word) : State := { fetching 0 with core := { (fetching 0).core with pc := pc } }

theorem witness_StepRuns : (fetching 0x001E0507).choose = some (.issue 0, 0, 0) ∧ (fetching 0x001E0507).core.pos = 0 ∧ (fetching 0x001E0507).now = 0 ∧
    ((fetching 0x001E0507).moment 0 (.issue 0)).core.posted = [] ∧ ((fetching 0x001E0507).moment 0 (.issue 0)).core.reflecting = none ∧ ((fetching 0x001E0507).moment 0 (.issue 0)).interruptible = false ∧
    ((fetching 0x001E0507).moment 0 (.issue 0)).core.suit.act = false ∧
    ((fetching 0x001E0507).moment 0 (.issue 0)).getNat 0 4 = 0x001E0507 ∧ decodeWord 0x001E0507 = some (.addi 10 0 15) ∧
    decodeWord 0x20000079 = none ∧ (fetchingAt 0x1FFFF).choose = some (.issue 0, 0, 0) ∧ (0x20000 : Nat) < (0x1FFFF : Word).toNat + 2 := by decide +kernel

/-- A timed core whose words at 0 have been written since it fetched them, and one of which the first 16 bits at 2 have been read. -/
def rewritten : State := { fetching 0x001E0507 with core := { (fetching 0x001E0507).core with timed := true, refetch := some 3 } }
def halved : State :=
  { fetching 0 with
    mem := [(4, 0x1E)]
    core := { (fetching 0).core with pc := 2, half := some 0x0507, late := 1 } }

/-- The other agents that make a second access of a fetch possible; that it comes later in the cycle is a free value's choice. -/
theorem witness_otherFetches : stale (rewritten.moment 0 (.issue 0)) 4 ∧ wordAt (rewritten.moment 0 (.issue 0)) 0x001E0507 4 ∧
    wordAt (halved.moment 0 (.issue 0)) 0x001E0507 4 ∧
    ({ fetchingAt 2 with others := [{ Core.reset 1 with status := .running, launch := 1 }] } : State).othersAct = true := by
  refine ⟨⟨rfl, 3, rfl, by decide +kernel⟩, ⟨by decide +kernel, by decide +kernel, by decide +kernel, ?_⟩,
    ⟨by decide +kernel, by decide +kernel, by decide +kernel, ?_⟩, by decide +kernel⟩ <;> (unfold torn; decide +kernel)

theorem test_fetches : goes? (step rewritten) (fun u => u.core.xcause == 8 && u.core.xval == 6) = true ∧
    goes? (step halved) (fun u => u.core.g[10] == 15 && u.core.pc == 6 && u.core.half.isNone) = true := by decide +kernel

theorem test_step : goes? (step (fetching 0x001E0507)) (fun u => u.core.g[10] == 15 && u.core.pc == 4) = true ∧
    goes? (step (fetching 0x20000079)) (fun u => u.core.xcause == 1 && u.core.xval == 0x20000079) = true ∧
    goes? (step (fetchingAt 0x1FFFF)) (fun u => u.core.xcause == 4 && u.core.xval == 0x1FFFF) = true := by decide +kernel

/-- A suit of the cores 0 and 1, the leader about to add; or the follower with a copy of that word. -/
def suited (lead : Bool) : State :=
  let s := fetching 0x001E0507
  let c (p : Nat) (q : List Queued) : Core :=
    { Core.reset p with
      status := .running, launch := 1, suit := { act := true, size := 1, spos := BitVec.ofNat 4 p, memb := 3 }, follow := q }
  if lead then { s with core := c 0 [], others := [c 1 []] }
  else
    { s with
      core := { c 0 [] with readyAt := 600 }
      others := [c 1 [⟨12, 0, 0x001E0507, 4, 4⟩]] }

theorem witness_SuitsIssueTogether : (suited true).choose = some (.issue 0, 0, 0) ∧ 1 ∈ (suited true).suitMembers 0 ∧
    ((suited true).moment 0 (.issue 0)).getNat 0 4 = 0x001E0507 ∧ (suited false).choose = some (.issue 1, 12, 0) ∧
    ((suited false).moment 12 (.issue 1)).core.follow = [⟨12, 0, 0x001E0507, 4, 4⟩] ∧ ((suited false).moment 12 (.issue 1)).core.suit.spos = 1 ∧
    ((suited false).moment 12 (.issue 1)).core.posted = [] ∧ ((suited false).moment 12 (.issue 1)).core.reflecting = none := by decide +kernel

theorem test_suit_step : goes? (step (suited true)) (fun u => u.core.g[10] == 15 && (u.coreAt 1).follow == [⟨12, 0, 0x001E0507, 4, 4⟩]) = true ∧
    goes? (step (suited false)) (fun u => u.core.pos == 1 && u.core.g[10] == 15 && u.core.follow.isEmpty) = true := by decide +kernel

theorem witness_StepKeepsTheMemoryForm : (fetching 0x001E0507).memWf ∧ goes? (step (fetching 0x001E0507)) (fun _ => true) = true :=
  ⟨by unfold State.memWf; decide +kernel, by decide +kernel⟩

theorem witness_DecodeAndEncodeAgree : (Instr.addi 10 0 15).wf = true ∧ (Instr.addi 10 0 15).isWord = true ∧
    decodeWord 0x001E0507 = some (.addi 10 0 15) ∧ decodeWord 0x6512 = some (.addC 5 6) := by decide +kernel

/-! Words, from the encodings of spec/ -/

theorem test_words_scalar : decodeWord 0x010C5281 = some (.sub 5 5 6) ∧ decodeWord 0x03011885 = some (.bswap 17 17) ∧
    decodeWord 0x07171903 = some (.clmul 18 17 11) ∧ decodeWord 0x001E0507 = some (.addi 10 0 15) ∧
    decodeWord 0x00084339 = some (.ldB 6 4 1) ∧ decodeWord 0x050ED63D = some (.stD 12 13 0xA1) := by decide +kernel

theorem test_words_control : decodeWord 0x000C0A2B = some (.bne 20 0 6) ∧ decodeWord 0xFFFE00B5 = some (.jal 1 (-32)) ∧
    decodeWord 0x7FD70037 = some (.loop 16 (-21)) ∧ decodeWord 0xC00E0037 = some (.brk 7) ∧ decodeWord 0x00A005FD = some (.crd 11 0x050) ∧
    decodeWord 0x12345297 = some (.lih 5 5 0x091A) := by decide +kernel

theorem test_words_memory : decodeWord 0x00064443 = some (.ldm 8 4 3) ∧ decodeWord 0x0232E143 = some (.ldt 2 14 25) ∧
    decodeWord 0x01CC42CD = some (.amoAddRel 5 4 6 7 0) ∧ decodeWord 0x182B404F = some (.waitc 20 21 0) ∧
    decodeWord 0x3001404F = some (.suitBar 20) := by decide +kernel

theorem test_words_vector : decodeWord 0x0A0C51D1 = some (.vadd 3 5 6 10) ∧ decodeWord 0xB1820251 = some (.vmacc 4 0 1 2 1) ∧
    decodeWord 0x34128255 = some (.vcmpLe 4 8 9 4) ∧ decodeWord 0xA0801459 = some (.vcvt 8 1 2 0 10) ∧ decodeWord 0x050041DB = some (.vredsum 3 4 5) ∧
    decodeWord 0x381424DD = some (.vgather 9 2 10 8) ∧ decodeWord 0x040422E1 = some (.mpop 5 2 2) := by decide +kernel

theorem test_words_units : decodeWord 0x0820D269 = some (.tmul 4 20 1 2 4) ∧ decodeWord 0x000A21ED = some (.trow 3 2 5) ∧
    decodeWord 0x0218A5F1 = some (.lput 11 10 12) ∧ decodeWord 0x10015A73 = some (.lprod 20 21) ∧ decodeWord 0x018A4A75 = some (.cp 20 4 5 6) ∧
    decodeWord 0x020A457B = some (.rrevoke 10 4 5) ∧ decodeWord 0x1A928079 = some (.nbcast 0 8 9 10) := by decide +kernel

theorem test_words_compact : decodeWord 0x5310 = some (.vaddC 3 5) ∧ decodeWord 0x4484 = some (.bzC 4 4 0) ∧ decodeWord 0x3004 = some (.idleC 0 3) ∧
    decodeWord 0x6512 = some (.addC 5 6) := by decide +kernel

theorem test_words_refused : decodeWord 0x20000079 = none ∧ decodeWord 0x00069443 = none ∧ decodeWord 0x0002F87D = none := by decide +kernel

/-! Ill-formed instructions, one for each check of WellFormed.lean -/

theorem test_illformed : (Instr.crd 0 0x002).wf = false ∧ (Instr.eretResume 0).wf = false ∧ (Instr.fcvtDL 0 0 5).wf = false ∧
    (Instr.idle 0).wf = false ∧ (Instr.idleC 0 0).wf = false ∧ (Instr.ldm 30 0 2).wf = false ∧ (Instr.ldm 4 5 2).wf = false ∧
    (Instr.ldv 17 0 0 0).wf = false ∧ (Instr.ldv 1 0 0 1).wf = false ∧ (Instr.loop 0 0).wf = false ∧ (Instr.mfirst 0 0 3).wf = false ∧
    (Instr.tcode 16 0).wf = false ∧ (Instr.tld 0 0).wf = false ∧ (Instr.tmul 0 16 1 2 1).wf = false ∧ (Instr.tmul 0 1 1 2 0).wf = false ∧
    (Instr.tmul 0 1 1 2 5).wf = false ∧ (Instr.tmuls 0 1 17 17 1).wf = false ∧ (Instr.tmuls 0 17 17 17 4).wf = false ∧
    (Instr.tmulx 0 1 7 16 0).wf = false ∧ (Instr.vabs 0 0 2).wf = false ∧ (Instr.vadd 0 0 0 11).wf = false ∧ (Instr.vand 0 0 0 8).wf = false ∧
    (Instr.vavg 0 0 0 8).wf = false ∧ (Instr.vbcast 0 0 0).wf = false ∧ (Instr.vclmul 1 0 0 1 2).wf = false ∧ (Instr.vclmul 0 0 0 0 1).wf = false ∧
    (Instr.vcvt 0 0 0 5 8).wf = false ∧ (Instr.vcvt 0 0 1 0 11).wf = false ∧ (Instr.vext 0 0 0 12).wf = false ∧ (Instr.vlut16 0 0 0 11).wf = false ∧
    (Instr.vlut256 0 0 1 2 1).wf = false ∧ (Instr.vlut256 0 0 0 1 1).wf = false ∧ (Instr.vmacc 0 0 0 2 5).wf = false ∧ (Instr.vrcp 0 0 1).wf = false ∧
    (Instr.vsortkv 1 0 0 5).wf = false := by decide +kernel

/-! Memory elsewhere -/

/-- The bytes of the memory of core 1, of the scratchpad and of virtual memory that an address names (R150). -/
theorem witness_reaches : reaches (ruled id) 0x40020008 8 .load (localPlace (clusterCore 0 1) 8) ∧
    reaches (ruled id) 0x44000010 8 .store (spadPlace 0 0x10) ∧
    reaches (ruled id) 0x100000008 8 .atomic ((ruled id).physPlace 0x100000008) := by
  refine ⟨⟨by decide, rfl, rfl, rfl, rfl, rfl, by decide, by decide, localPlace (clusterCore 0 1) 8, by decide +kernel, .inr (by decide +kernel),
    .inl ⟨1, 8, by decide +kernel⟩⟩, ⟨by decide, rfl, rfl, rfl, rfl, rfl, by decide, by decide, spadPlace 0 0x10, by decide +kernel, .inl rfl,
    .inr (.inl ⟨0, 0x10, by decide +kernel⟩)⟩, ⟨by decide, rfl, rfl, rfl, rfl, rfl, by decide, by decide, 2 ^ 36 + 0x100000008, by decide +kernel,
    .inr (by decide +kernel), .inr (.inr ⟨⟨0x100000008, 7, 2 ^ 48, []⟩, by decide, by decide, by decide, rfl, .inr (by decide +kernel), by decide +kernel,
    by decide +kernel, ?_, rfl, rfl⟩)⟩⟩
  intro r h
  cases h
  decide

/-- A store of another region's core marks the line of 0x1000; a granule at 0x1040 is poisoned. -/
def contested : State := { ruled (gs [(4, 0x1000), (5, 0x1040)]) with marks := [⟨64, 2, 3, none, false, 0⟩], poison := [65] }

theorem witness_trapsOf : trapsOf (ruled id) 0x20000 8 .load 4 0x20000 0 ∧ trapsOf nested 0x40000000 8 .store 6 0x40000000 0 ∧
    trapsOf nested 0x44000000 4 .atomic 6 0x44000000 0 ∧ trapsOf (ruled id) 0x60000008 8 .load 6 0x60000008 0 ∧
    (∃ c x q, trapsOf (ruled id) 0x800000000000 8 .load c x q) ∧ (∃ x, trapsOf contested 0x1000 8 .load 7 x 0) ∧
    trapsOf contested 0x1048 8 .load 12 0x1040 0 := by
  refine ⟨⟨by decide, .inl (by decide)⟩, ⟨by decide, .inr (.inl ⟨0, 0, by decide +kernel⟩)⟩,
    ⟨by decide, .inr (.inr (.inl ⟨0, 0, by decide +kernel⟩))⟩, ⟨by decide, .inr (.inr (.inr (.inl ⟨8, by decide +kernel⟩)))⟩,
    ⟨_, _, _, by decide, .inr (.inr (.inr (.inr (.inl ⟨_, rfl, rfl, by decide, by decide, rfl, rfl, rfl, rfl⟩))))⟩,
    ⟨_, by decide, .inr (.inr (.inr (.inr (.inr (.inl ⟨by decide, by decide +kernel, rfl, rfl, rfl, rfl, rfl⟩)))))⟩,
    ⟨by decide, .inr (.inr (.inr (.inr (.inr (.inr ⟨by decide, by decide +kernel, by decide, .inr (.inr (by decide +kernel)),
      ⟨_, rfl, by decide +kernel⟩, rfl, rfl⟩)))))⟩⟩

theorem test_elsewhere : goes? (exec (.ldD 7 4 1) (ruled (gs [(4, 0x100000000)]))) (fun u => u.core.g[7] == 0 && u.core.pc == 0x104) = true ∧
    goes? (exec (.stW 5 4 0) (ruled (gs [(4, 0x40020000), (5, 9)]))) (fun u => u.getNat (localPlace 1 0) 4 == 9) = true ∧
    goes? (exec (.amoAdd 7 4 5 1) { ruled (gs [(4, 0x44000010), (5, 9)]) with mem := [(spadPlace 0 0x10, 5)] })
      (fun u => u.core.g[7] == 5 && u.getNat (spadPlace 0 0x10) 8 == 14) = true ∧
    goes? (exec (.ldW 7 4 2) { ruled (gs [(4, 0x60000000)]) with core := { (ruled (gs [(4, 0x60000000)])).core with counters := Vector.replicate 64 0x80000000 } })
      (fun u => u.core.g[7] == 0xFFFFFFFF80000000) = true := by decide +kernel

theorem test_access_traps : goes? (exec (.ldD 7 4 0) contested) (fun u => u.core.xcause == 7) = true ∧
    goes? (exec (.amoAdd 7 5 4 0) contested) (fun u => u.core.xcause == 12 && u.core.xval == 0x1040) = true ∧
    goes? (exec (.stD 4 5 0) (ruled (gs [(5, 0x20000)]))) (fun u => u.core.xcause == 4 && u.core.xval == 0x20000) = true := by decide +kernel

/-! TAG traps -/

theorem witness_TileTag : (0x14000040 : Word).toNat % 2 ^ 24 % 64 = 0 ∧ (∀ v ∈ Says.rows 0x1000 0x1F000040, v + 64 ≤ 0x20000 ∧ held.core.noArea v 64 = true) ∧
    tagAssigned ((0x1F000040 : Word).toNat / 2 ^ 24 % 32) = false := by decide +kernel

theorem test_tile_tag : goes? (exec (.ldt 2 4 5) (heldWith [(5, 0x1F000040)])) (fun u => u.core.xcause == 2 && u.core.xval == 0x821F) = true ∧
    goes? (exec (.stt 2 4 5) (heldWith [(5, 0x1F000040)])) (fun u => u.core.xcause == 2 && u.core.xval == 0x821F) = true := by decide +kernel

/-- The same registers, of which v6 is EMPTY. -/
def mixed : State := { vecs with core := { vecs.core with vtag := vecs.core.vtag.set 6 0 } }

theorem witness_vectorTagTraps : (2 : BitVec 4) ≠ 0 ∧ (mixed.core.tagV 6).toNat ≠ codeTag 2 ∧ tagNum (mixed.core.tagV 6).toNat = false ∧
    (mixed.core.tagV 4).toNat = codeTag 2 ∧ tagNum (mixed.core.tagV 4).toNat = true ∧ (mixed.core.tagV 6).toNat ≠ (mixed.core.tagV 4).toNat ∧
    (mixed.core.tagV 5).toNat = (mixed.core.tagV 4).toNat ∧ (mixed.core.tagV (BitVec.ofNat 4 ((5 : BitVec 4).toNat + 1))).toNat = 0 := by decide +kernel

theorem test_vector_tags : goes? (exec (.vadd 3 6 4 0) mixed) (fun u => u.core.xcause == 2 && u.core.xval == 0x2600) = true ∧
    goes? (exec (.vadd 3 4 6 2) mixed) (fun u => u.core.xcause == 2 && u.core.xval == 0x4600) = true ∧
    goes? (exec (.vcmpLe 3 6 4 0) mixed) (fun u => u.core.xcause == 2 && u.core.xval == 0x2600) = true ∧
    goes? (exec (.vsortkv 2 5 0 0) mixed) (fun u => u.core.xcause == 2 && u.core.xval == 0x2600) = true := by decide +kernel

/-! Streams against their direction, or past their end -/

theorem witness_badOperands : badSource ((streaming writeStream).core.gstream 24) 3 ∧
    badSource ((streaming { readStream with next := 1, queue := [] }).core.gstream 24) 1 ∧
    badTarget ((streaming readStream).core.gstream 24) 3 ∧ badTarget ((streaming { writeStream with next := 1 }).core.gstream 24) 2 :=
  ⟨⟨_, rfl, .inl (by decide)⟩, ⟨_, rfl, .inr (by decide)⟩, ⟨_, rfl, .inl (by decide)⟩, ⟨_, rfl, .inr (by decide)⟩⟩

theorem test_bad_targets : goes? (exec (.add 24 4 5) (streaming readStream)) (fun u => u.core.xcause == 17 && u.core.xval == 0x318) = true ∧
    goes? (exec (.add 24 4 5) (streaming { writeStream with next := 1 })) (fun u => u.core.xcause == 17 && u.core.xval == 0x218) = true := by
  decide +kernel

/-! Publish groups of a key -/

/-- A group of key 3 that shadows page 5, and one of which a command of batch 8 failed. -/
def grouping (failed : Bool) (s : State) : State :=
  { s with pubs := [⟨.key 0 3, failed, if failed then [⟨4, 0, 0, 0, 0, 8, 0, 0, 0, 0, true⟩] else [], [(1, 5, 2 ^ 32)], [], []⟩] }

theorem witness_keyed (failed : Bool) : ∃ g, Says.keyed (grouping failed held) 3 g ∧ g.failed = failed ∧ (grouping failed held).keyBusy 0 3 = false ∧
    (failed = true → ∃ f, firstFailed g f) := by
  refine ⟨_, ⟨List.mem_singleton_self _, rfl, ?_⟩, rfl, by cases failed <;> decide +kernel, ?_⟩
  · intro h hh _
    exact List.mem_singleton.mp hh
  · intro h
    subst h
    refine ⟨⟨4, 0, 0, 0, 0, 8, 0, 0, 0, 0, true⟩, List.mem_singleton_self _, rfl, ?_⟩
    intro e he _
    exact .inr (List.mem_singleton.mp he)

theorem test_pub_groups : goes? (exec (.pub 6) (grouping false held)) (fun u => u.frame 5 == 2 ^ 32 && u.pubs.isEmpty && u.core.pc == 0x104) = true ∧
    goes? (exec (.pub 6) (grouping true held)) (fun u => u.core.xcause == 11 && u.core.xval == 8 && u.pubs.isEmpty && u.frame 5 == 5) = true ∧
    goes? (exec .pubComplete (grouping false (waits (.pub 3)))) (fun u => u.frame 5 == 2 ^ 32 && u.core.pc == 0x104) = true := by decide +kernel

/-! Reflection with a record -/

/-- Core 5 of a child region whose records go to 0x100000000. -/
def swapping : State := { nested with regions := [root, { child with cmap := [5, 6], swap := 0x100000000 }] }

theorem witness_climbs : climbs nested 15 1 [] root ∧
    climbs { nested with regions := [root, child, { child with id := 3, parent := 2, cmap := [5, 6] }] } 15 2 [child] root ∧
    swapping.spanOk 1 (0x100000000 + 2 ^ 17 * ({ child with cmap := [5, 6] } : Region).indexOf 5 + swapping.core.cwp.toNat) 0x4000 .store = true ∧
    swapping.carryUp 1 9 1 0x10001C000 = some 0x10001C000 ∧ swapping.core.appending = false ∧ swapping.deliveries = [] ∧
    (swapping.groupAt (groupOf 5)).queue = [] ∧ swapping.gathers = [] := by
  refine ⟨⟨rfl, rfl⟩, ⟨rfl, rfl, rfl, rfl⟩, by decide +kernel⟩

/-! Launches -/

/-- The small image at 0x100000000, which the dealer holds as verified. -/
def imaged : State :=
  { nested with
    mem := ((List.range 172).map (fun i => (nested.physPlace 0x100000000 + i, (smallImage 0 1).getD i 0))).filter (fun e => e.2 != 0)
    verified := [(0x10000, 0, 0, 1)] }

/-- A block with WORST 1, that image and a default workspace. -/
def block : List Byte := List.replicate 16 0 ++ [0, 0, 0, 0, 1, 0, 0, 0] ++ List.replicate 32 0 ++ [1] ++ List.replicate 455 0

theorem witness_submit : (match imaged.submit 1 { child with cmap := [5, 6] } block 0 with
      | .ok (k, u) => k == 1 && (u.region? 2).any (fun r => (r.launch? 1).any (fun l => l.wsbase == 0x1C000))
      | .error _ => false) = true ∧
    imaged.region? child.id = some { child with cmap := [5, 6] } ∧ child.launches = [] := by decide +kernel

theorem witness_late : ({ launchOf [] with state := .waiting, deadline := some 63 } : Launch).deadline.any (fun td => decide (td < 0 + 0 + 0 + 64)) = true ∧
    (haltingOf [0]).takesPart 1 9 0 = true ∧ ({ root with seq := 9 } : Region).refused = none := by decide +kernel

/-! Hosts, pages, marks -/

/-- Block 0 of page 0x10000 has left with a guard tag of zero, and no window lets counters be added to. -/
def torn : State := { hosted with corrupt := [((2 ^ 36 + 0x100000000) / 256, 0)] }
def unwritable : State := { hosted with device := { hosted.device with windows := [(1, ⟨0, 0x10000, 10, 1, 0, true, 3⟩)] } }

theorem witness_refusedWrites : (match State.remotePages (Config.freeNat 0 % 64) 1 .store 2 0x100000008 2 { torn with free := 1 } with
      | .ok ([e], t) => (t.tornWrite [1, 2] [e]).isSome
      | _ => false) = true ∧ (unwritable.windowOf 10).any (fun w => !w.perm.getLsbD 2) = true ∧
    (onePiece .store 8 && match State.remotePages (Config.freeNat 0 % 64) 1 .store 2 0x100000008 8 { hosted with free := 1 } with
      | .ok ([e], t) => (t.tornWrite [1, 2, 3, 4, 5, 6, 7, 8] [e]).isNone
      | _ => false) = true := by decide +kernel

theorem test_refused_writes : goes? (exec (.remoteWrite (packet 9) 8 [1, 2]) torn) (fun u => u.outbox == [.nack .integrity] && u.corrupt.isEmpty) = true ∧
    goes? (exec (.remoteCounterAdd (packet 10) 260 5) unwritable) (fun u => u.outbox == [.nack .perm] && u.msgs.isEmpty) = true := by decide +kernel

/-- A CP.M has moved page 5 into a spare frame. -/
def moving : State := { powered with nextFrame := 2 ^ 32 + 2, cmds := [{ copy with moves := [(5, 2 ^ 32 + 1)] }] }

theorem witness_moving : moving.isMoving (2 ^ 32 + 1) = true ∧ moving.isShadow (2 ^ 32 + 1) = false ∧ 2 ^ 32 + 1 ∉ moving.device.freeHbm ∧
    2 ^ 32 + 1 < moving.nextFrame ∧ (∀ c ∈ powered.cmds, ∀ m ∈ c.moves, m.2 ≠ 5 / 1024) := by decide +kernel

/-- GBAR's release awaits a store that the core has under way (R328, R332). -/
theorem test_gbar_waits : goes? (exec .gbar { held with later := [⟨24, 0, 0x1000, [1], []⟩], marks := [⟨64, 0, 0, none, false, 0⟩] })
      (fun u => u.marks == [⟨64, 0, 0, none, false, 0⟩] && u.later.map (fun e => e.releases.length) == [1]) = true ∧
    goes? (exec .gbar { held with marks := [⟨64, 0, 0, none, false, 0⟩] }) (fun u => u.marks.isEmpty) = true ∧
    goes? (exec (.tbegin 6) heldTimed) (fun u => u.core.xcause == 1) = true := by decide +kernel

theorem witness_armed : ops.savedAt (ops.owner 0) ops.core.launch (localPlace 0 0x1000) = none ∧
    (ops.later = [] ∧ (storing.later.any (fun e => e.core == 0)) = true) := by decide +kernel

/-! Reset -/

theorem test_reset : State.reset.device.phase = .powerOn ∧ State.reset.core.crb = 16 ∧ State.reset.regions = [] ∧ State.reset.getByte 0x123 = 0 := by
  decide +kernel

end Sys2Proof.Tests
end

namespace Sys2Proof.Proofs

open Sys2Proof Sys2Proof.Machine Sys2Proof.Says Sys2Proof.Laws

/-! ## Reset -/

/-- Before power-on every core is as at reset (R21). -/
theorem coreAt_reset (p : Nat) : State.reset.coreAt p = Core.reset p := by
  unfold State.coreAt
  split
  · rename_i h
    rw [← h]; rfl
  · rfl

/-- Settles O58: each value is the one that `State.reset` and `Core.reset` write down. -/
theorem resetState : Obligations.ResetState := by
  unfold Obligations.ResetState
  refine ⟨reset_memWf, rfl, rfl, rfl, rfl, rfl, rfl, rfl, rfl, rfl, rfl, rfl, rfl, rfl, rfl, rfl, rfl, rfl, rfl, ?_, ?_, ?_⟩
  · intro i
    exact Vector.getElem_replicate i.isLt
  · intro p
    simp [State.reset, State.getByte, Memory.get]
  · intro p i
    rw [coreAt_reset]
    exact Vector.getElem_replicate i.isLt

/-! ## Suit barriers -/

/-- A source operand leaves the current core's place as it is. -/
theorem gIn_pos {s t : State} {i : BitVec 5} {x : Word} (h : gIn s i = some (x, t)) : t.core.pos = s.core.pos := by
  unfold gIn gPop at h
  split at h
  · cases h; rfl
  · split at h
    · split at h
      · cases h
      · split at h
        · cases h
        · cases h; simp
    · split at h <;> cases h <;> rfl

/-- A core in no suit has none to dissolve (R27). -/
theorem dissolve_of_no_suit {s : State} (h : s.core.suit.act = false) : s.dissolve s.core.pos = s := by
  simp [State.dissolve, h]

/-- The group positions that a mask names, in ascending order. -/
def namedBits (m : BitVec 16) : List Nat := (List.range 16).filter (fun i => m.getLsbD i)

theorem mem_namedBits {m : BitVec 16} {i : Nat} : i ∈ namedBits m ↔ i < 16 ∧ m.getLsbD i = true := by
  simp [namedBits]

theorem namedBits_twoPow {k : Nat} (hk : k < 16) : namedBits (BitVec.ofNat 16 (2 ^ k)) = [k] := by
  have h : ∀ j : Fin 16, namedBits (BitVec.ofNat 16 (2 ^ j.val)) = [j.val] := by decide
  exact h ⟨k, hk⟩

/-- A mask that names one position is that position's bit. -/
theorem namedBits_length_eq_one {m : BitVec 16} {k : Nat} (hk : k < 16) (hm : m.getLsbD k = true) :
    (namedBits m).length = 1 ↔ m = BitVec.ofNat 16 (2 ^ k) := by
  constructor
  · intro h
    obtain ⟨j, hj⟩ := List.length_eq_one_iff.mp h
    have mem_iff : ∀ i, i < 16 ∧ m.getLsbD i = true ↔ i = j := fun i => by
      rw [← mem_namedBits, hj, List.mem_singleton]
    have hkj : k = j := (mem_iff k).mp ⟨hk, hm⟩
    apply BitVec.eq_of_getLsbD_eq
    intro i hi
    rw [BitVec.getLsbD_ofNat, Nat.testBit_two_pow, Bool.eq_iff_iff]
    have := mem_iff i
    simp only [hi, true_and, decide_true, Bool.true_and, decide_eq_true_eq] at this ⊢
    rw [this, hkj, eq_comm]
  · rintro rfl
    rw [namedBits_twoPow hk]; rfl

theorem groupPos_lt (p : Nat) : groupPos p < 16 := by
  unfold groupPos; omega

/-- The suit of one that a mask of the core's own bit forms (R180). -/
theorem joinSuit_alone {c : Core} {m : BitVec 16} (hm : m = BitVec.ofNat 16 (2 ^ groupPos c.pos)) :
    c.joinSuit m = { c with suit := ⟨true, 0, 0, m⟩ } := by
  have h : (List.range 16).filter (fun i => m.getLsbD i) = [groupPos c.pos] := hm ▸ namedBits_twoPow (groupPos_lt c.pos)
  simp only [Core.joinSuit, h, List.idxOf_cons_self, List.length_singleton]
  rfl

/-- No waiting core's mask clashes with one that equals it or shares no bit with it (R180). -/
theorem suitClashes_eq_nil {s : State} {m : BitVec 16}
    (h : ∀ i, i < 16 → ∀ m', (s.coreAt (groupCore (groupOf s.core.pos) i)).status = .waiting (.suitBar m') → m' = m ∨ m' &&& m = 0) :
    s.suitClashes m = [] := by
  unfold State.suitClashes
  rw [List.filter_eq_nil_iff]
  intro p hp
  obtain ⟨i, hi, rfl⟩ := List.mem_map.mp hp
  have := h i (List.mem_range.mp hi)
  split
  · rename_i m' hw
    rcases this m' hw with e | e <;> simp [e]
  · simp

theorem modify_bind (f : State → State) (g : PUnit → M β) (s : State) : ((modify f : M PUnit) >>= g) s = g ⟨⟩ (f s) := rfl

theorem set_bind (t : State) (g : PUnit → M β) (s : State) : ((set t : M PUnit) >>= g) s = g ⟨⟩ t := rfl

theorem check_bind {b : Bool} (h : b = true) (c : Nat) (x : Word) (g : Unit → M β) (s : State) :
    (check b c x >>= g) s = g () s := by
  subst h; rfl

/-- A suit barrier of a core in no suit whose mask passes every check of R180. -/
theorem exec_suitBar {s t : State} {a : BitVec 5} {x : Word} {m : BitVec 16} (hs : s.core.suit.act = false)
    (hx : gIn s a = some (x, t)) (hm : m = BitVec.ofNat 16 x.toNat) (hme : m.getLsbD (groupPos s.core.pos) = true)
    (hall : ∀ i, i < 16 → m.getLsbD i = true → t.owner (groupCore (groupOf s.core.pos) i) = t.owner s.core.pos ∧
      (t.coreAt (groupCore (groupOf s.core.pos) i)).launch = t.core.launch)
    (hno : ∀ i, i < 16 → ∀ m', (t.coreAt (groupCore (groupOf s.core.pos) i)).status = .waiting (.suitBar m') →
      m' = m ∨ m' &&& m = 0) :
    exec (.suitBar a) s = .next (if m = BitVec.ofNat 16 (2 ^ groupPos s.core.pos) then
      State.advance { t with core := t.core.joinSuit m } 4 else t.standAt s (.suitBar m)) := by
  have hpos := gIn_pos hx
  subst hm
  rw [← hpos] at hme hall hno ⊢
  have hnamed : ((namedBits (BitVec.ofNat 16 x.toNat)).map (groupCore (groupOf t.core.pos))).all
      (fun p => t.owner p == t.owner t.core.pos && (t.coreAt p).launch == t.core.launch) = true := by
    rw [List.all_map, List.all_eq_true]
    intro i hi
    obtain ⟨h16, hbit⟩ := mem_namedBits.mp hi
    obtain ⟨ho, hl⟩ := hall i h16 hbit
    simp [ho, hl]
  unfold namedBits at hnamed
  have hclash := suitClashes_eq_nil hno
  apply issueOwn_ok
  rw [get_bind, modify_bind, dissolve_of_no_suit hs, bind_ok (readG_of hx), get_bind]
  dsimp only
  rw [check_bind hme, check_bind hnamed, check_bind (by rw [hclash]; rfl), set_bind, hclash]
  simp only [List.length_map, ← namedBits_length_eq_one (groupPos_lt _) hme, namedBits]
  split <;> rfl

/-- A suit barrier whose mask lacks the core itself (R180). -/
theorem exec_suitBar_foreign {s t : State} {a : BitVec 5} {x : Word} (hs : s.core.suit.act = false)
    (hx : gIn s a = some (x, t)) (hme : (BitVec.ofNat 16 x.toNat).getLsbD (groupPos s.core.pos) = false) :
    exec (.suitBar a) s = .next (s.takeTrap false 1 (BitVec.ofNat 64 (Instr.encode (.suitBar a))) 0) := by
  rw [← gIn_pos hx] at hme
  apply issueOwn_trap (t := t)
  rw [get_bind, modify_bind, dissolve_of_no_suit hs, bind_ok (readG_of hx), get_bind]
  dsimp only
  rw [hme, bind_def, check_false]

/-- Settles O22: the three outcomes of SUIT.BAR for a core outside a suit, and what SUIT.DIS leaves. -/
theorem suits : Obligations.Suits := by
  unfold Obligations.Suits
  refine ⟨?_, ?_, fun s => rfl⟩
  · intro a s t x m hs hx hm hme hall hno
    rw [exec_suitBar hs (gsIn1 hx) hm hme hall hno]
    split
    · rename_i h1
      rw [joinSuit_alone (gIn_pos (gsIn1 hx) ▸ h1)]; rfl
    · rfl
  · intro a s t x hs hx hme
    exact exec_suitBar_foreign hs (gsIn1 hx) hme

/-! ## TEND -/

/-- TEND forgets what a write has made the core fetch again (R91), in free code too. -/
theorem tend_refetch {s t : State} (h : exec .tend s = .next t) : t.core.refetch = none := by
  cases h; rfl

/-- A core at reset that a write has made fetch again from address 0 on. -/
def refetching : State := { State.reset with core := { Core.reset 0 with refetch := some 0 } }

/-- Refutes O38: its clause on TEND leaves every field of the core but PC, time, `cseg`, `timed` and `dbg` as it was, and
the model's TEND also clears `refetch`; on the core `refetching` the two differ. -/
theorem not_segmentsAndHalt : ¬ Obligations.SegmentsAndHalt := by
  unfold Obligations.SegmentsAndHalt
  rintro ⟨-, -, -, -, tend, -⟩
  have cleared := tend_refetch (tend refetching)
  have kept : (some 0 : Option Nat) = none := cleared
  cases kept

/-! ## HALT -/

/-- A running launch of the cores 0 and 1. -/
def pairLaunch : Launch := { loadedLaunch 0 with cores := [0, 1] }

/-- A region on which that launch is placed. -/
def pairRegion : Region := { loadedRegion 0 with launches := [pairLaunch] }

/-- A read stream to which a result is still to land. -/
def landingRead : Stream :=
  { desc := 0, mode := 0, base := 0, n0 := 1, n1 := 1, n2 := 1, size := 8, s0 := 0, s1 := 0, s2 := 0, next := 0, queue := []
    landing := [(0, 5)], failed := none, due := 0, after := 0 }

/-- Core 0 of that launch halts with that stream bound to g24; core 1 runs. -/
def haltingRead : State :=
  { State.reset with
    core := { Core.reset 0 with status := .halting, launch := 1, gs := (Vector.replicate 8 none).set 0 (some landingRead) }
    others := [{ Core.reset 1 with status := .running, launch := 1 }]
    regions := [pairRegion] }

theorem haltingRead_can_halt : haltingRead.core.failedAppend = none ∧ haltingRead.haltDone 0 = true ∧
    haltingRead.region? (haltingRead.owner 0) = some pairRegion ∧ pairRegion.launch? 1 = some pairLaunch ∧
    haltingRead.takesPart pairRegion.id pairLaunch.seq 1 = true ∧ (haltingRead.coreAt 1).status ≠ .halted := by
  decide +kernel

/-- Its halt drains the landing, which makes g24 hold the result (R78, R384). -/
theorem haltingRead_g24 : (match exec .coreHalt haltingRead with
    | .next u => u.core.g[24] == 5
    | _ => false) = true ∧ haltingRead.core.g[24] = 0 := by
  decide +kernel

/-- Refutes O41: its third clause lets HALT leave every g register as it was, but HALT drains the landings of read streams
too, and `haltDone` keeps only a write stream with landings from halting; on `haltingRead`, which meets the
clause's hypotheses, g24 changes from 0 to 5. -/
theorem not_coreEvents : ¬ Obligations.CoreEvents := by
  unfold Obligations.CoreEvents
  rintro ⟨-, -, halts, -⟩
  obtain ⟨happend, hdone, hregion, hlaunch, hpart, hruns⟩ := haltingRead_can_halt
  obtain ⟨u, hu, -, -, hg, -⟩ := halts haltingRead pairRegion pairLaunch 1 rfl happend hdone hregion hlaunch
    (by decide) (by decide) hpart hruns
  obtain ⟨after, before⟩ := haltingRead_g24
  rw [hu, beq_iff_eq, hg, before] at after
  exact absurd after (by decide)

/-! ## The copies of a suit -/

theorem cycleEnd_follow (u v : State) : (cycleEnd u v).core.follow = v.core.follow := by
  unfold cycleEnd
  split
  · rfl
  · split <;> rfl

/-- A releasing atomic, AMO.ADD.REL, as the leader passed it on. -/
def releaseCopy : Queued := ⟨0, 0, 0x01CC42CD, 4, 4⟩

/-- A follower whose leader has left the suit is about to issue that copy, while a store of its own is still to become visible. -/
def lastFollower : State :=
  State.loaded { State.reset with
    core := { Core.reset 0 with suit := ⟨true, 1, 1, 3⟩, follow := [releaseCopy] }
    later := [⟨24, 0, 0x1000, [1], []⟩] }

/-- The state in which it issues. -/
def lastIssue : State := { lastFollower with free := lastFollower.free + 0 }.moment 0 (.issue 0)

/-- That state with the copy taken from the queue. -/
def lastCopyTaken : State :=
  { lastIssue with core := { lastIssue.core with pc := releaseCopy.pc, lead := some releaseCopy.next, follow := [] } }

theorem lastFollower_issues : issues lastFollower lastIssue 0 0 0 :=
  ⟨by decide +kernel, fun h => absurd h (by decide), rfl, by decide +kernel, by decide +kernel, by decide +kernel⟩

theorem lastIssue_suit : lastIssue.core.suit.act = true ∧ lastIssue.core.suit.spos ≠ 0 ∧ lastIssue.core.follow = [releaseCopy] ∧
    lastIssue.core.pos = 0 ∧ lastIssue.suitMembers 0 = [0] := by
  decide +kernel

theorem decode_releaseCopy : decodeWord releaseCopy.word.toNat = some (.amoAddRel 5 4 6 7 0) := by
  decide +kernel

/-- The atomic stalls for the store that is under way: it goes on in the suit, with nothing left in the queue. -/
theorem lastCopyTaken_stalls : (match exec (.amoAddRel 5 4 6 7 0) lastCopyTaken with
    | .next v => v.core.suit.act && v.core.follow.isEmpty
    | _ => false) = true := by
  decide +kernel

/-- The step puts the copy back, for the next attempt. -/
theorem lastFollower_keeps_copy : (match step lastFollower with
    | .next z => z.core.follow == [releaseCopy]
    | _ => false) = true := by
  decide +kernel

/-- Refutes O56: its clause on followers takes a copy for issued when no other member of the suit is held up, but a stalled
follower that is alone in its suit holds up nobody, and keeps the copy (R26): `lastFollower` is one. -/
theorem not_suitsIssueTogether : ¬ Obligations.SuitsIssueTogether := by
  unfold Obligations.SuitsIssueTogether
  rintro ⟨-, follower⟩
  obtain ⟨hact, hpos, hfollow, hme, halone⟩ := lastIssue_suit
  have stalls := lastCopyTaken_stalls
  split at stalls
  case h_2 => cases stalls
  case h_1 v hv =>
    rw [Bool.and_eq_true, List.isEmpty_iff] at stalls
    obtain ⟨hin, hleft⟩ := stalls
    have alone : ∀ m ∈ lastIssue.suitMembers lastIssue.core.pos,
        (v.coreAt m).readyAt = (lastIssue.coreAt m).readyAt ∨ m = lastIssue.core.pos := by
      intro m hm
      rw [hme, halone, List.mem_singleton] at hm
      exact .inr (hm.trans hme.symm)
    have hstep := follower lastFollower lastIssue v 0 0 0 _ releaseCopy [] lastFollower_issues hact hpos hfollow
      decode_releaseCopy hv hin alone hleft
    have kept := lastFollower_keeps_copy
    rw [hstep] at kept
    simp only [cycleEnd_follow, hleft] at kept
    exact absurd kept (by decide)

/-! ## Folds -/

/-- What every step of a fold leaves, the fold leaves. -/
theorem foldl_leaves {α β γ : Type} (P : β → γ) {f : β → α → β} (h : ∀ b a, P (f b a) = P b) (l : List α) (b : β) :
    P (l.foldl f b) = P b := by
  induction l generalizing b with
  | nil => rfl
  | cons a l ih => rw [List.foldl_cons, ih, h]

/-! ## What a write of memory leaves -/

/-- The cores, the regions, the messages, the time and the count of ready launches: what no write of memory touches. -/
def besideMemory (s : State) : Core × List Core × List Region × List Msg × Nat × Nat :=
  (s.core, s.others, s.regions, s.msgs, s.now, s.readied)

theorem besideMemory_eq {s t : State} (hc : t.core = s.core) (ho : t.others = s.others) (hr : t.regions = s.regions)
    (hm : t.msgs = s.msgs) (hn : t.now = s.now) (hk : t.readied = s.readied) : besideMemory t = besideMemory s := by
  simp only [besideMemory, hc, ho, hr, hm, hn, hk]

theorem besideMemory_inj {s t : State} (h : besideMemory t = besideMemory s) :
    t.core = s.core ∧ t.others = s.others ∧ t.regions = s.regions ∧ t.msgs = s.msgs ∧ t.now = s.now ∧ t.readied = s.readied := by
  simpa [besideMemory] using h

theorem regions_of_besideMemory {s t : State} (h : besideMemory t = besideMemory s) : t.regions = s.regions := by
  obtain ⟨-, -, hregions, -⟩ := besideMemory_inj h
  exact hregions

theorem readied_of_besideMemory {s t : State} (h : besideMemory t = besideMemory s) : t.readied = s.readied := by
  obtain ⟨-, -, -, -, -, hreadied⟩ := besideMemory_inj h
  exact hreadied

theorem coreAt_of_besideMemory {s t : State} (h : besideMemory t = besideMemory s) (p : Nat) : t.coreAt p = s.coreAt p := by
  obtain ⟨hc, ho, -⟩ := besideMemory_inj h
  simp only [State.coreAt, hc, ho]

@[simp] theorem besideMemory_setByte (s : State) (p : Nat) (b : Byte) : besideMemory (s.setByte p b) = besideMemory s := by
  have h : besideMemory (s.cleanLine (p / 64)) = besideMemory s := by
    unfold State.cleanLine
    split
    · exact besideMemory_eq rfl rfl rfl rfl rfl rfl
    · rfl
  exact (besideMemory_eq rfl rfl rfl rfl rfl rfl).trans h

@[simp] theorem besideMemory_setBytes (s : State) (p : Nat) (bs : List Byte) : besideMemory (s.setBytes p bs) = besideMemory s := by
  induction bs generalizing s p with
  | nil => rfl
  | cons b bs ih => rw [State.setBytes, ih, besideMemory_setByte]

@[simp] theorem besideMemory_healed (s : State) (p n : Nat) : besideMemory (s.healed p n) = besideMemory s :=
  besideMemory_eq rfl rfl rfl rfl rfl rfl

@[simp] theorem besideMemory_poisonGranule (s : State) (p : Nat) : besideMemory (s.poisonGranule p) = besideMemory s := by
  unfold State.poisonGranule
  split
  · rfl
  · exact besideMemory_eq rfl rfl rfl rfl rfl rfl

@[simp] theorem besideMemory_record (s : State) (x : Telemetry) : besideMemory (s.record x) = besideMemory s :=
  besideMemory_eq rfl rfl rfl rfl rfl rfl

@[simp] theorem besideMemory_release (s : State) (p n : Nat) : besideMemory (s.release p n) = besideMemory s :=
  besideMemory_eq rfl rfl rfl rfl rfl rfl

@[simp] theorem besideMemory_remapPage (s : State) (p f : Nat) : besideMemory (s.remapPage p f) = besideMemory s :=
  besideMemory_eq rfl rfl rfl rfl rfl rfl

@[simp] theorem besideMemory_layInto (s : State) (page dst : Nat) (r : Except Nat (List Byte)) :
    besideMemory (s.layInto page dst r) = besideMemory s := by
  cases r with
  | ok bs => simp [State.layInto]
  | error c =>
    have h := foldl_leaves besideMemory (f := fun u i => u.poisonGranule (framePlace dst (64 * i)))
      (fun u i => besideMemory_poisonGranule u _) (List.range 1024) s
    simp only [State.layInto, besideMemory_record, h]

theorem besideMemory_promotePage {s t : State} {page : Nat} (h : s.promotePage page = some t) :
    besideMemory t = besideMemory s := by
  unfold State.promotePage State.promoteAs at h
  split at h
  · cases h
  · rename_i f fs _
    cases h
    have h := besideMemory_layInto { s with device := { s.device with freeHbm := fs } } page f (s.expanded (s.frame page))
    rw [besideMemory_remapPage, besideMemory_release]
    refine Eq.trans ?_ (h.trans ?_)
    · exact besideMemory_eq rfl rfl rfl rfl rfl rfl
    · exact besideMemory_eq rfl rfl rfl rfl rfl rfl

@[simp] theorem besideMemory_opened (s : State) (page : Nat) : besideMemory (s.opened page) = besideMemory s := by
  unfold State.opened
  split
  · dsimp only
    generalize ht : (if s.device.freeHbm.isEmpty then
        { s with nextFrame := s.nextFrame + 1, device := { s.device with freeHbm := [s.nextFrame] } } else s) = t
    have hst : besideMemory t = besideMemory s := by
      rw [← ht]
      split
      · exact besideMemory_eq rfl rfl rfl rfl rfl rfl
      · rfl
    cases hp : t.promotePage page with
    | none => exact hst
    | some u => exact (besideMemory_promotePage hp).trans hst
  · rfl

@[simp] theorem besideMemory_writePhys (s : State) (pa : Nat) (b : Byte) : besideMemory (s.writePhys pa b) = besideMemory s := by
  unfold State.writePhys
  split <;> simp

@[simp] theorem besideMemory_writePage (s : State) (pa : Nat) (bs : List Byte) :
    besideMemory (s.writePage pa bs) = besideMemory s := by
  unfold State.writePage
  split <;> simp

@[simp] theorem besideMemory_poke (s : State) (q : RegionId) (v : Nat) (bs : List Byte) :
    besideMemory (s.poke q v bs) = besideMemory s := by
  induction bs generalizing s v with
  | nil => rfl
  | cons b bs ih =>
    unfold State.poke
    rw [ih]
    split <;> simp

@[simp] theorem besideMemory_writeBlock (s : State) (q : RegionId) : besideMemory (s.writeBlock q) = besideMemory s := by
  unfold State.writeBlock
  split
  · rfl
  · split <;> simp

/-! ## Regions and their launches -/

theorem region?_id {s : State} {q : RegionId} {r : Region} (h : s.region? q = some r) : r.id = q := by
  simpa using List.find?_some h

theorem region?_congr {s t : State} (h : t.regions = s.regions) (q : RegionId) : t.region? q = s.region? q := by
  simp only [State.region?, h]

theorem launch?_seq {r : Region} {n : Nat} {l : Launch} (h : r.launch? n = some l) : l.seq = n := by
  simpa using List.find?_some h

/-- A change of a launch that keeps its number is what is found under the number. -/
theorem launch?_launchSet {r : Region} {n : Nat} {f : Launch → Launch} (hf : ∀ l, (f l).seq = l.seq) (k : Nat) :
    (launchSet r n f).launch? k = (r.launch? k).map (fun l => if l.seq = n then f l else l) := by
  unfold launchSet Region.launch?
  rw [List.find?_map]
  congr 2
  funext l
  simp only [Function.comp]
  split <;> simp [hf]

theorem launchSet_launchSet {r : Region} {n : Nat} {f g : Launch → Launch} (hf : ∀ l, (f l).seq = l.seq) :
    launchSet (launchSet r n f) n g = launchSet r n (fun l => g (f l)) := by
  unfold launchSet
  simp only [List.map_map]
  congr 2
  funext l
  simp only [Function.comp]
  split <;> simp [*]

theorem region?_modLaunch_same {s : State} {q : RegionId} {r : Region} (h : s.region? q = some r) (n : Nat)
    (f : Launch → Launch) : (s.modLaunch q n f).region? q = some (launchSet r n f) := by
  have hr := region?_modRegion s q q (fun r => launchSet r n f) (fun _ => rfl)
  rw [if_pos rfl, h] at hr
  exact hr

theorem coreAt_modLaunch (s : State) (q : RegionId) (n : Nat) (f : Launch → Launch) (p : Nat) :
    (s.modLaunch q n f).coreAt p = s.coreAt p := rfl

theorem region?_modCore (s : State) (p : Nat) (f : Core → Core) (q : RegionId) : (s.modCore p f).region? q = s.region? q :=
  region?_congr (modCore_regions s p f) q

/-! ## What the operations on cores leave of regions and messages -/

/-- The regions and the messages, which the stop of a core leaves. -/
def book (s : State) : List Region × List Msg := (s.regions, s.msgs)

theorem book_eq {s t : State} (hr : t.regions = s.regions) (hm : t.msgs = s.msgs) : book t = book s := by
  simp only [book, hr, hm]

theorem book_inj {s t : State} (h : book t = book s) : t.regions = s.regions ∧ t.msgs = s.msgs := by
  simpa [book] using h

theorem book_of_besideMemory {s t : State} (h : besideMemory t = besideMemory s) : book t = book s := by
  obtain ⟨-, -, hr, hm, -⟩ := besideMemory_inj h
  exact book_eq hr hm

@[simp] theorem book_modCore (s : State) (p : Nat) (f : Core → Core) : book (s.modCore p f) = book s := by
  unfold State.modCore
  split <;> exact book_eq rfl rfl

@[simp] theorem book_modGroup (s : State) (i : Nat) (f : Group → Group) : book (s.modGroup i f) = book s := book_eq rfl rfl

@[simp] theorem book_turn (s : State) (p : Nat) : book (s.turn p) = book s := by
  unfold State.turn
  split
  · rfl
  · exact book_eq rfl rfl

@[simp] theorem book_setBytes (s : State) (p : Nat) (bs : List Byte) : book (s.setBytes p bs) = book s :=
  book_of_besideMemory (besideMemory_setBytes s p bs)

@[simp] theorem book_healed (s : State) (p n : Nat) : book (s.healed p n) = book s := book_eq rfl rfl

@[simp] theorem book_fill (s : State) (g : Gather) : book (s.fill g) = book s := by
  unfold State.fill
  split <;> exact book_modCore _ _ _

@[simp] theorem book_finishGathers (s : State) (p : Nat) : book (s.finishGathers p) = book s := by
  unfold State.finishGathers
  exact (foldl_leaves book book_fill _ _).trans (book_eq rfl rfl)

@[simp] theorem book_syncRelease (s : State) (p : Nat) (q : Scope) : book (s.syncRelease p q) = book s := by
  unfold State.syncRelease State.releaseMarks
  split
  · exact (book_eq rfl rfl).trans (book_modCore s p _)
  · exact (book_eq rfl rfl).trans (book_modCore s p _)

@[simp] theorem book_deliver (s : State) (e : Delivery) : book (s.deliver e) = book s := by
  unfold State.deliver
  rw [book_modCore, book_modCore]

@[simp] theorem book_deliverGroup (s : State) (g : Nat) : book (s.deliverGroup g) = book s := by
  unfold State.deliverGroup
  refine (foldl_leaves book ?_ _ _).trans (book_eq rfl rfl)
  intro t e
  split
  · exact book_deliver t e
  · exact book_eq rfl rfl

@[simp] theorem book_unbindRings (s : State) (g : Nat) (c : CubeCmd) : book (s.unbindRings g c) = book s :=
  foldl_leaves book (fun _ _ => book_modCore _ _ _) _ _

@[simp] theorem book_storeRow (s : State) (c : CubeCmd) (r : Nat) (bs : List Byte) : book (s.storeRow c r bs) = book s := by
  unfold State.storeRow
  refine foldl_leaves book ?_ _ _
  intro t i
  dsimp only
  split
  · rw [book_healed, book_setBytes]
  · rw [book_setBytes]

@[simp] theorem book_storeRows (c : CubeCmd) (n r : Nat) (bs : List Byte) (s : State) : book (s.storeRows c n r bs) = book s := by
  induction n generalizing r bs s with
  | zero => rfl
  | succ n ih =>
    unfold State.storeRows
    split
    · rw [ih, book_storeRow]
    · exact book_modCore _ _ _

@[simp] theorem book_finishCmd (s : State) (c : CubeCmd) : book (s.finishCmd c) = book s := by
  unfold State.finishCmd
  dsimp only
  split
  · rw [book_unbindRings, book_deliverGroup]
  · split
    · exact book_storeRows _ _ _ _ _
    · split
      · rfl
      · exact book_modCore _ _ _

@[simp] theorem book_pullCmds (s : State) (p : Nat) : book (s.pullCmds p).1 = book s := by
  unfold State.pullCmds
  dsimp only
  refine (book_eq rfl rfl).trans ((foldl_leaves book (fun _ _ => book_modCore _ _ _) _ _).trans ?_)
  rw [book_modGroup, foldl_leaves book book_finishCmd, book_deliverGroup]

@[simp] theorem book_writeBack (s : State) (p : Nat) (x y : Word) : book (s.writeBack p x y) = book s := by
  unfold State.writeBack
  dsimp only
  rw [book_setBytes, book_modCore, book_pullCmds]

@[simp] theorem book_stopCore (s : State) (at_ p : Nat) : book (s.stopCore at_ p) = book s := by
  unfold State.stopCore
  split
  · rw [book_modCore, book_writeBack, book_syncRelease, book_modCore, book_finishGathers]
  · rfl

/-! ## Parts of meanings that leave something of the state -/

/-- The state in which a part of a meaning ends, whatever it answers. -/
def endState {ε α : Type} : EStateM.Result ε State α → State
  | .ok _ t => t
  | .error _ t => t

/-- Whatever it answers, it leaves what P reads of the state. -/
def Leaves {ε α β : Type} (P : State → β) (x : EStateM ε State α) : Prop := ∀ s, P (endState (x s)) = P s

section
variable {ε α β γ : Type} {P : State → β}

theorem leaves_pure (a : α) : Leaves P (pure a : EStateM ε State α) := fun _ => rfl

theorem leaves_throw (e : ε) : Leaves P (throw e : EStateM ε State α) := fun _ => rfl

theorem leaves_modify {f : State → State} (h : ∀ s, P (f s) = P s) : Leaves P (modify f : EStateM ε State PUnit) := h

theorem leaves_bind {x : EStateM ε State α} {f : α → EStateM ε State γ} (hx : Leaves P x) (hf : ∀ a, Leaves P (f a)) :
    Leaves P (x >>= f) := by
  intro s
  have h := hx s
  show P (endState (EStateM.bind x f s)) = P s
  unfold EStateM.bind
  cases hr : x s with
  | ok a t => rw [hr] at h; exact (hf a t).trans h
  | error e t => rw [hr] at h; exact h

theorem leaves_throw_bind (e : ε) (f : α → EStateM ε State γ) : Leaves P ((throw e : EStateM ε State α) >>= f) := fun _ => rfl

/-- After the state has been read, the rest may name it. -/
theorem leaves_get_bind {f : State → EStateM ε State γ} (h : ∀ s, P (endState (f s s)) = P s) :
    Leaves P ((get : EStateM ε State State) >>= f) := h

theorem leaves_get : Leaves P (get : EStateM ε State State) := fun _ => rfl

theorem leaves_ite {p : Prop} [Decidable p] {x y : EStateM ε State α} (hx : Leaves P x) (hy : Leaves P y) :
    Leaves P (if p then x else y) := by
  split
  · exact hx
  · exact hy

/-- The same of one state. -/
theorem leaves_ite_at {p : Prop} [Decidable p] {x y : EStateM ε State α} {s : State} (hx : P (endState (x s)) = P s)
    (hy : P (endState (y s)) = P s) : P (endState ((if p then x else y) s)) = P s := by
  split
  · exact hx
  · exact hy

theorem leaves_of_ok {x : EStateM ε State α} (hx : Leaves P x) {s t : State} {a : α} (h : x s = .ok a t) : P t = P s := by
  have := hx s
  rwa [h] at this

end

theorem leaves_check {β : Type} {P : State → β} (b : Bool) (c : Nat) (x : Word) : Leaves P (check b c x) :=
  leaves_ite (leaves_pure ()) (leaves_throw _)

/-! ## Engine accesses leave regions and messages -/

/-- A write of the state that P reads alike, after the state has been read. -/
theorem leaves_set_bind {ε β γ : Type} {P : State → β} {g : PUnit → EStateM ε State γ} {s t : State} (h : P t = P s)
    (hg : Leaves P (g ⟨⟩)) : P (endState (((set t : EStateM ε State PUnit) >>= g) s)) = P s := (hg t).trans h

theorem book_translate (s : State) (die : Nat) (q : RegionId) (v : Nat) (k : AccKind) :
    book (s.translate die q v k).2 = book s := by
  have keep : ∀ (t : State) (c : Cached), book (if t.tcache.contains c then t else { t with tcache := c :: t.tcache }) = book t := by
    intro t c
    split
    · rfl
    · exact book_eq rfl rfl
  unfold State.translate
  dsimp only
  split
  · dsimp only
    split
    · rfl
    · exact keep s _
  · dsimp only
    split
    · exact book_eq rfl rfl
    · exact (keep { s with free := s.free + 1 } _).trans (book_eq rfl rfl)

theorem leaves_checkSpan {β : Type} {P : State → β} (w v n al : Nat) (k : AccKind) : Leaves P (checkSpan w v n al k) := by
  have lift {x : M Unit} (a : Win) (hx : Leaves P x) : Leaves P (x >>= fun _ => (pure a : M Win)) :=
    leaves_bind hx (fun _ => leaves_pure a)
  unfold checkSpan
  refine leaves_bind leaves_get (fun s => leaves_bind (leaves_check _ _ _) (fun _ => leaves_bind (leaves_check _ _ _)
    (fun _ => leaves_bind (leaves_check _ _ _) (fun _ => ?_))))
  dsimp only
  split
  · exact lift _ (leaves_check _ _ _)
  · exact lift _ (leaves_check _ _ _)
  · exact leaves_bind (leaves_check _ _ _) (fun _ => lift _ (leaves_check _ _ _))
  · exact leaves_pure _

theorem leaves_answered (page : Nat) (write : Bool) : Leaves book (answered page write) := by
  unfold answered
  refine leaves_get_bind (fun s => ?_)
  cases linkOf (s.frame page) with
  | none => rfl
  | some l =>
    dsimp only
    split
    · rfl
    · show book (endState ((if s.mayBeSilent l = true then set { s with free := s.free + 1 } else pure () : M Unit) s)) = _
      split
      · exact book_eq rfl rfl
      · rfl

theorem book_promotePage {s t : State} {page : Nat} (h : s.promotePage page = some t) : book t = book s :=
  book_of_besideMemory (besideMemory_promotePage h)

theorem leaves_resolvePage (v n : Nat) (k : AccKind) : Leaves book (resolvePage v n k) := by
  unfold resolvePage
  refine leaves_get_bind (fun s => ?_)
  dsimp only
  refine leaves_set_bind (book_translate s _ _ _ _) ?_
  generalize (s.translate (dieOf s.core.pos) (s.owner s.core.pos) v k).1 = r
  generalize (s.translate (dieOf s.core.pos) (s.owner s.core.pos) v k).2 = u
  cases r with
  | error f => exact leaves_throw _
  | ok x =>
    dsimp only
    have found : Leaves book (do let s ← get; pure ⟨s.physPlace x.pa, 2 ^ 36 + x.pa, n, v⟩ : M Seg) :=
      leaves_bind leaves_get (fun _ => leaves_pure _)
    refine leaves_ite (leaves_throw_bind _ _) (leaves_ite found (leaves_ite (leaves_ite (leaves_throw_bind _ _)
      (leaves_bind (leaves_answered _ _) (fun _ => leaves_bind leaves_get (fun w => ?_))))
      (leaves_bind (leaves_answered _ _) (fun _ => found))))
    cases w.pageTorn (x.pa / 65536) v with
    | some e => exact leaves_throw_bind _ _
    | none =>
      refine leaves_get_bind (fun w => ?_)
      cases hp : w.promotePage (x.pa / 65536) with
      | none => rfl
      | some t => exact leaves_set_bind (book_promotePage hp) found

theorem leaves_resolvePages (k : AccKind) (fuel v n : Nat) : Leaves book (resolvePages k fuel v n) := by
  induction fuel generalizing v n with
  | zero => exact leaves_pure _
  | succ fuel ih =>
    unfold resolvePages
    exact leaves_ite (leaves_pure _) (leaves_bind (leaves_resolvePage _ _ _) (fun _ => leaves_bind (ih _ _) (fun _ => leaves_pure _)))

theorem leaves_segments (win : Win) (v n : Nat) (k : AccKind) : Leaves book (segments win v n k) := by
  unfold segments
  refine leaves_bind leaves_get (fun s => ?_)
  cases win with
  | virt => exact leaves_resolvePages _ _ _ _
  | _ => exact leaves_pure _

@[simp] theorem book_request (s : State) (u : EngineAt) (q : RegionId) (n t : Nat) : book (s.request u q n t) = book s :=
  book_eq rfl rfl

@[simp] theorem book_dropAsk (s : State) (u : EngineAt) (p : Nat) : book (s.dropAsk u p) = book s := book_eq rfl rfl

@[simp] theorem book_serveAsk (s : State) (u : EngineAt) (p n : Nat) : book (s.serveAsk u p n) = book s := book_eq rfl rfl

theorem leaves_passUnit (u : EngineAt) (n until_ : Nat) : Leaves book (passUnit u n until_) := by
  unfold passUnit
  refine leaves_get_bind (fun s => leaves_ite_at rfl ?_)
  refine (book_request _ _ _ _ _).trans ?_
  split
  · rfl
  · split <;> simp

theorem leaves_engineRows (v n al : Nat) (k : AccKind) : Leaves book (engineRows v n al k) := by
  unfold engineRows
  refine leaves_bind (leaves_checkSpan _ _ _ _ _) (fun win => leaves_bind (leaves_segments _ _ _ _) (fun segs =>
    leaves_bind leaves_get (fun s => leaves_bind (leaves_check _ _ _) (fun _ => leaves_bind leaves_get (fun s => ?_)))))
  cases segs.head?.bind (fun g => s.unitFor win ((g.home - 2 ^ 36) / 65536)) with
  | none => exact leaves_pure _
  | some u => exact leaves_bind (leaves_passUnit _ _ _) (fun _ => leaves_pure _)

theorem book_asEngine {α : Type} {body : M α} (hb : Leaves book body) {s t : State} {p : Nat} {x : α}
    (h : s.asEngine p body = .ok (x, t)) : book t = book s := by
  unfold State.asEngine at h
  dsimp only at h
  split at h
  case h_1 y v hv =>
    cases h
    have hbody := leaves_of_ok hb hv
    rw [book_turn]
    exact (book_eq rfl rfl).trans (hbody.trans ((book_eq rfl rfl).trans (book_turn s p)))
  all_goals cases h

theorem book_engineSpan {s t : State} {p v n al : Nat} {w : Bool} {r : Win × List Seg}
    (h : s.engineSpan p v n al w = .ok (r, t)) : book t = book s := by
  unfold State.engineSpan at h
  split at h
  · cases h
  · rename_i r' u hr
    split at h
    · cases h
    · cases h
      exact book_asEngine (leaves_engineRows _ _ _ _) hr

theorem book_elementAccess {s u : State} {t : Stream} {v : Nat} {w : Bool} {r : Win × List Seg}
    (h : elementAccess s t v w = .ok (r, u)) : book u = book s := by
  unfold elementAccess at h
  split at h
  case h_4 win segs v hv =>
    have hspan := book_engineSpan hv
    dsimp only at h
    split at h
    · cases h
    · cases h
      split
      · exact hspan
      · rw [book_modGroup, hspan]
  all_goals cases h

@[simp] theorem book_untear (s : State) (b : Nat) : book (s.untear b) = book s := book_eq rfl rfl

theorem book_engineBad {s u : State} {segs : List Seg} {c a : Nat} (h : s.engineBad segs = some (c, a, u)) : book u = book s := by
  unfold State.engineBad at h
  split at h <;> cases h <;> simp

theorem book_leftWaiting {s u : State} {t t' : Stream} {l p : Nat} {w : Bool} (h : s.leftWaiting t l p w = some (t', u)) :
    book u = book s := by
  unfold State.leftWaiting at h
  dsimp only at h
  split at h
  · cases h
  · cases h
    exact book_eq rfl rfl

theorem book_fetchElement {s u : State} {t t' : Stream} {v : Bool} (h : s.fetchElement t v = some (t', u)) : book u = book s := by
  unfold State.fetchElement at h
  dsimp only at h
  split at h
  · cases h
  · split at h
    · cases h
    · exact book_leftWaiting h
    · cases h; simp
    · cases h; rfl
    · rename_i win segs w hw
      have haccess := book_elementAccess hw
      split at h
      · rename_i hbad
        cases h
        exact (book_engineBad hbad).trans haccess
      · cases h
        exact haccess

@[simp] theorem book_refillStream (v : Bool) (i n : Nat) (s : State) : book (s.refillStream v i n) = book s := by
  induction n generalizing s with
  | zero => rfl
  | succ n ih =>
    unfold State.refillStream
    split
    · rename_i t u hf
      rw [ih]
      obtain ⟨t', -, hf⟩ := Option.bind_eq_some_iff.mp hf
      split at hf
      · cases hf
      · have hu := book_fetchElement hf
        refine Eq.trans ?_ hu
        exact book_eq rfl rfl
    · rfl

@[simp] theorem book_refill (s : State) (p : Nat) : book (s.refill p) = book s := by
  have same_groups (t : State) (g : List Group) : book { t with groups := g } = book t := book_eq rfl rfl
  unfold State.refill
  dsimp only
  rw [same_groups, book_turn, foldl_leaves book (fun u i => book_refillStream true i 4 u),
    foldl_leaves book (fun u i => book_refillStream false i 16 u), book_turn, book_modGroup]

@[simp] theorem book_requeue (s : State) (p : Nat) (img : List Byte) : book (s.requeue p img) = book s := by
  unfold State.requeue
  exact book_eq rfl rfl

@[simp] theorem book_loadContext (s : State) (p : Nat) (img : List Byte) (b : Bool) : book (s.loadContext p img b) = book s := by
  unfold State.loadContext
  rw [book_requeue, book_modCore]

@[simp] theorem book_release_ (s : State) (p ts tr : Nat) : book (s.release_ p ts tr) = book s := by
  unfold State.release_ State.resumeCore
  dsimp only
  split
  · exact book_modCore _ _ _
  · split
    · rw [book_modCore]
      split
      · rw [book_refill, book_loadContext]
      · exact book_loadContext _ _ _ _
    · split <;> exact book_modCore _ _ _

/-! ## A superstep boundary -/

/-- One core of the boundary's fold: a participating core that waits in GBAR goes on (R36, R357). -/
def wakeAtGbar (s : State) (q : RegionId) (n : Nat) (t : State) (p : Nat) : State :=
  if t.takesPart q n p && (t.coreAt p).status == .waiting .gbar then t.modCore p (fun c => c.wake s.now (s.period p)) else t

theorem boundary_eq {s : State} {q : RegionId} {l : Launch} (hp : s.publishLaunch q l.seq = s) :
    s.boundary q l = State.atEdge ((l.cores.foldl (wakeAtGbar s q l.seq) s).modLaunch q l.seq
      (fun x => { x with superstep := x.superstep + 1, boundary := s.ticks })) q l.seq := by
  unfold State.boundary
  rw [hp]
  rfl

/-- Without a publish group of PUBM 5 there is nothing to publish (R317). -/
theorem publishLaunch_eq_self {s : State} (h : ∀ g ∈ s.pubs, ∀ a b c, g.key ≠ .launch a b c) (q : RegionId) (n : Nat) :
    s.publishLaunch q n = s := by
  unfold State.publishLaunch
  rw [List.filter_eq_nil_iff.mpr]
  · rfl
  · intro g hg
    have := h g hg
    cases hk : g.key with
    | launch a b c => exact absurd hk (this a b c)
    | _ => simp

theorem owner_congr {s t : State} (h : t.regions = s.regions) (p : Nat) : t.owner p = s.owner p := by
  simp only [State.owner, h]

theorem wakeAtGbar_mem (s : State) (q : RegionId) (n : Nat) (t : State) (p : Nat) : (wakeAtGbar s q n t p).mem = t.mem := by
  unfold wakeAtGbar
  split
  · exact modCore_mem _ _ _
  · rfl

theorem wakeAtGbar_regions (s : State) (q : RegionId) (n : Nat) (t : State) (p : Nat) :
    (wakeAtGbar s q n t p).regions = t.regions := by
  unfold wakeAtGbar
  split
  · exact modCore_regions _ _ _
  · rfl

theorem coreAt_wakeAtGbar_ne (s : State) (q : RegionId) (n : Nat) (t : State) {p k : Nat} (h : k ≠ p) :
    (wakeAtGbar s q n t p).coreAt k = t.coreAt k := by
  unfold wakeAtGbar
  split
  · exact coreAt_modCore_ne _ _ _ _ (fun _ => rfl) h
  · rfl

theorem wakeAtGbar_of_awake (s : State) (q : RegionId) (n : Nat) {t : State} {p : Nat}
    (h : (t.coreAt p).status ≠ .waiting .gbar) : wakeAtGbar s q n t p = t := by
  simp [wakeAtGbar, h]

theorem coreAt_wakeAtGbar_same (s : State) {q : RegionId} {n : Nat} {t : State} {p : Nat} (hp : t.takesPart q n p = true)
    (hw : (t.coreAt p).status = .waiting .gbar) :
    (wakeAtGbar s q n t p).coreAt p = (t.coreAt p).wake s.now (s.period p) := by
  unfold wakeAtGbar
  rw [hp, hw, if_pos (by decide)]
  exact coreAt_modCore_same t p (fun c => c.wake s.now (s.period p)) (fun _ => rfl)

theorem coreAt_foldl_wakeAtGbar_of_awake (s : State) (q : RegionId) (n : Nat) (cores : List Nat) {t : State} {p : Nat}
    (h : (t.coreAt p).status ≠ .waiting .gbar) : (cores.foldl (wakeAtGbar s q n) t).coreAt p = t.coreAt p := by
  induction cores generalizing t with
  | nil => rfl
  | cons k cores ih =>
    have hk : (wakeAtGbar s q n t k).coreAt p = t.coreAt p := by
      by_cases e : p = k
      · rw [← e, wakeAtGbar_of_awake s q n h]
      · exact coreAt_wakeAtGbar_ne s q n t e
    rw [List.foldl_cons, ih (by rw [hk]; exact h), hk]

/-- The fold wakes a participating core that waits in GBAR, once. -/
theorem coreAt_foldl_wakeAtGbar (s : State) {q : RegionId} {n : Nat} {cores : List Nat} {t : State} {p : Nat} (hmem : p ∈ cores)
    (hp : t.takesPart q n p = true) (hw : (t.coreAt p).status = .waiting .gbar) :
    (cores.foldl (wakeAtGbar s q n) t).coreAt p = (t.coreAt p).wake s.now (s.period p) := by
  induction cores generalizing t with
  | nil => cases hmem
  | cons k cores ih =>
    rw [List.foldl_cons]
    by_cases e : p = k
    · subst e
      rw [coreAt_foldl_wakeAtGbar_of_awake, coreAt_wakeAtGbar_same s hp hw]
      rw [coreAt_wakeAtGbar_same s hp hw, Core.wake_status]
      exact CoreStatus.noConfusion
    · have hk := coreAt_wakeAtGbar_ne s q n t e
      have hp' : (wakeAtGbar s q n t k).takesPart q n p = true := by
        rw [← hp]
        simp only [State.takesPart, hk, owner_congr (wakeAtGbar_regions s q n t k)]
      rw [ih ((List.mem_cons.mp hmem).resolve_left e) hp' (hk ▸ hw), hk]

/-- At a boundary of a live region whose launch does not yield nothing more happens. -/
theorem atEdge_eq_self {s : State} {q : RegionId} {r : Region} {l : Launch} {n : Nat} (hr : s.region? q = some r)
    (hl : r.launch? n = some l) (hlive : r.state = .live) (hy : l.yield = false) : s.atEdge q n = s := by
  unfold State.atEdge
  simp [hr, hl, hlive, hy]

/-- A superstep boundary of a live region whose launch does not yield, and publishes nothing. -/
theorem exec_superstepBoundary {s : State} {q : RegionId} {r : Region} {l : Launch} (hr : s.region? q = some r)
    (hl : r.running? = some l) (harr : s.allArrived q l = true) (hlive : r.state = .live) (hy : l.yield = false)
    (hfind : r.launch? l.seq = some l) (hpubs : ∀ g ∈ s.pubs, ∀ a b c, g.key ≠ .launch a b c) :
    exec (.superstepBoundary q) s = .next ((l.cores.foldl (wakeAtGbar s q l.seq) s).modLaunch q l.seq
      (fun x => { x with superstep := x.superstep + 1, boundary := s.ticks })) := by
  show execSuperstepBoundary q s = _
  unfold execSuperstepBoundary
  rw [hr, Option.bind_some, hl]
  dsimp only
  rw [if_pos harr, boundary_eq (publishLaunch_eq_self hpubs q l.seq)]
  have hregions := foldl_leaves State.regions (wakeAtGbar_regions s q l.seq) l.cores s
  have hfound := region?_modLaunch_same ((region?_congr hregions q).trans hr) l.seq
    (fun x => { x with superstep := x.superstep + 1, boundary := s.ticks })
  have hset := launch?_launchSet (r := r) (n := l.seq) (f := fun x => { x with superstep := x.superstep + 1, boundary := s.ticks })
    (fun _ => rfl) l.seq
  rw [hfind, Option.map_some, if_pos rfl] at hset
  rw [atEdge_eq_self hfound hset hlive hy]

/-! ## The watchdog and gang stops -/

/-- What a change of the pending interrupts of a core leaves pending there. -/
theorem pending_modCore (s : State) (p : Nat) (f : Pending → Pending) :
    ((s.modCore p (fun c => { c with pending := f c.pending })).coreAt p).pending = f (s.coreAt p).pending := by
  rw [coreAt_modCore_same s p (fun c => { c with pending := f c.pending }) (fun _ => rfl)]

theorem exec_superstepWatchdog {s : State} {q : RegionId} {r : Region} {l : Launch} (hr : s.region? q = some r)
    (hl : r.running? = some l) (hw : r.watchdog ≠ 0) (hstop : l.stopTs = none) (hdue : l.boundary + r.watchdog ≤ s.ticks) :
    exec (.superstepWatchdog q) s = .next ((s.modLaunch q l.seq (fun k => { k with boundary := l.boundary + r.watchdog })).raiseTimer
      r.supervisor (BitVec.ofNat 64 l.superstep)) := by
  have htick : r.watchTick = some (l.boundary + r.watchdog) := by
    simp [Region.watchTick, hl, hw, hstop]
  show execSuperstepWatchdog q s = _
  unfold execSuperstepWatchdog
  simp only [hr, htick, hl, if_pos hdue]

theorem exec_debugStopEnd {s : State} {q : RegionId} {r : Region} {l : Launch} (hr : s.region? q = some r)
    (hl : r.running? = some l) (hstop : l.stopTs.isSome = true) (hopen : l.resumeTr = none)
    (hback : ∀ p ∈ l.cores, s.takesPart r.id l.seq p = true → (s.coreAt p).broken = false) :
    exec (.debugStopEnd q) s = .next (s.modLaunch q l.seq (fun k => { k with resumeTr := some (s.ticks + 256) })) := by
  have hall : s.allBack r = some l := by
    unfold State.allBack
    rw [hl, Option.bind_some, if_pos]
    simp only [hstop, hopen, Option.isNone_none, Bool.and_self, Bool.true_and, List.all_eq_true, List.mem_filter]
    rintro p ⟨hp, hpart⟩
    simp [hback p hp hpart]
  show execDebugStopEnd q s = _
  unfold execDebugStopEnd
  simp only [hr, Option.bind_some, hall]

/-- The cores that a gang stop halts and the messages that it may move are those of the launch (R392, R393). -/
theorem gangStop_eq {s : State} {r : Region} {l : Launch} (hrev : r.revokeTs = none) :
    ∃ (t : State) (senders : List Nat), book t = book s ∧ (∀ p ∈ senders, p ∈ l.cores) ∧
      s.gangStop r l = (t.spill senders).modLaunch r.id l.seq (fun k => { k with stopped := true }) := by
  unfold State.gangStop
  dsimp only
  rw [hrev]
  refine ⟨_, _, foldl_leaves book (fun _ _ => book_stopCore _ _ _) _ _, ?_, rfl⟩
  intro p hp
  exact (List.mem_filter.mp (List.mem_filter.mp (List.mem_filter.mp hp).1).1).1

theorem sender?_eq_some {m : Msg} {p : Nat} (h : m.sender? = some p) : m.src = .post p ∨ m.src = .signal p := by
  unfold Msg.sender? at h
  cases hs : m.src <;> simp_all

/-- What a spill does to each message (R40). -/
theorem spill_msgs_getElem? (s : State) (senders : List Nat) {i : Nat} {m : Msg} (h : s.msgs[i]? = some m) :
    ∃ k, (s.spill senders).msgs[i]? = some { m with kitty := k } ∧
      (k = m.kitty ∨ ∃ p ∈ senders, m.src = .post p ∨ m.src = .signal p) := by
  have stays : some m = some { m with kitty := m.kitty } := rfl
  unfold State.spill
  simp only [List.getElem?_mapIdx, h, Option.map_some]
  cases hs : m.sender? with
  | none => exact ⟨m.kitty, stays, .inl rfl⟩
  | some p =>
    dsimp only
    split
    · rename_i hp
      exact ⟨_, rfl, .inr ⟨p, List.contains_iff_mem.mp hp, sender?_eq_some hs⟩⟩
    · exact ⟨m.kitty, stays, .inl rfl⟩

theorem spill_msgs_length (s : State) (senders : List Nat) : (s.spill senders).msgs.length = s.msgs.length := by
  simp [State.spill]

theorem exec_gangStop {s : State} {q : RegionId} {r : Region} {l : Launch} {ts : Nat} (hr : s.region? q = some r)
    (hl : r.current? = some l) (hrev : r.revokeTs = none) (hstopped : l.stopped = false) (hts : l.stopTs = some ts)
    (hdue : ts ≤ s.ticks) (hedge : ∀ p ∈ l.cores, s.atBoundary p = true) :
    exec (.gangStop q) s = .next (s.gangStop r l) := by
  have hat : r.stopAt = some ts := by simp [Region.stopAt, hl, hrev, hstopped, hts]
  show execGangStop q s = _
  unfold execGangStop
  simp only [hr, hat, hl]
  rw [if_pos]
  simpa [hdue] using hedge

/-- The state of a gang that resumes, before the launch's record and the supervisor's interrupt (R41, R391). -/
def gangReleased (s : State) (q : RegionId) (l : Launch) (ts tr : Nat) : State :=
  ((l.cores.filter (s.takesPart q l.seq)).foldl (fun t p => t.release_ p ts tr) s).unspill l.cores

theorem gangReleased_regions (s : State) (q : RegionId) (l : Launch) (ts tr : Nat) :
    (gangReleased s q l ts tr).regions = s.regions := by
  unfold gangReleased
  rw [State.unspill_regions]
  exact (book_inj (foldl_leaves book (fun t p => book_release_ t p ts tr) _ s)).1

theorem exec_gangResume {s : State} {q : RegionId} {r : Region} {l : Launch} {ts tr : Nat} (hr : s.region? q = some r)
    (hl : r.running? = some l) (hts : l.stopTs = some ts) (htr : l.resumeTr = some tr) (hdue : tr ≤ s.ticks)
    (hstopped : l.stopped = true) :
    exec (.gangResume q) s = .next (((gangReleased s q l ts tr).modLaunch q l.seq (fun k => { k with
      stopTs := none, stopped := false, resumeTr := none
      boundary := heldCount k.boundary ts tr, startAt := k.startAt + (tr - ts) })).modCore r.supervisor
        (fun c => { c with pending := { c.pending with switch := some (BitVec.ofNat 64 (tr - ts)) } })) := by
  show execGangResume q s = _
  unfold execGangResume
  simp only [hr, hl, hts, htr, hstopped, hdue, decide_true, Bool.and_self, if_true]
  rfl

/-! ## The end of a revocation -/

theorem exec_revokeDismantle {s : State} {q : RegionId} {r : Region} {c : Nat} (hr : s.region? q = some r)
    (hrev : r.state = .revoking) (hc : r.revoker = some c)
    (hall : ∀ x ∈ s.subtree q, x.current? = none ∧ s.pendingOutside q x = false) :
    exec (.revokeDismantle q) s = .next (((s.dismantleOrder q).foldl State.dismantle s).queueTree c true
      (BitVec.ofNat 64 (2 ^ 63 + q.toNat))) := by
  have htop : s.revokedTop q = some (r, c) := by
    unfold State.revokedTop
    rw [hr, Option.bind_some, hc, Option.bind_some, if_pos]
    simp only [hrev, beq_self_eq_true, Bool.true_and, List.all_eq_true]
    intro x hx
    obtain ⟨hidle, hout⟩ := hall x hx
    simp [hidle, hout]
  show execRevokeDismantle q s = _
  unfold execRevokeDismantle
  rw [htop]

/-- Settles O43: each event is reduced to the state that it leaves, and what is claimed is read off there. -/
theorem superstepEvents : Obligations.SuperstepEvents := by
  unfold Obligations.SuperstepEvents
  refine ⟨?_, ?_, ?_, ?_, ?_, ?_⟩
  · intro q s r l hr hl harr hlive hy hfind hpubs
    refine ⟨_, exec_superstepBoundary hr hl harr hlive hy hfind hpubs, ?_, ?_, ?_⟩
    · intro p hp hpart hw
      rw [coreAt_modLaunch, coreAt_foldl_wakeAtGbar s hp hpart hw]
      exact ⟨rfl, rfl, rfl⟩
    · have hregions := foldl_leaves State.regions (wakeAtGbar_regions s q l.seq) l.cores s
      exact region?_modLaunch_same ((region?_congr hregions q).trans hr) _ _
    · exact foldl_leaves State.mem (wakeAtGbar_mem s q l.seq) l.cores s
  · intro q s r l hr hl hw hstop hdue
    refine ⟨_, exec_superstepWatchdog hr hl hw hstop hdue, ?_, ?_⟩
    · exact congrArg Pending.timer (pending_modCore _ _ (fun x => { x with timer := some (BitVec.ofNat 64 l.superstep) }))
    · unfold State.raiseTimer
      rw [region?_modCore]
      exact region?_modLaunch_same hr _ _
  · intro q s r l hr hl hstop hopen hback
    exact exec_debugStopEnd hr hl hstop hopen hback
  · intro q s r l ts hr hl hrev hstopped hts hdue hedge
    obtain ⟨t, senders, hbook, hsenders, heq⟩ := gangStop_eq (l := l) hrev
    obtain ⟨hregions, hmsgs⟩ := book_inj hbook
    refine ⟨_, exec_gangStop hr hl hrev hstopped hts hdue hedge, ?_, ?_, ?_⟩
    · rw [heq, region?_id hr]
      exact region?_modLaunch_same ((region?_congr (s := s) hregions q).trans hr) _ _
    · rw [heq, ← hmsgs]
      exact spill_msgs_length t senders
    · intro i m hm
      obtain ⟨k, hk, hwho⟩ := spill_msgs_getElem? t senders (hmsgs ▸ hm)
      rw [heq]
      refine ⟨k, hk, hwho.imp_right ?_⟩
      rintro ⟨p, hp, hsrc⟩
      exact ⟨p, hsenders p hp, hsrc⟩
  · intro q s r l ts tr hr hl hts htr hdue hstopped
    refine ⟨_, exec_gangResume hr hl hts htr hdue hstopped, ?_, ?_⟩
    · exact congrArg Pending.switch (pending_modCore _ _ (fun x => { x with switch := some (BitVec.ofNat 64 (tr - ts)) }))
    · rw [region?_modCore]
      exact region?_modLaunch_same ((region?_congr (gangReleased_regions s q l ts tr) q).trans hr) _ _
  · intro q s r c hr hrev hc hall
    refine ⟨_, (((s.dismantleOrder q).foldl State.dismantle s).coreAt c).pending.trees, exec_revokeDismantle hr hrev hc hall, ?_⟩
    exact congrArg Pending.trees (pending_modCore _ c
      (fun x => { x with trees := x.trees ++ [(true, BitVec.ofNat 64 (2 ^ 63 + q.toNat))] }))

/-! ## Lineage entries leave the launch queues -/

/-- The launch queue of each region, with the number of its last launch. -/
def queues (s : State) : List (RegionId × Nat × List Launch) := s.regions.map (fun r => (r.id, r.seq, r.launches))

theorem queues_of_regions {s t : State} (h : t.regions = s.regions) : queues t = queues s := by
  simp only [queues, h]

theorem queues_of_besideMemory {s t : State} (h : besideMemory t = besideMemory s) : queues t = queues s :=
  queues_of_regions (regions_of_besideMemory h)

theorem queues_modRegion (s : State) (q : RegionId) (f : Region → Region)
    (h : ∀ r, ((f r).id, (f r).seq, (f r).launches) = (r.id, r.seq, r.launches)) : queues (s.modRegion q f) = queues s := by
  unfold queues State.modRegion
  rw [List.map_map]
  refine List.map_congr_left (fun r _ => ?_)
  simp only [Function.comp]
  split
  · exact h r
  · rfl

/-- Where the queues are the same, a region is still there, with its queue. -/
theorem region?_of_queues {s t : State} (h : queues t = queues s) {q : RegionId} {r : Region} (hr : s.region? q = some r) :
    ∃ v, t.region? q = some v ∧ v.seq = r.seq ∧ v.launches = r.launches := by
  have find (s : State) : (queues s).find? (fun e => e.1 == q) = (s.region? q).map (fun r => (r.id, r.seq, r.launches)) :=
    List.find?_map ..
  have ht := find t
  rw [h, find s, hr, Option.map_some] at ht
  obtain ⟨v, hv, he⟩ := Option.map_eq_some_iff.mp ht.symm
  simp only [Prod.mk.injEq] at he
  exact ⟨v, hv, he.2⟩

theorem leaves_linReach {β : Type} {P : State → β} (t : RegionId) (v n : Nat) : Leaves P (linReach t v n) := by
  unfold linReach
  refine leaves_bind leaves_get (fun s => ?_)
  split
  · exact leaves_throw _
  · exact leaves_pure _

theorem leaves_getNode {β : Type} {P : State → β} (t : Region) (i : Nat) : Leaves P (getNode t i) :=
  leaves_bind (leaves_bind (leaves_linReach _ _ _) (fun _ => leaves_bind leaves_get (fun _ => leaves_pure _))) (fun _ => leaves_pure _)

theorem leaves_linWrite (t : RegionId) (v : Nat) (bs : List Byte) : Leaves queues (linWrite t v bs) := by
  refine leaves_bind (leaves_linReach _ _ _) (fun _ => leaves_modify (fun s => foldl_leaves queues (fun u a => ?_) _ s))
  dsimp only
  split
  · exact queues_of_besideMemory (besideMemory_writePage _ _ _)
  · rfl

theorem leaves_putNode (t : Region) (i : Nat) (n : Node) : Leaves queues (putNode t i n) := leaves_linWrite _ _ _

theorem leaves_choose (xs : List Nat) : Leaves queues (choose xs) := by
  unfold choose
  split
  · exact leaves_pure _
  · exact leaves_pure _
  · exact leaves_get_bind (fun s => leaves_set_bind (queues_of_regions rfl) (leaves_pure _))

theorem leaves_takeRun (t : Region) (i : Nat) (owner : RegionId) (need h : Nat) : Leaves queues (takeRun t i owner need h) := by
  unfold takeRun
  refine leaves_ite (leaves_pure _) (leaves_bind leaves_get (fun s => leaves_bind (leaves_choose _) (fun f => ?_)))
  cases f with
  | none => exact leaves_throw _
  | some f =>
    refine leaves_get_bind (fun s => ?_)
    cases s.region? owner with
    | none => rfl
    | some r =>
      have charge := queues_modRegion { s with runs := ⟨t.id, i, f, need, owner⟩ :: s.runs } owner
        (fun r => { r with pagesUsed := r.pagesUsed + need }) (fun _ => rfl)
      exact leaves_ite_at rfl (leaves_set_bind (charge.trans (queues_of_regions rfl)) (leaves_pure _))

theorem leaves_storeImage (t : Region) (i : Nat) (n : Node) (kind : Nat) (img : List Byte) (ncount h : Nat) :
    Leaves queues (storeImage t i n kind img ncount h) :=
  leaves_bind (leaves_takeRun _ _ _ _ _) (fun _ =>
    leaves_ite (leaves_pure _) (leaves_bind (leaves_linWrite _ _ _) (fun _ => leaves_pure _)))

theorem leaves_enterNode (t : Region) (q : RegionId) (im : Cerby) (k : Nat) (e : Node × Nat) (hs : List (Nat × Nat)) :
    Leaves queues (enterNode t q im k e hs) := by
  unfold enterNode
  refine leaves_ite (leaves_throw_bind _ _) (leaves_bind (leaves_getNode _ _) (fun old =>
    leaves_ite (leaves_throw_bind _ _) (leaves_ite (leaves_throw_bind _ _) ?_)))
  refine leaves_bind (leaves_ite ?_ ?_) (fun done => leaves_bind (leaves_putNode _ _ _) (fun _ => leaves_ite (leaves_pure _)
    (leaves_bind (leaves_getNode _ _) (fun p => leaves_ite (leaves_throw_bind _ _)
      (leaves_bind (leaves_putNode _ _ _) (fun _ => leaves_pure _))))))
  · split
    · exact leaves_throw _
    · exact leaves_storeImage _ _ _ _ _ _ _
  · dsimp only
    split
    · exact leaves_throw _
    · exact leaves_ite (leaves_throw _) (leaves_storeImage _ _ _ _ _ _ _)

theorem leaves_enterNodes (t : Region) (q : RegionId) (im : Cerby) (k : Nat) (es : List (Node × Nat)) (hs : List (Nat × Nat)) :
    Leaves queues (enterNodes t q im k es hs) := by
  induction es generalizing k hs with
  | nil => exact leaves_pure _
  | cons e es ih => exact leaves_bind (leaves_enterNode _ _ _ _ _ _) (fun _ => ih _ _)

theorem queues_enterImage {s t : State} {q : RegionId} {im : Cerby} {hs : List (Nat × Nat)}
    (h : s.enterImage q im = some (hs, t)) : queues t = queues s := by
  unfold State.enterImage at h
  split at h
  · cases h; rfl
  · split at h
    · cases h
    · split at h
      · rename_i hok
        cases h
        exact leaves_of_ok (leaves_enterNodes _ _ _ _ _ _) hok
      · cases h

theorem queues_verify {s t : State} {q : RegionId} {a o : Nat} (h : s.verify q a o = some t) : queues t = queues s := by
  unfold State.verify at h
  split at h
  · cases h; rfl
  · split at h
    · cases h; exact queues_of_regions rfl
    · cases h

/-! ## A launch becomes ready -/

theorem region?_writeBlock (s : State) (q k : RegionId) : (s.writeBlock q).region? k = s.region? k :=
  region?_congr (regions_of_besideMemory (besideMemory_writeBlock s q)) k

/-- A launch's record once it is ready (R352). -/
def markReady (s : State) (k : Launch) : Launch := { k with state := .ready, order := s.readied, readyTick := s.ticks }

/-- A launch's record once it has lost its promise for being ready too late (R342, R352). -/
def markLate (k : Launch) : Launch := { k with voided := true, code := 0x20 }

/-- Whether the deadline of a launch that becomes ready now cannot be met any more (R352). -/
def tooLate (s : State) (l : Launch) : Bool := l.deadline.any (fun td => decide (td < s.ticks + l.worst + l.load + 64))

/-- What readiness makes of a record, l being the launch that becomes ready in the state s. -/
def readiedLaunch (s : State) (l k : Launch) : Launch := if tooLate s l then markLate (markReady s k) else markReady s k

theorem readiedLaunch_seq (s : State) (l k : Launch) : (readiedLaunch s l k).seq = k.seq := by
  unfold readiedLaunch
  split <;> rfl

/-- The state with the launch's record marked, and counted. -/
def markedReady (s : State) (q : RegionId) (n : Nat) : State :=
  State.modLaunch { s with readied := s.readied + 1 } q n (markReady s)

theorem region?_markedReady {s : State} {q : RegionId} {r : Region} (hr : s.region? q = some r) (n : Nat) :
    (markedReady s q n).region? q = some (launchSet r n (markReady s)) := region?_modLaunch_same (s := { s with readied := s.readied + 1 }) hr n _

theorem makeReady_eq {s : State} {q : RegionId} {n : Nat} {r : Region} {l : Launch} (hr : s.region? q = some r)
    (hl : r.launch? n = some l) : s.makeReady q n =
      if tooLate s l then ((markedReady s q n).modLaunch q n markLate).writeBlock q else markedReady s q n := by
  have hset := region?_markedReady hr n
  have hfind := launch?_launchSet (r := r) (n := n) (f := markReady s) (fun _ => rfl) n
  rw [hl, Option.map_some, if_pos (launch?_seq hl)] at hfind
  have hbind : ((markedReady s q n).region? q).bind (fun r => r.launch? n) = some (markReady s l) := by
    rw [hset, Option.bind_some, hfind]
  unfold State.makeReady
  show (match ((markedReady s q n).region? q).bind (fun r => r.launch? n) with | none => _ | some l => _) = _
  rw [hbind]
  show (match l.deadline with | none => _ | some td => _) = _
  unfold tooLate
  cases l.deadline with
  | none => rfl
  | some td =>
    simp only [Option.any_some, decide_eq_true_eq]
    rfl

theorem makeReady_readied {s : State} {q : RegionId} {n : Nat} {r : Region} {l : Launch} (hr : s.region? q = some r)
    (hl : r.launch? n = some l) : (s.makeReady q n).readied = s.readied + 1 := by
  rw [makeReady_eq hr hl]
  split
  · exact readied_of_besideMemory (besideMemory_writeBlock _ _)
  · rfl

theorem region?_makeReady {s : State} {q : RegionId} {n : Nat} {r : Region} {l : Launch} (hr : s.region? q = some r)
    (hl : r.launch? n = some l) : (s.makeReady q n).region? q = some (launchSet r n (readiedLaunch s l)) := by
  have hset := region?_markedReady hr n
  rw [makeReady_eq hr hl]
  unfold readiedLaunch
  by_cases hlate : tooLate s l = true
  · simp only [hlate, if_true]
    rw [region?_writeBlock, region?_modLaunch_same hset, launchSet_launchSet (f := markReady s) (fun _ => rfl)]
  · simp only [hlate, if_false, Bool.false_eq_true]
    exact hset

theorem exec_launchReady {s : State} {q : RegionId} {n : Nat} {r : Region} {l : Launch} (hr : s.region? q = some r)
    (hl : r.launch? n = some l) (hw : l.state = .waiting) (hd : s.depsHold q l = true) :
    exec (.launchReady q n) s = .next (s.makeReady q n) := by
  show execLaunchReady q n s = _
  unfold execLaunchReady
  apply event_of
  simp only [hr, Option.bind_some, hl, hw, hd]
  rfl

/-! ## A request is submitted -/

/-- The region's record when a launch joins its queue (R347). -/
def admitLaunch (l : Launch) (r : Region) : Region :=
  { r with
    seq := r.seq + 1, launches := r.launches.filter (fun l => l.state.unfinished) ++ [l], refused := none
    queueUsed := r.queueUsed + 1, earmark := r.earmark + l.earmark }

/-- The state when a launch has joined the queue of region q, ready at once where its dependences hold. -/
def enqueued (t : State) (q : RegionId) (l : Launch) : State :=
  let u := t.modRegion q (admitLaunch l)
  if u.depsHold q l then u.makeReady q l.seq else u

/-- What a request's block says of a launch (R347). -/
def asRequested (b : List Byte) (l : Launch) : Prop :=
  l.entry = BitVec.ofNat 64 (slice b 0x08 8) ∧ l.args = (List.range 4).map (fun i => BitVec.ofNat 64 (slice b (0x18 + 8 * i) 8)) ∧
    l.stack = slice b 0x50 4 ∧ l.wsbase = (if slice b 0x54 4 = 0 then 0x1C000 else slice b 0x54 4)

/-- The launch that a request of region r makes: b is the block, read in region q's space, im the image, and the promise and the
handles are those of its admission (R347). -/
def requestedLaunch (s : State) (q : RegionId) (r : Region) (b : List Byte) (issued : Nat) (im : Cerby) (promise : Nat × Nat)
    (handles : List (Nat × Nat)) : Launch :=
  let load := 2048 + (im.loaded + 63) / 64
  let cost := r.cores * (slice b 0x38 8 + load + 64)
  { seq := r.seq + 1, entry := BitVec.ofNat 64 (slice b 0x08 8), image := BitVec.ofNat 64 (slice b 0x10 8), space := q
    keys := s.device.keys, args := (List.range 4).map (fun i => BitVec.ofNat 64 (slice b (0x18 + 8 * i) 8)), worst := slice b 0x38 8
    deadline := if slice b 0x40 8 = 0 then none else some (issued + slice b 0x40 8), tstart := slice b 0x48 8
    stack := slice b 0x50 4, wsbase := orElse (slice b 0x54 4) 0x1C000, deps := (s.depsOf r.id b).getD [], load := load
    cost := cost, promise := promise, handles := handles, earmark := if slice b 0x40 8 = 0 then 0 else cost, state := .waiting
    code := 0, voided := false, order := 0, readyTick := 0, cores := [], loadAt := 0, startAt := 0, settled := 0, superstep := 0
    boundary := 0, yield := false, stopTs := none, stopped := false, resumeTr := none, saved := [] }

theorem submit_ok {s u : State} {q : RegionId} {r : Region} {b : List Byte} {n k : Nat} (h : s.submit q r b n = .ok (k, u)) :
    ∃ t l, queues t = queues s ∧ l.seq = r.seq + 1 ∧ asRequested b l ∧ k = l.seq ∧ u = (enqueued t r.id l).writeBlock r.id := by
  unfold State.submit at h
  dsimp only at h
  split at h
  · cases h
  split at h
  · cases h
  split at h
  · cases h
  split at h
  · cases h
  split at h
  · cases h
  rename_i s1 hverify
  split at h
  · cases h
  split at h
  · cases h
  split at h
  · cases h
  rename_i handles t henter
  cases h
  exact ⟨t, requestedLaunch s q r b n _ _ handles, (queues_enterImage henter).trans (queues_verify hverify), rfl,
    ⟨rfl, rfl, rfl, rfl⟩, rfl, rfl⟩

theorem launch?_admitLaunch {r : Region} {l : Launch} (hseq : l.seq = r.seq + 1) (hold : ∀ k ∈ r.launches, k.seq ≤ r.seq) :
    (admitLaunch l r).launch? l.seq = some l := by
  unfold admitLaunch Region.launch?
  dsimp only
  rw [List.find?_append, List.find?_eq_none.mpr, Option.none_or]
  · simp
  · intro k hk
    have := hold k ((List.mem_filter.mp hk).1)
    simp only [beq_iff_eq]
    omega

/-- What a record keeps when its launch becomes ready. -/
theorem asRequested_readiedLaunch {b : List Byte} {l : Launch} (h : asRequested b l) (s : State) (m : Launch) :
    asRequested b (readiedLaunch s m l) := by
  unfold readiedLaunch
  split <;> exact h

/-- A launch that has joined a queue is found there under its number. -/
theorem launch?_enqueued {t : State} {q : RegionId} {v : Region} {l : Launch} {b : List Byte} (hv : t.region? q = some v)
    (hseq : l.seq = v.seq + 1) (hold : ∀ k ∈ v.launches, k.seq ≤ v.seq) (hb : asRequested b l) :
    ∃ w k, (enqueued t q l).region? q = some w ∧ w.launch? l.seq = some k ∧ w.seq = l.seq ∧ asRequested b k := by
  have hadmit : (t.modRegion q (admitLaunch l)).region? q = some (admitLaunch l v) := by
    rw [region?_modRegion t q q (admitLaunch l) (fun _ => rfl), if_pos rfl, hv]; rfl
  have hfind := launch?_admitLaunch hseq hold
  unfold enqueued
  dsimp only
  split
  · refine ⟨_, readiedLaunch (t.modRegion q (admitLaunch l)) l l, region?_makeReady hadmit hfind, ?_, hseq.symm,
      asRequested_readiedLaunch hb _ _⟩
    rw [launch?_launchSet (readiedLaunch_seq _ _), hfind, Option.map_some, if_pos rfl]
  · exact ⟨_, l, hadmit, hfind, hseq.symm, hb⟩

/-! ## Folds over the cores of a launch -/

/-- What holds after every step of a fold once it held, holds in the end. -/
theorem foldl_keeps {α β : Type} {P : β → Prop} {f : β → α → β} (h : ∀ b a, P b → P (f b a)) {b : β} (hb : P b) (l : List α) :
    P (l.foldl f b) := by
  induction l generalizing b with
  | nil => exact hb
  | cons a l ih => exact ih (h b a hb)

/-- The cores of a list, each changed in the same way. -/
def eachCore (f : Core → Core) (cores : List Nat) (s : State) : State := cores.foldl (fun t p => t.modCore p f) s

/-- What a change brings about on every core holds of each core of the list in the end. -/
theorem coreAt_eachCore {f : Core → Core} (hpos : ∀ c, (f c).pos = c.pos) {Q : Core → Prop} (hQ : ∀ c, Q (f c))
    {cores : List Nat} {s : State} {p : Nat} (h : p ∈ cores ∨ Q (s.coreAt p)) : Q ((eachCore f cores s).coreAt p) := by
  induction cores generalizing s with
  | nil => exact h.resolve_left (List.not_mem_nil)
  | cons k cores ih =>
    refine ih ?_
    by_cases e : p = k
    · right
      rw [e, coreAt_modCore_same _ _ _ hpos]
      exact hQ _
    · rw [coreAt_modCore_ne _ _ _ _ hpos e]
      exact h.imp_left (fun hm => (List.mem_cons.mp hm).resolve_left e)

/-! ## A launch is placed -/

theorem queues_loadImage {s t : State} {r : Region} {l : Launch} {im : Cerby} {cores : List Nat}
    (h : s.loadImage r l im cores = some t) : queues t = queues s := by
  unfold State.loadImage at h
  simp only [Option.bind_eq_bind, Option.bind_eq_some_iff] at h
  obtain ⟨parts, -, blocks, -, -, -, h⟩ := h
  cases h
  have loaded : besideMemory (cores.foldl (fun t p => parts.foldl (fun t e =>
      (t.setBytes (localPlace p e.1) e.2).healed (localPlace p e.1) e.2.length) t) s) = besideMemory s :=
    foldl_leaves besideMemory (fun t p => foldl_leaves besideMemory (fun t e => by simp) parts t) cores s
  refine (queues_modRegion _ r.id
    (fun x => { x with placed := if !r.placed.contains l.image then l.image :: x.placed else x.placed }) (fun _ => rfl)).trans ?_
  refine queues_of_besideMemory ?_
  split
  · exact (foldl_leaves besideMemory (fun t e => besideMemory_poke t r.id e.1 e.2) blocks _).trans loaded
  · exact loaded

theorem queues_fillCores {s t : State} {r : Region} {l : Launch} {cores : List Nat} (hl : l.state = .ready)
    (h : s.fillCores r l cores = .ok t) : queues t = queues s := by
  unfold State.fillCores at h
  rw [hl, if_neg (by decide)] at h
  dsimp only at h
  split at h
  · cases h
  split at h
  · cases h
  split at h
  · cases h
  rename_i him
  cases h
  exact queues_loadImage him

/-- The groups and cores of a launch when they are its own, and the clocks that it holds (R161, R355, R433). -/
def takenCores (t : State) (r : Region) (l : Launch) (cores : List Nat) : State :=
  let u := (cores.map groupOf).eraseDups.foldl (fun u g => u.modGroup g (fun g => g.take r.id)) t
  let u := eachCore (fun c => { c with launch := l.seq, status := .idle }) cores u
  let u := if l.deadline.isSome then u.fastDies (fun d => cores.any (fun p => dieOf p == d)) else u
  if l.timed then u.fullClock else u

theorem takenCores_leaves {γ : Type} (P : State → γ) (hgroup : ∀ s i f, P (s.modGroup i f) = P s)
    (hcore : ∀ s p f, P (s.modCore p f) = P s) (hdies : ∀ s w, P (s.fastDies w) = P s) (t : State) (r : Region) (l : Launch)
    (cores : List Nat) : P (takenCores t r l cores) = P t := by
  have hcores : P (eachCore (fun c => { c with launch := l.seq, status := .idle }) cores
      ((cores.map groupOf).eraseDups.foldl (fun u g => u.modGroup g (fun g => g.take r.id)) t)) = P t :=
    (foldl_leaves P (fun _ _ => hcore _ _ _) cores _).trans (foldl_leaves P (fun _ _ => hgroup _ _ _) _ t)
  unfold takenCores
  dsimp only
  split <;> split
  · exact (hdies _ _).trans ((hdies _ _).trans hcores)
  · exact (hdies _ _).trans hcores
  · exact (hdies _ _).trans hcores
  · exact hcores

theorem takenCores_regions (t : State) (r : Region) (l : Launch) (cores : List Nat) :
    (takenCores t r l cores).regions = t.regions :=
  takenCores_leaves State.regions (fun _ _ _ => rfl) modCore_regions (fun _ _ => rfl) t r l cores

theorem takenCores_mem (t : State) (r : Region) (l : Launch) (cores : List Nat) : (takenCores t r l cores).mem = t.mem :=
  takenCores_leaves State.mem (fun _ _ _ => rfl) modCore_mem (fun _ _ => rfl) t r l cores

theorem takenCores_launch (t : State) (r : Region) {l : Launch} {cores : List Nat} {p : Nat} (h : p ∈ cores) :
    ((takenCores t r l cores).coreAt p).launch = l.seq := by
  have hcores := coreAt_eachCore (f := fun c => { c with launch := l.seq, status := .idle }) (fun _ => rfl)
    (Q := fun c => c.launch = l.seq) (fun _ => rfl)
    (s := (cores.map groupOf).eraseDups.foldl (fun u g => u.modGroup g (fun g => g.take r.id)) t) (.inl h)
  unfold takenCores
  dsimp only
  split <;> split <;> exact hcores

theorem exec_launchPlace {s : State} {q : RegionId} {r : Region} {l : Launch} (hr : s.region? q = some r)
    (he : s.eligible r = some l) (hc : s.choice = some q) : exec (.launchPlace q) s = .next (s.place r l) := by
  show execLaunchPlace q s = _
  unfold execLaunchPlace
  simp only [hr, he, hc, if_true]

/-- The record of a launch that is placed now on some cores (R355). -/
def placedLaunch (s : State) (l : Launch) (cores : List Nat) (k : Launch) : Launch :=
  { k with
    state := .loading, cores := cores, loadAt := s.ticks, settled := s.ticks
    startAt := if k.state = .suspended then s.ticks + l.load + 64 else max k.tstart (s.ticks + l.load + 64) }

/-- A launch that is not suspended is placed on free cores (R355, R356). -/
theorem placeOn_of_ready (s : State) (r : Region) {l : Launch} (hl : l.state = .ready) :
    (if l.state == .suspended then l.cores.filter (fun p => s.owner p == r.id) else s.freeCores r) = s.freeCores r := by
  rw [hl]; rfl

theorem place_of_ok {s t : State} {r : Region} {l : Launch} (hl : l.state = .ready)
    (h : s.fillCores r l (s.freeCores r) = .ok t) : s.place r l =
      { (takenCores t r l (s.freeCores r)).modLaunch r.id l.seq (placedLaunch s l (s.freeCores r)) with served := r.id } := by
  unfold State.place
  rw [placeOn_of_ready s r hl]
  dsimp only
  rw [h]
  simp only [beq_iff_eq]
  rfl

theorem place_of_error {s : State} {r : Region} {l : Launch} {c : Nat} (hl : l.state = .ready)
    (h : s.fillCores r l (s.freeCores r) = .error c) : s.place r l = s.closeLaunch r.id l.seq .refused c := by
  unfold State.place
  rw [placeOn_of_ready s r hl]
  dsimp only
  rw [h]

/-! ## A launch starts -/

/-- A core in the entry state of a launch: its program counter, times, registers, tags and control registers (R21). -/
def Entered (l : Launch) (c : Core) : Prop :=
  c.pc = l.entry ∧ c.status = .running ∧ c.readyAt = 12 * l.startAt ∧ c.timed = false ∧ c.inh = false ∧
    c.cwp = BitVec.ofNat 64 l.wsbase ∧ c.crb = 16 ∧ c.csat = 0 ∧ c.crnd = 0 ∧ c.launch = l.seq ∧ c.cbatch = 0 ∧ c.cseg = 0 ∧
    c.xpc = 0 ∧ c.xcause = 0 ∧ c.xval = 0 ∧ c.xscratch = 0 ∧ c.suit = ⟨false, 0, 0, 0⟩ ∧ (∀ i : Fin 8, i.val ≠ 0 → c.m[i] = 0) ∧
    c.gs = Vector.replicate 8 none ∧ c.vs = Vector.replicate 4 none ∧
    c.g[2] = BitVec.ofNat 64 (if l.stack = 0 then 0x1C000 else l.stack) ∧
    (∀ i : Fin 4, c.g[4 + i.val]'(by omega) = l.args.getD i.val 0) ∧ (∀ i : Fin 32, i.val ∉ [2, 4, 5, 6, 7] → c.g[i] = 0) ∧
    c.v = Vector.replicate 16 0 ∧ c.vtag = Vector.replicate 16 0 ∧ c.t = Vector.replicate 8 0 ∧ c.ttag = Vector.replicate 8 0

theorem enter_pos (c : Core) (r : Region) (l : Launch) : (c.enter r l).pos = c.pos := by
  simp only [Core.enter, Core.reset]

theorem entered_enter (c : Core) (r : Region) (l : Launch) : Entered l (c.enter r l) := by
  refine ⟨rfl, rfl, rfl, rfl, rfl, rfl, rfl, rfl, rfl, rfl, rfl, rfl, rfl, rfl, rfl, rfl, rfl, ?_, rfl, rfl, ?_, ?_, ?_, rfl, rfl,
    rfl, rfl⟩
  · intro i hi
    exact Vector.getElem_replicate i.isLt
  · simp [Core.enter, orElse]
  · intro i
    have h2 : (⟨4 + i.val, by omega⟩ : Fin 32) ≠ 2 := fun h => by
      have : 4 + i.val = 2 := congrArg Fin.val h
      omega
    have h4 : 4 + i.val ≤ 7 := by omega
    simp [Core.enter, h2, h4]
  · intro i hi
    simp only [List.mem_cons, List.not_mem_nil, or_false, not_or] at hi
    have h2 : i ≠ 2 := fun h => hi.1 (congrArg Fin.val h)
    have h4 : ¬ (4 ≤ i.val ∧ i.val ≤ 7) := by omega
    simp [Core.enter, h2, h4]

/-- An increment leaves all of that (R315). -/
theorem Entered.increment {l : Launch} {c : Core} (h : Entered l c) (i : BitVec 6) (x : BitVec 32) : Entered l (c.increment i x) := h

theorem coreAt_setLog (s : State) (r : Region) (p : Nat) (i : BitVec 6) (v : BitVec 32) (k : Nat) :
    (s.setLog r p i v).coreAt k = s.coreAt k := by
  unfold State.setLog
  split
  · rfl
  · exact coreAt_of_besideMemory (besideMemory_poke _ _ _ _) k

/-- Replayed increments change no more of a core than increments do (R316). -/
theorem coreAt_replayLog {Q : Core → Prop} (hQ : ∀ c i x, Q c → Q (c.increment i x)) (s : State) (k : Nat) {p : Nat}
    (h : Q (s.coreAt p)) : Q ((s.replayLog k).coreAt p) := by
  unfold State.replayLog
  split
  · exact h
  · rename_i r _
    refine foldl_keeps (P := fun t : State => Q (t.coreAt p)) ?_ h _
    intro t i ht
    dsimp only
    split
    · exact ht
    · by_cases e : p = k
      · rw [e, coreAt_modCore_same _ k (fun c => c.increment _ _) (fun _ => rfl), coreAt_setLog, ← e]
        exact hQ _ _ _ ht
      · rw [coreAt_modCore_ne _ k p (fun c => c.increment _ _) (fun _ => rfl) e, coreAt_setLog]
        exact ht

theorem exec_launchStart {s : State} {q : RegionId} {r : Region} {l : Launch} (hr : s.region? q = some r)
    (hl : r.loading? = some l) (hdue : l.startAt ≤ s.ticks) : exec (.launchStart q) s = .next (s.startLaunch r l) := by
  show execLaunchStart q s = _
  unfold execLaunchStart
  simp only [hr, hl, if_pos hdue]

theorem startLaunch_of_fresh (s : State) (r : Region) {l : Launch} (hsaved : l.saved = []) :
    s.startLaunch r l = (l.cores.foldl State.replayLog (eachCore (fun c => c.enter r l) l.cores s)).modLaunch r.id l.seq
      (fun x => { x with state := .running, saved := [], boundary := l.startAt, superstep := 0 }) := by
  unfold State.startLaunch
  simp only [hsaved, List.isEmpty_nil, if_true, eachCore]

theorem coreAt_startLaunch (s : State) (r : Region) {l : Launch} (hsaved : l.saved = []) {p : Nat} (hp : p ∈ l.cores) :
    Entered l ((s.startLaunch r l).coreAt p) := by
  have hentered := coreAt_eachCore (f := fun c => c.enter r l) (fun c => enter_pos c r l) (Q := Entered l) (fun c => entered_enter c r l)
    (s := s) (.inl hp)
  rw [startLaunch_of_fresh s r hsaved, coreAt_modLaunch]
  exact foldl_keeps (P := fun t : State => Entered l (t.coreAt p)) (f := State.replayLog)
    (fun t k ht => coreAt_replayLog (fun _ i x hc => hc.increment i x) t k ht) hentered l.cores

/-- Settles O42: each event is reduced to the state that it leaves, through what it leaves of the queues and makes of a core. -/
theorem launchEvents : Obligations.LaunchEvents := by
  unfold Obligations.LaunchEvents
  refine ⟨?_, ?_, ?_, ?_, ?_⟩
  · intro q n s r l hr hl hw hd
    exact ⟨_, exec_launchReady hr hl hw hd, makeReady_readied hr hl, region?_makeReady hr hl⟩
  · intro q r b n k s u h hr hold
    obtain ⟨t, l, hqueues, hseq, hb, rfl, rfl⟩ := submit_ok h
    obtain ⟨v, hv, hvseq, hvl⟩ := region?_of_queues hqueues hr
    rw [← hvseq] at hseq hold
    rw [← hvl] at hold
    obtain ⟨w, m, hw, hm, hwseq, hasked⟩ := launch?_enqueued hv hseq hold hb
    obtain ⟨hentry, hargs, hstack, hbase⟩ := hasked
    exact ⟨w, m, (region?_writeBlock _ _ _).trans hw, hm, hvseq ▸ hseq, hwseq, hentry, hargs, hstack, hbase⟩
  · intro q s t r l cores hr he hc hl hcores ht
    subst hcores
    obtain ⟨v, hv, -, -⟩ := region?_of_queues (queues_fillCores hl ht) hr
    refine ⟨_, v, exec_launchPlace hr he hc, hv, ?_, ?_, ?_, ?_⟩
    all_goals rw [place_of_ok hl ht]
    · exact region?_id hr
    · rw [region?_id hr]
      exact region?_modLaunch_same ((region?_congr (takenCores_regions t r l _) q).trans hv) _ _
    · exact takenCores_mem _ _ _ _
    · intro p hp
      exact takenCores_launch t r hp
  · intro q s r l c hr he hc hl herr
    rw [exec_launchPlace hr he hc, place_of_error hl herr]
  · intro q s r l hr hl hdue hsaved _
    exact ⟨_, exec_launchStart hr hl hdue, fun p hp => coreAt_startLaunch s r hsaved hp⟩

end Sys2Proof.Proofs

namespace Sys2Proof.Proofs

open Sys2Proof Sys2Proof.Machine Sys2Proof.Says Sys2Proof.Laws

/-! ## Integers as numbers -/

/-- A number that is a whole integer, a zero of either sign included. -/
def Stands (x : Machine.Num) (z : Int) : Prop := ∃ s m, x = .fin s m 0 ∧ scaled s m 0 = z

theorem Stands.numInt_eq {x : Machine.Num} {z : Int} (h : Stands x z) : numInt (some x) = z := by
  obtain ⟨s, m, rfl, rfl⟩ := h
  rfl

theorem Stands.isNan_eq_false {x : Machine.Num} {z : Int} (h : Stands x z) : x.isNan = false := by
  obtain ⟨s, m, rfl, -⟩ := h
  rfl

theorem stands_one : Stands (.fin false 1 0) 1 := ⟨false, 1, rfl, rfl⟩

theorem stands_zero : Stands (.fin false 0 0) 0 := ⟨false, 0, rfl, rfl⟩

theorem Stands.mulNum_eq {x y : Machine.Num} {a b : Int} (hx : Stands x a) (hy : Stands y b) :
    ∃ r, mulNum x y = some r ∧ Stands r (a * b) := by
  obtain ⟨s, m, rfl, rfl⟩ := hx
  obtain ⟨t, n, rfl, rfl⟩ := hy
  refine ⟨.fin (s != t) (m * n) 0, rfl, _, _, rfl, ?_⟩
  cases s <;> cases t <;> grind [scaled]

/-- An integer is its magnitude with its sign; the sign of a zero does not matter. -/
theorem scaled_natAbs {neg : Bool} {z : Int} (h : z ≠ 0 → neg = decide (z < 0)) : scaled neg z.natAbs 0 = z := by
  obtain hz | rfl | hz := Int.lt_trichotomy z 0
  · have hneg : neg = true := (h (by omega)).trans (decide_eq_true hz)
    subst hneg
    show -((z.natAbs * 2 ^ 0 : Nat) : Int) = z
    omega
  · cases neg <;> rfl
  · have hneg : neg = false := (h (by omega)).trans (decide_eq_false (by omega))
    subst hneg
    show ((z.natAbs * 2 ^ 0 : Nat) : Int) = z
    omega

theorem Stands.addNum_eq {x y : Machine.Num} {a b : Int} (hx : Stands x a) (hy : Stands y b) :
    ∃ r, addNum .rne x y = some r ∧ Stands r (a + b) := by
  obtain ⟨s, m, rfl, rfl⟩ := hx
  obtain ⟨t, n, rfl, rfl⟩ := hy
  exact ⟨_, rfl, _, _, rfl, scaled_natAbs fun hz => if_neg hz⟩

/-- A fold whose step adds integers adds them all. -/
theorem foldl_stands {ι : Type} {f : Option Machine.Num → Machine.Num → Option Machine.Num}
    (hf : ∀ {a x y z}, Stands a y → Stands x z → ∃ r, f (some a) x = some r ∧ Stands r (y + z)) {x : ι → Machine.Num} {z : ι → Int}
    (hx : ∀ k, Stands (x k) (z k)) (ks : List ι) {a : Machine.Num} {y : Int} (ha : Stands a y) :
    ∃ r, (ks.map x).foldl f (some a) = some r ∧ Stands r (y + (ks.map z).sum) := by
  induction ks generalizing a y with
  | nil => exact ⟨a, rfl, (Int.add_zero y).symm ▸ ha⟩
  | cons k ks ih =>
    obtain ⟨b, hb, hsum⟩ := hf ha (hx k)
    rw [List.map_cons, List.foldl_cons, hb, List.map_cons, List.sum_cons, ← Int.add_assoc]
    exact ih hsum

theorem sumNums_stands {ι : Type} {x : ι → Machine.Num} {z : ι → Int} (hx : ∀ k, Stands (x k) (z k)) (ks : List ι) :
    ∃ r, sumNums (ks.map x) = some r ∧ Stands r (ks.map z).sum := by
  rw [← Int.zero_add (ks.map z).sum]
  refine foldl_stands (fun ha hx => ?_) hx ks stands_zero
  obtain ⟨r, hr, s, m, rfl, hz⟩ := ha.addNum_eq hx
  simp only [Option.bind_some, hx.isNan_eq_false, hr]
  cases m with
  | zero => exact ⟨_, rfl, false, 0, rfl, by rw [← hz]; cases s <;> rfl⟩
  | succ n => exact ⟨_, rfl, s, n + 1, rfl, hz⟩

theorem prodNums_stands {x y z : Machine.Num} {a b c : Int} (hx : Stands x a) (hy : Stands y b) (hz : Stands z c) :
    ∃ r, prodNums [x, y, z] = some r ∧ Stands r (a * b * c) := by
  obtain ⟨p, hp, hpa⟩ := stands_one.mulNum_eq hx
  obtain ⟨q, hq, hqb⟩ := hpa.mulNum_eq hy
  obtain ⟨r, hr, hrc⟩ := hqb.mulNum_eq hz
  rw [Int.one_mul] at hrc
  refine ⟨r, ?_, hrc⟩
  simp only [prodNums, List.foldl_cons, List.foldl_nil, Option.bind_some, hx.isNan_eq_false, hy.isNan_eq_false, hz.isNan_eq_false,
    Bool.false_eq_true, if_false, hp, hq, hr]

/-- The sum of a slice is the exact sum of the products of its steps (R130, R132). -/
theorem xsum_stands {ι : Type} (ks : List ι) {fa fb fc : ι → Machine.Num} {a b c : ι → Int} (ha : ∀ k, Stands (fa k) (a k))
    (hb : ∀ k, Stands (fb k) (b k)) (hc : ∀ k, Stands (fc k) (c k)) :
    ∃ r, xsum (ks.map fa) (ks.map fb) (ks.map fc) = some r ∧ Stands r (ks.map (fun k => a k * b k * c k)).sum := by
  obtain ⟨p, hp⟩ := Classical.axiomOfChoice (fun k => prodNums_stands (ha k) (hb k) (hc k))
  have hterms : ((ks.map fa).zip ((ks.map fb).zip (ks.map fc))).map (fun e => prodNums [e.1, e.2.1, e.2.2]) = (ks.map p).map some := by
    rw [List.zip_map', List.zip_map', List.map_map, List.map_map]
    exact List.map_congr_left (fun k _ => (hp k).1)
  have hnone : ((ks.map p).map some).any Option.isNone = false := by
    simp only [List.any_map, List.any_eq_false, Function.comp_apply, Option.isNone_some, Bool.false_eq_true, not_false_eq_true,
      implies_true]
  have hsome : ((ks.map p).map some).filterMap id = ks.map p := by
    rw [List.filterMap_map, Function.id_comp, List.filterMap_some]
  unfold xsum
  simp only [hterms, hnone, hsome]
  exact sumNums_stands (fun k => (hp k).2) ks

/-! ## Lanes of a word and their integers -/

theorem intVal_eq_signedOf (n x : Nat) : intVal true (8 * n) x = signedOf n (x % 2 ^ (8 * n)) := by
  unfold intVal signedOf
  generalize x % 2 ^ (8 * n) = y
  by_cases h : y < 2 ^ (8 * n - 1)
  · rw [if_pos h]
    exact if_neg (by simp only [Bool.true_and, decide_eq_true_eq, Nat.not_le, h])
  · rw [if_neg h]
    exact if_pos (by simp only [Bool.true_and, decide_eq_true_eq, Nat.not_lt.mp h])

/-- Saturated to 32 bits, and read back from its code, an integer is what R132 gives. -/
theorem signedOf_satInt (z : Int) : signedOf 4 (intCode 32 (satInt true 32 z).1 % 2 ^ 32) = sat32 z := by
  have hmin : intMin true 32 = -2147483648 := rfl
  have hmax : intMax true 32 = 2147483647 := rfl
  have hsat : (satInt true 32 z).1 = sat32 z := by
    unfold satInt sat32
    rw [hmin, hmax]
    split
    · omega
    · split <;> dsimp only <;> omega
  have hlow : -2147483648 ≤ sat32 z := by unfold sat32; omega
  have hhigh : sat32 z ≤ 2147483647 := by unfold sat32; omega
  rw [hsat]
  unfold intCode signedOf
  split <;> omega

/-- A lane within a bit vector is that lane of the number written to it. -/
theorem lane_ofNat {n w o : Nat} (h : w * o + w ≤ n) (x : Nat) :
    (BitVec.ofNat n x).toNat / 2 ^ (w * o) % 2 ^ w = x / 2 ^ (w * o) % 2 ^ w := by
  obtain ⟨k, rfl⟩ := Nat.exists_eq_add_of_le h
  rw [BitVec.toNat_ofNat, Nat.add_assoc, Nat.pow_add 2 (w * o), Nat.mod_mul_right_div_self,
    Nat.mod_mod_of_dvd _ (Nat.pow_dvd_pow 2 (Nat.le_add_right w k))]

theorem lane_packLanes (w : Nat) (vs : List Nat) (o : Nat) : packLanes w vs / 2 ^ (w * o) % 2 ^ w = vs.getD o 0 % 2 ^ w := by
  induction vs generalizing o with
  | nil => simp [packLanes]
  | cons v vs ih =>
    have hcons : packLanes w (v :: vs) = v % 2 ^ w + packLanes w vs * 2 ^ w := rfl
    rw [hcons]
    cases o with
    | zero => simp
    | succ o =>
      have hrest : (v % 2 ^ w + packLanes w vs * 2 ^ w) / 2 ^ w = packLanes w vs := by
        rw [Nat.add_mul_div_right _ _ (Nat.two_pow_pos w), Nat.div_eq_of_lt (Nat.mod_lt _ (Nat.two_pow_pos w)), Nat.zero_add]
      rw [Nat.mul_succ, Nat.add_comm (w * o), Nat.pow_add, ← Nat.div_div_eq_div_mul, hrest, ih, List.getD_cons_succ]

/-! ## A slice over the 256 accumulators -/

/-- An accumulator after a slice of integers (R132). -/
theorem accAt_cubeSlice (c : CubeCmd) (acc : TWord) (a b b2 cc : List (List Machine.Num)) {o : Nat} (ho : o < 256) :
    accAt (cubeSlice c true false acc a b b2 cc).1 o =
      sat32 (accAt acc o + numInt (xsum (a.getD (o / 16) [])
        ((if c.fn = 2 ∧ c.crbv.toNat ≤ o / 16 then b2 else b).getD (o % 16) []) (cc.getD (c.rowC (o / 16) (o % 16)) []))) := by
  have hold : intVal true 32 ((lanesOf 32 256 acc.toNat).getD o 0) = accAt acc o := by
    rw [show intVal true 32 _ = _ from intVal_eq_signedOf 4 _]
    simp [lanesOf, accAt, ho]
  rw [← hold, ← signedOf_satInt]
  show signedOf 4 ((BitVec.ofNat 8192 (packLanes 32 _)).toNat / 2 ^ (32 * o) % 2 ^ 32) = _
  rw [lane_ofNat (by omega), lane_packLanes]
  simp [ho, accInt]

/-! ## The operands of a product -/

/-- The rows of a tile of 8-bit integers, with the elements of the steps ks (R212, R217). -/
def tileRows (g : Group) (x : TWord) (ks : List Nat) : List (List Machine.Num) :=
  (List.range 16).map (fun r => ks.map (fun k => elemOf g 4 (x.toNat / 2 ^ (512 * r + 8 * k) % 2 ^ 8)))

/-- The rows of the operand ONE for a slice of 16 steps (R54). -/
def oneRows : List (List Machine.Num) := List.replicate 16 (List.replicate 16 (.fin false 1 0))

/-- The steps of a slice (R129). -/
def sliceSteps (sl : Nat) : List Nat := (List.range 16).map (fun j => 16 * sl + j)

theorem tileRows_getD (g : Group) (x : TWord) (ks : List Nat) {r : Nat} (hr : r < 16) :
    (tileRows g x ks).getD r [] = ks.map (fun k => elemOf g 4 (x.toNat / 2 ^ (512 * r + 8 * k) % 2 ^ 8)) := by
  simp [tileRows, hr]

theorem oneRows_getD (sl : Nat) {r : Nat} (hr : r < 16) :
    oneRows.getD r [] = (sliceSteps sl).map (fun _ => Machine.Num.fin false 1 0) := by
  rw [List.map_const', oneRows, List.getD_eq_getElem?_getD, List.getElem?_replicate, if_pos hr]
  rfl

theorem stands_elemOf (g : Group) (x : TWord) (r k : Nat) :
    Stands (elemOf g 4 (x.toNat / 2 ^ (512 * r + 8 * k) % 2 ^ 8)) (tileInt x r k) := by
  refine ⟨_, _, rfl, ?_⟩
  rw [scaled_natAbs (fun _ => rfl), show intVal true 8 _ = _ from intVal_eq_signedOf 1 _]
  simp [tileInt]

/-- With nothing else queued, a command finds each tile as its core holds it (R222). -/
theorem tileFor_of_onlyCmd {s : State} {grp : Nat} {c : CubeCmd} (h : onlyCmd s grp c) (hundef : c.undef = []) (i : Nat) :
    s.tileFor c i = (s.coreAt c.core).t.toList.getD i 0 := by
  obtain ⟨hqueue, rfl⟩ := h
  simp [State.tileFor, hqueue, hundef]

theorem plane_zero (c : CubeCmd) : c.plane 0 = planeOf c.asel c.abase c.alay := rfl

theorem plane_one (c : CubeCmd) : c.plane 1 = planeOf c.bsel c.bbase c.blay := rfl

theorem plane_three (c : CubeCmd) : c.plane 3 = planeOf c.csel c.cbase c.clay := by
  unfold CubeCmd.plane CubeCmd.planes
  split <;> rfl

theorem planeOf_tile {i : Nat} (h : i < 8) (base lay : Word) : planeOf i base lay = .tile i := if_pos h

theorem viewRows_of_ne {c : CubeCmd} {i : Nat} (h : i ≠ 3) : c.viewRows i = List.range 16 := by
  simp [CubeCmd.viewRows, h]

/-- The rows of a tile of 8-bit integers that a product other than KR uses (R212, R220). -/
theorem readPlane_tile {s : State} {c : CubeCmd} {i t : Nat} (hplane : c.plane i = .tile t) (htag : c.tags.getD i 0 = 4)
    (hmode : c.mode ≠ 4) (hi : i ≠ 3) (ks : List Nat) :
    s.readPlane c i ks = .ok (tileRows (s.groupAt (groupOf c.core)) (s.tileFor c t) ks) := by
  have helem : ∀ r k, s.elemAt c i (c.plane i) r (c.elemIndex i k) =
      pure (elemOf (s.groupAt (groupOf c.core)) 4 ((s.tileFor c t).toNat / 2 ^ (512 * r + 8 * k) % 2 ^ 8)) := fun r k => by
    rw [hplane]
    simp only [State.elemAt, CubeCmd.tagAt, CubeCmd.elemIndex, htag, if_neg hmode]
    rfl
  unfold State.readPlane
  rw [viewRows_of_ne hi]
  simp only [helem, List.mapM_pure]
  rfl

theorem rowC_lt (c : CubeCmd) {m n : Nat} (hm : m < 16) (hn : n < 16) : c.rowC m n < 16 := by
  unfold CubeCmd.rowC
  split <;> omega

/-! ## A step of a product command -/

/-- A TMUL of tiles a and b of 8-bit integers whose third operand is ONE (R217, R221); its mode is not KR. -/
structure TileProduct (c : CubeCmd) (a b : Nat) : Prop where
  product : c.isProduct = true
  form : c.fn = 0
  mode : c.mode < 4
  tagA : c.tags.getD 0 0 = 4
  tagB : c.tags.getD 1 0 = 4
  planeA : c.plane 0 = .tile a
  planeB : c.plane 1 = .tile b
  planeC : c.plane 3 = .one

namespace TileProduct

theorem of_word {c : CubeCmd} {d m : BitVec 3} {a b : BitVec 5} (hword : c.word = BitVec.ofNat 32 (Instr.encode (.tmul d a b 16 m)))
    (ha : a.toNat < 8) (hb : b.toNat < 8) (hm : m.toNat < 4) (htags : c.tags.take 2 = [4, 4]) : TileProduct c a.toNat b.toNat := by
  have hd := d.isLt
  have hw : c.word.toNat = 0x69 + d.toNat * 2 ^ 7 + a.toNat * 2 ^ 10 + b.toNat * 2 ^ 15 + 16 * 2 ^ 20 + m.toNat * 2 ^ 25 := by
    rw [hword, BitVec.toNat_ofNat]
    show (0x69 + d.toNat * 2 ^ 7 + a.toNat * 2 ^ 10 + b.toNat * 2 ^ 15 + 16 * 2 ^ 20 + m.toNat * 2 ^ 25) % 2 ^ 32 = _
    omega
  have hmaj : c.maj = 0x34 := by unfold CubeCmd.maj; omega
  have hfn : c.fn = 0 := by unfold CubeCmd.fn; omega
  have hasel : c.asel = a.toNat := by unfold CubeCmd.asel; omega
  have hbsel : c.bsel = b.toNat := by unfold CubeCmd.bsel; omega
  have hcsel : c.csel = 16 := by unfold CubeCmd.csel; omega
  have hmode : c.mode = m.toNat := by unfold CubeCmd.mode; omega
  have htag : ∀ i, i < 2 → c.tags.getD i 0 = [4, 4].getD i 0 := fun i hi => by
    rw [← htags]
    simp [hi]
  exact {
    product := by simp [CubeCmd.isProduct, hmaj]
    form := hfn
    mode := hmode ▸ hm
    tagA := htag 0 (by omega)
    tagB := htag 1 (by omega)
    planeA := by rw [plane_zero, hasel, planeOf_tile ha]
    planeB := by rw [plane_one, hbsel, planeOf_tile hb]
    planeC := by rw [plane_three, hcsel]; rfl }

variable {s : State} {c : CubeCmd} {a b : Nat}

theorem isInt_eq_true (h : TileProduct c a b) : c.isInt = true := by
  have htag : c.tagAt 0 (planeOf c.asel c.abase c.alay) = 4 := by
    rw [← plane_zero, h.planeA]
    exact h.tagA
  rw [CubeCmd.isInt, htag]
  rfl

theorem isPart_eq_false (h : TileProduct c a b) : c.isPart = false := by
  simp [CubeCmd.isPart, h.form]

theorem isLprod_eq_false (h : TileProduct c a b) : c.isLprod = false := by
  have hmaj : c.maj = 0x34 := beq_iff_eq.mp h.product
  simp [CubeCmd.isLprod, hmaj]

theorem stepSlices_eq_one (h : TileProduct c a b) : c.stepSlices = 1 := by
  simp [CubeCmd.stepSlices, h.form]

/-- A slice reads the rows of both tiles and adds to the accumulator (R132, R220). -/
theorem runSlices_one (h : TileProduct c a b) (sl : Nat) :
    (s.runSlices c 1 sl).map Prod.fst = .ok (cubeSlice c true false (c.acc.headD 0)
      (tileRows (s.groupAt (groupOf c.core)) (s.tileFor c a) (sliceSteps sl))
      (tileRows (s.groupAt (groupOf c.core)) (s.tileFor c b) (sliceSteps sl)) [] oneRows).1 := by
  have hA := readPlane_tile (s := s) h.planeA h.tagA (Nat.ne_of_lt h.mode) (by decide) (sliceSteps sl)
  have hB := readPlane_tile (s := s) h.planeB h.tagB (Nat.ne_of_lt h.mode) (by decide) (sliceSteps sl)
  have hC : (c.plane 3 == .one) = true := by rw [h.planeC]; rfl
  unfold sliceSteps at hA hB ⊢
  simp only [State.runSlices, h.form, hA, hB, hC, h.isInt_eq_true, h.isPart_eq_false, Bool.false_and]
  rfl

/-- The exact sum of a slice enters each accumulator and saturates there (R132, R221). -/
theorem accAt_slice (h : TileProduct c a b) (g : Group) (acc A B : TWord) (sl : Nat) {o : Nat} (ho : o < 256) :
    accAt (cubeSlice c true false acc (tileRows g A (sliceSteps sl)) (tileRows g B (sliceSteps sl)) [] oneRows).1 o =
      sat32 (accAt acc o + ((List.range 16).map (fun j =>
        tileInt A (o / 16) (16 * sl + j) * tileInt B (o % 16) (16 * sl + j))).sum) := by
  have hm : o / 16 < 16 := by omega
  have hn : o % 16 < 16 := by omega
  obtain ⟨e, he, hstands⟩ := xsum_stands (sliceSteps sl) (stands_elemOf g A (o / 16)) (stands_elemOf g B (o % 16)) (fun _ => stands_one)
  rw [accAt_cubeSlice c acc _ _ _ _ ho, if_neg (by simp [h.form]), tileRows_getD _ _ _ hm, tileRows_getD _ _ _ hn,
    oneRows_getD sl (rowC_lt c hm hn), he, hstands.numInt_eq]
  simp [sliceSteps, Function.comp_def]

/-- The step of a dense product is one slice. -/
theorem stepOf_eq (h : TileProduct c a b) : s.stepOf c = some (s.productStep c) := by
  simp [State.stepOf, h.isLprod_eq_false, h.product, h.form, h.isPart_eq_false]

end TileProduct

/-- A dense product's step changes its command alone (R209). -/
theorem productStep_eq {s : State} {c : CubeCmd} {acc : TWord} (hpart : c.isPart = false) (hone : c.stepSlices = 1)
    (h : (s.runSlices c 1 c.step).map Prod.fst = .ok acc) :
    ∃ d : CubeCmd, s.productStep c = s.modCube c (fun _ => d) ∧ d.core = c.core ∧ d.step = c.step + 1 ∧ d.acc = [acc] := by
  cases hrun : s.runSlices c 1 c.step with
  | error e => rw [hrun] at h; cases h
  | ok r =>
    rw [hrun] at h
    cases h
    unfold State.productStep
    simp only [hone, Nat.add_sub_cancel, hrun, hpart]
    exact ⟨_, rfl, rfl, rfl, rfl⟩

theorem onlyCmd_modCube {s : State} {grp : Nat} {c : CubeCmd} (h : onlyCmd s grp c) {f : CubeCmd → CubeCmd} (hf : (f c).core = c.core) :
    onlyCmd (s.modCube c f) grp (f c) := by
  obtain ⟨hqueue, rfl⟩ := h
  refine ⟨?_, congrArg groupOf hf⟩
  rw [State.modCube, groupAt_modGroup_same _ _ _ (by intro; rfl), hqueue]
  simp

theorem exec_cubeStep {s t : State} {grp : Nat} {c : CubeCmd} (h : onlyCmd s grp c) (hstarted : c.started = true)
    (hstep : c.step < c.total) (hdue : c.due ≤ s.now) (hstops : s.cubeStops c = false) (ht : s.stepOf c = some t) :
    exec (.cubeStep grp) s = .next t := by
  have hrunning : (s.groupAt grp).running = some c := by
    simp [Group.running, h.1, CubeCmd.stepped, hstarted, hstep]
  show execCubeStep grp s = _
  simp [execCubeStep, State.stepCube, hrunning, Nat.not_lt.mpr hdue, hstops, ht]

/-- Settles O46: the step is one slice, whose sums are exact sums of integers. -/
theorem cubeSliceOnIntegers : Obligations.CubeSliceOnIntegers := by
  unfold Obligations.CubeSliceOnIntegers
  intro grp s c d a b m x A B honly hword ha hb hm htags hstarted htotal hstep hdue hacc hstops hundef hA hB
  have hprod := TileProduct.of_word hword ha hb hm htags
  have hrun := hprod.runSlices_one (s := s) c.step
  rw [tileFor_of_onlyCmd honly hundef, tileFor_of_onlyCmd honly hundef, ← hA, ← hB, hacc, List.headD_cons] at hrun
  obtain ⟨e, he, hcore, hnext, hout⟩ := productStep_eq hprod.isPart_eq_false hprod.stepSlices_eq_one hrun
  refine ⟨s.modCube c (fun _ => e), e, _, ?_, onlyCmd_modCube honly hcore, hnext, hout, rfl, rfl,
    fun o ho => hprod.accAt_slice _ x A B c.step ho⟩
  exact exec_cubeStep honly hstarted (htotal ▸ hstep) hdue hstops (hprod.stepOf_eq.trans (congrArg some he))

end Sys2Proof.Proofs
